-- ==== Sys2Proof/Word.lean ====
section
/-!
DEFINITION. Sys2Proof/Word.lean: the names of the widths the spec computes on (R1, R18, R20) and of a register field (R23).
-/

namespace Sys2Proof

/-- A 6-bit register field of an instruction word (R23). -/
abbrev Reg := BitVec 6
/-- One byte of memory. -/
abbrev Byte := BitVec 8
/-- A 32-bit register, predicate mask or lane mask. -/
abbrev W32 := BitVec 32
/-- A 64-bit operand, address or special register. -/
abbrev W64 := BitVec 64

end Sys2Proof
end

