-- ==== Sys2Proof/Config.lean ====
section
/-!
DEFINITION. Sys2Proof/Config.lean: what the spec leaves open as a value. Each is an opaque constant without a body applied to the
counter `fresh` of the state (and to what the open value belongs to): nothing in Lean can compute or prove a value of it (log 5).
What a configuration of the part fixes (core counts, sizes) stands where it is used, with its rule.
-/

namespace Sys2Proof.Config

/-- Which of the values R35 allows a read inside a lookahead window receives, by the counter and the register place and lane (log 6). -/
opaque windowPick : Nat → Nat → Nat

/-- An unpredictable 64-bit value (R6), by the counter and the place it is for (log 5). -/
opaque unpredictable : Nat → Nat → W64

/-- Whether a translation uses the old entry or the new one before TLBINV (R332), by the counter and the address (log 12). -/
opaque stalePick : Nat → W64 → Bool

/-- Whether a fetch uses the old word or the new one before ICINV (R223), by the counter and the line (log 12). -/
opaque stalePickLine : Nat → Nat → Bool

/-- Which of several outcomes the spec allows without fixing one, by the counter and a number of the question (log 5). -/
opaque choose : Nat → Nat → Nat

/-- Where the result of an f32 or f64 approximation lies among the values within R92's bound, by the function, the type and the
argument: it is a pure function of them (R92, log 10). -/
opaque approx : Nat → Nat → W64 → Nat

/-- The HBM4E channel, 0 to 127, that holds a physical address: the spec does not give the interleaving (log 14). -/
opaque channelOf : Nat → Nat

/-- The LPDDR6 controller, 0 to 15, that holds a physical address: the spec does not give the interleaving (log 14). -/
opaque lpdControllerOf : Nat → Nat

/-- How far a core is from the home of a physical address in the distributor's table, which the spec does not give (R147, log 14). -/
opaque distance : Nat → Nat → Nat

/-- The pseudo-channel that holds a compute-capable page (R285): the spec does not give the numbering (log 14). -/
opaque pseudoChannelOf : Nat → Nat

end Sys2Proof.Config
end

