-- ==== Sys2Proof/Syntax.lean ====
section
/-!
DEFINITION. Sys2Proof/Syntax.lean: the instruction type. One constructor per row of spec/opcode_table.json: the 181 encoded
instructions of R39, whose arguments are the word's fields under R20 in the table's order (register fields are `Reg`), and the
96 rows without an encoding, each an indivisible event of an agent other than the issuing split
(spec/95_what_each_step_holds.md). An event's arguments name what it happens to and carry what the spec leaves to the agent that
causes it: `gid`, `tid`, `rid`, `cid` are the model's own names of a group, a team, a request in flight, an IRED command.
-/

namespace Sys2Proof

/-- Where a load's value comes from, among the candidates of R188: the representative at the home (a), the issuing core's L1 copy
under its lease (a, b), or the split's own earlier store that has not performed yet (c). -/
inductive LoadSource where
  | home
  | l1
  | forward
  deriving DecidableEq, Repr

/-- The rows of spec/opcode_table.json. -/
inductive Instr where
  | add (d a b : Reg)  -- ADD, R72
  | sub (d a b : Reg)  -- SUB, R72
  | addx (d a b : Reg)  -- ADDX, R83
  | mul (d a b : Reg)  -- MUL, R72
  | mulh (d a b : Reg)  -- MULH, R72
  | mad (d a b : Reg)  -- MAD, R72
  | div (d a b : Reg)  -- DIV, R73
  | rem (d a b : Reg)  -- REM, R73
  | min (d a b : Reg)  -- MIN, R72
  | max (d a b : Reg)  -- MAX, R72
  | abs (d a : Reg)  -- ABS, R72
  | and (d a b : Reg)  -- AND, R75
  | or (d a b : Reg)  -- OR, R75
  | xor (d a b : Reg)  -- XOR, R75
  | andn (d a b : Reg)  -- ANDN, R75
  | orn (d a b : Reg)  -- ORN, R75
  | shl (d a b : Reg)  -- SHL, R76
  | shr (d a b : Reg)  -- SHR, R76
  | rot (d a b : Reg)  -- ROT, R76
  | popc (d a : Reg)  -- POPC, R77
  | clz (d a : Reg)  -- CLZ, R77
  | ctz (d a : Reg)  -- CTZ, R77
  | brev (d a : Reg)  -- BREV, R77
  | bfx (d a b : Reg)  -- BFX, R78
  | bfi (d a b : Reg)  -- BFI, R78
  | sel (d a b : Reg)  -- SEL, R81
  | cmp (c p : BitVec 3) (a b : Reg)  -- CMP, R82
  | mov (d a : Reg)  -- MOV, R80
  | lea (d a b : Reg) (sc : BitVec 2)  -- LEA, R83
  | dot4 (d a b : Reg)  -- DOT4, R74
  | bperm (d a b : Reg)  -- BPERM, R79
  | addi (d a : Reg) (imm : BitVec 13)  -- ADDI, R72
  | andi (d a : Reg) (imm : BitVec 13)  -- ANDI, R75
  | ori (d a : Reg) (imm : BitVec 13)  -- ORI, R75
  | xori (d a : Reg) (imm : BitVec 13)  -- XORI, R75
  | shli (d a : Reg) (n : BitVec 6)  -- SHLI, R76
  | shri (d a : Reg) (n : BitVec 6)  -- SHRI, R76
  | cmpi (c p : BitVec 3) (a : Reg) (imm : BitVec 13)  -- CMPI, R82
  | movi (d : Reg) (imm : BitVec 19)  -- MOVI, R80
  | ihi (d : Reg) (imm : BitVec 19)  -- IHI, R80
  | fadd (d a b : Reg)  -- FADD, R84
  | fsub (d a b : Reg)  -- FSUB, R84
  | fmul (d a b : Reg)  -- FMUL, R84
  | ffma (d a b : Reg)  -- FFMA, R84
  | fmin (d a b : Reg)  -- FMIN, R85
  | fmax (d a b : Reg)  -- FMAX, R85
  | fabs (d a : Reg)  -- FABS, R86
  | fneg (d a : Reg)  -- FNEG, R86
  | fcmp (c p : BitVec 3) (a b : Reg)  -- FCMP, R87
  | fclass (d a : Reg)  -- FCLASS, R88
  | frnd (d a : Reg)  -- FRND, R89
  | fscale (d a b : Reg)  -- FSCALE, R90
  | frcp (d a : Reg) (l : BitVec 4)  -- FRCP, R91
  | frsq (d a : Reg) (l : BitVec 4)  -- FRSQ, R91
  | fsqrt (d a : Reg) (l : BitVec 4)  -- FSQRT, R91
  | fexp2 (d a : Reg) (l : BitVec 4)  -- FEXP2, R91
  | flog2 (d a : Reg) (l : BitVec 4)  -- FLOG2, R91
  | fsin (d a : Reg) (l : BitVec 4)  -- FSIN, R91
  | fcos (d a : Reg) (l : BitVec 4)  -- FCOS, R91
  | cvt (d a : Reg) (t : BitVec 5)  -- CVT, R94
  | cvtdx (d a : Reg) (f : BitVec 2)  -- CVTDX, R95
  | cvtmx (d a : Reg) (f : BitVec 3)  -- CVTMX, R95
  | qswapH (d a : Reg)  -- QSWAP_H, R100
  | qswapV (d a : Reg)  -- QSWAP_V, R100
  | qswapD (d a : Reg)  -- QSWAP_D, R100
  | qbcast (d a : Reg) (q : BitVec 2)  -- QBCAST, R100
  | shfl (d a b : Reg)  -- SHFL, R101
  | shflu (d a b : Reg)  -- SHFLU, R101
  | shfld (d a b : Reg)  -- SHFLD, R101
  | shflx (d a b : Reg)  -- SHFLX, R101
  | voteAll (p a : BitVec 3)  -- VOTE_ALL, R103
  | voteAny (p a : BitVec 3)  -- VOTE_ANY, R103
  | voteBallot (d : Reg) (a : BitVec 3)  -- VOTE_BALLOT, R103
  | gscanIncl (d a : Reg) (o : BitVec 3)  -- GSCAN_INCL, R105
  | gscanExcl (d a : Reg) (o : BitVec 3)  -- GSCAN_EXCL, R105
  | gred (d a : Reg) (o : BitVec 3)  -- GRED, R105
  | matchLanes (d a : Reg)  -- MATCH, R104
  | plog (d a b : BitVec 3) (t : BitVec 4)  -- PLOG, R106
  | br (o : BitVec 22)  -- BR, R108
  | brc (c : BitVec 3) (o : BitVec 22)  -- BRC, R109
  | call (f : BitVec 3) (o : BitVec 22)  -- CALL, R115
  | brx (a : Reg)  -- BRX, R110
  | ret  -- RET, R117
  | exit  -- EXIT, R119
  | nop  -- NOP, R120
  | yield (d a : Reg)  -- YIELD, R121
  | callx (a : Reg) (f : BitVec 3)  -- CALLX, R115
  | setm (m : BitVec 5) (imm : BitVec 14)  -- SETM, R30
  | setmR (m : BitVec 5) (a : Reg)  -- SETM_R, R30
  | getm (d : Reg)  -- GETM, R31
  | pushm  -- PUSHM, R113
  | popm  -- POPM, R113
  | ld (d b : Reg) (o : BitVec 9) (l : BitVec 4)  -- LD, R208
  | st (d b : Reg) (o : BitVec 9) (l : BitVec 4)  -- ST, R208
  | ldStr (d b : Reg) (o : BitVec 9) (sc : BitVec 4)  -- LD_STR, R209
  | stStr (d b : Reg) (o : BitVec 9) (sc : BitVec 4)  -- ST_STR, R209
  | ldAcq (d b : Reg) (o : BitVec 9) (sc : BitVec 4)  -- LD_ACQ, R209
  | stRel (d b : Reg) (o : BitVec 9) (sc : BitVec 4)  -- ST_REL, R209
  | ldh (d b : Reg) (o : BitVec 9) (c : BitVec 4)  -- LDH, R211
  | pref (v : BitVec 2) (b : Reg) (o : BitVec 9)  -- PREF, R212
  | lds (d b : Reg) (o : BitVec 9) (l : BitVec 4)  -- LDS, R213
  | sts (d b : Reg) (o : BitVec 9) (l : BitVec 4)  -- STS, R213
  | ldc (d b : Reg) (o : BitVec 9) (l : BitVec 4)  -- LDC, R213
  | stc (d b : Reg) (o : BitVec 9) (l : BitVec 4)  -- STC, R213
  | ldx (d b : Reg) (o : BitVec 9) (l : BitVec 4)  -- LDX, R213
  | stx (d b : Reg) (o : BitVec 9) (l : BitVec 4)  -- STX, R213
  | ldl (d b : Reg) (o : BitVec 9) (l : BitVec 4)  -- LDL, R213
  | stl (d b : Reg) (o : BitVec 9) (l : BitVec 4)  -- STL, R213
  | amo (d a b : Reg) (l : BitVec 4) (o : BitVec 3)  -- AMO, R215
  | cas (d a b : Reg) (l : BitVec 4)  -- CAS, R217
  | amos (d a b : Reg) (l : BitVec 4) (o : BitVec 3)  -- AMOS, R219
  | red (a b : Reg) (l : BitVec 4) (o : BitVec 3)  -- RED, R215
  | fence (c : BitVec 4) (sc p : BitVec 6)  -- FENCE, R195
  | xfence (c t f : BitVec 4)  -- XFENCE, R197
  | pfence (k : BitVec 2)  -- PFENCE, R200
  | icinv (sc : BitVec 4)  -- ICINV, R223
  | ldfe (d a : Reg)  -- LDFE, R225
  | ldfeE (d a : Reg)  -- LDFE_E, R225
  | stfe (a b : Reg)  -- STFE, R225
  | fesetE (a : Reg)  -- FESET_E, R225
  | fesetF (a : Reg)  -- FESET_F, R225
  | feq (d a : Reg)  -- FEQ, R225
  | tbinit (a b : Reg)  -- TBINIT, R228
  | tbarr (d a b : Reg)  -- TBARR, R228
  | tbwait (d a b : Reg)  -- TBWAIT, R229
  | tbret (a : Reg)  -- TBRET, R228
  | cpyTile (d a b : Reg) (l : BitVec 4)  -- CPY_TILE, R239
  | cpyLin (d a b : Reg) (l : BitVec 4)  -- CPY_LIN, R241
  | cpyMem (d a b : Reg) (l : BitVec 4)  -- CPY_MEM, R241
  | cpyoTile (d a b : Reg) (l : BitVec 4)  -- CPYO_TILE, R240
  | cpyoLin (d a b : Reg) (l : BitVec 4)  -- CPYO_LIN, R241
  | gath (d a b : Reg) (l : BitVec 4)  -- GATH, R241
  | scat (d a b : Reg) (l : BitVec 4)  -- SCAT, R241
  | walkExact (d a b : Reg) (l : BitVec 4)  -- WALK_EXACT, R242
  | walkFloor (d a b : Reg) (l : BitVec 4)  -- WALK_FLOOR, R242
  | obres (d a b : Reg)  -- OBRES, R254
  | obrel (a : Reg)  -- OBREL, R257
  | mma (t : BitVec 4) (a b : Reg) (l : BitVec 4) (k : BitVec 1)  -- MMA, R264
  | mmas (t : BitVec 4) (a b : Reg) (l : BitVec 4) (k : BitVec 1)  -- MMAS, R265
  | mloop (t : BitVec 4) (a b : Reg) (l : BitVec 4) (sc : BitVec 1)  -- MLOOP, R266
  | mbatch (d : Reg)  -- MBATCH, R267
  | mwait (d a : Reg)  -- MWAIT, R268
  | accrd (d b : Reg)  -- ACCRD, R270
  | accwr (a b : Reg)  -- ACCWR, R270
  | accst (a b : Reg)  -- ACCST, R271
  | accz (t : BitVec 4)  -- ACCZ, R269
  | mcomp (d a : Reg) (l : BitVec 4)  -- MCOMP, R273
  | ired (a : Reg) (l : BitVec 4) (f : BitVec 3)  -- IRED, R281
  | nbrun (d a : Reg) (l : BitVec 4)  -- NBRUN, R287
  | nbwait (d a : Reg)  -- NBWAIT, R293
  | nbq (d a : Reg)  -- NBQ, R293
  | land (d a b : Reg)  -- LAND, R296
  | launch (d a : Reg) (l : BitVec 4)  -- LAUNCH, R311
  | lwait (d a : Reg) (l : BitVec 4)  -- LWAIT, R312
  | lquery (d a : Reg) (l : BitVec 4)  -- LQUERY, R312
  | iter (d : Reg)  -- ITER, R316
  | fixup (d a : Reg)  -- FIXUP, R317
  | xacq (d a : Reg) (k : BitVec 6)  -- XACQ, R142
  | xrel (d a : Reg) (k : BitVec 6)  -- XREL, R142
  | gmig (d a : Reg) (l : BitVec 4)  -- GMIG, R147
  | csrr (d : Reg) (c : BitVec 12)  -- CSRR, R344
  | csrw (d : Reg) (c : BitVec 12)  -- CSRW, R344
  | trap (n : BitVec 12)  -- TRAP, R354
  | tret  -- TRET, R355
  | tlbinv (a b : Reg)  -- TLBINV, R365
  | ctxstart (d a : Reg)  -- CTXSTART, R362
  | ctxkill (d a : Reg)  -- CTXKILL, R363
  | rcfence (d a : Reg)  -- RCFENCE, R364
  | eres (d a b : Reg)  -- ERES, R358
  | drain (d a : Reg)  -- DRAIN, R366
  | halt  -- HALT, R367
  | thset (d a b : Reg)  -- THSET, R340
  | thclr (d a : Reg)  -- THCLR, R341
  | append (d a : Reg) (l : BitVec 4)  -- APPEND, R372
  | apseal (d a : Reg) (l : BitVec 4)  -- APSEAL, R374
  | apwait (d a b : Reg) (l : BitVec 4)  -- APWAIT, R373
  | wsget (d a : Reg) (l : BitVec 4)  -- WSGET, R380
  | wsrel (a b : Reg) (l : BitVec 4)  -- WSREL, R381
  | wsset (d a b : Reg) (l : BitVec 4)  -- WSSET, R379
  | ckclose (d a b : Reg)  -- CKCLOSE, R429
  | shseal (d : Reg)  -- SHSEAL, R418
  | l2leaseWrite (q : BitVec 2) (v : BitVec 32)  -- L2LEASE_WRITE, R163
  | mcselWrite (v : BitVec 32)  -- MCSEL_WRITE, R445
  | evcntWrite (core : Nat) (k : BitVec 3) (v : BitVec 64)  -- EVCNT_WRITE, R447
  | timeTick  -- TIME_TICK, R345
  | splitHoldTimeout (gid e : Nat)  -- SPLIT_HOLD_TIMEOUT, R132
  | splitMerge (gid lo hi : Nat)  -- SPLIT_MERGE, R133
  | yieldWake (gid e : Nat)  -- YIELD_WAKE, R121
  | yreqExpiry (gid : Nat)  -- YREQ_EXPIRY, R123
  | preemption (ls : Nat)  -- PREEMPTION, R318
  | groupEviction (gid : Nat)  -- GROUP_EVICTION, R320
  | groupResume (gid : Nat)  -- GROUP_RESUME, R322
  | gangPlacement (ls : Nat)  -- GANG_PLACEMENT, R314
  | controlCorePlacement (ls : Nat)  -- CONTROL_CORE_PLACEMENT, R315
  | launchDependencesMet (ls : Nat)  -- LAUNCH_DEPENDENCES_MET, R310
  | launchCompletion (ls : Nat)  -- LAUNCH_COMPLETION, R313
  | groupEnd (gid : Nat)  -- GROUP_END, R119
  | xacqGrant (tid : Nat) (tiles : Bool)  -- XACQ_GRANT, R143
  | gondola (gid : Nat)  -- GONDOLA, R148
  | loadResponse (rid : Nat) (src : LoadSource)  -- LOAD_RESPONSE, R206
  | writePerform (rid : Nat)  -- WRITE_PERFORM, R182
  | atomicPerform (rid : Nat)  -- ATOMIC_PERFORM, R194
  | leaseExpiry (core line : Nat)  -- LEASE_EXPIRY, R163
  | waitTableRetry (gid e : Nat)  -- WAIT_TABLE_RETRY, R169
  | trapEntry (gid : Nat)  -- TRAP_ENTRY, R351
  | engineCommandStart (core k : Nat)  -- ENGINE_COMMAND_START, R236
  | engineDelivery (core k units : Nat)  -- ENGINE_DELIVERY, R243
  | engineCommandEnd (core k : Nat)  -- ENGINE_COMMAND_END, R243
  | engineRestartableFault (core k : Nat)  -- ENGINE_RESTARTABLE_FAULT, R244
  | faultReportDelivery (ctl : Nat)  -- FAULT_REPORT_DELIVERY, R357
  | flashDefer (rid : Nat)  -- FLASH_DEFER, R333
  | parkingWake (gid : Nat)  -- PARKING_WAKE, R333
  | parkingEscalation (gid : Nat)  -- PARKING_ESCALATION, R336
  | thermalSelfRefresh (stack : Nat)  -- THERMAL_SELF_REFRESH, R298
  | thermalSelfRefreshExit (stack : Nat)  -- THERMAL_SELF_REFRESH_EXIT, R298
  | thermalHoldPark (gid : Nat)  -- THERMAL_HOLD_PARK, R298
  | matrixKstep (core : Nat)  -- MATRIX_KSTEP, R264
  | accstRowLand (core : Nat) (row : BitVec 4)  -- ACCST_ROW_LAND, R271
  | matrixOpFault (core : Nat)  -- MATRIX_OP_FAULT, R274
  | nbRowOperation (pc : Nat)  -- NB_ROW_OPERATION, R290
  | refreshDue (pc : Nat)  -- REFRESH_DUE, R291
  | iredCommand (cid line : Nat)  -- IRED_COMMAND, R283
  | landingPacket (ep : Nat) (hdr : BitVec 128) (data : List (BitVec 8))  -- LANDING_PACKET, R396
  | landingPacketHoldExpiry (k : Nat)  -- LANDING_PACKET_HOLD_EXPIRY, R396
  | landingCloseComplete (k : Nat)  -- LANDING_CLOSE_COMPLETE, R296
  | dirReadFill (agent line : Nat)  -- DIR_READ_FILL, R387
  | dirOwnershipRequest (agent line : Nat)  -- DIR_OWNERSHIP_REQUEST, R387
  | dirWriteAtHome (line : Nat)  -- DIR_WRITE_AT_HOME, R387
  | dirWriteback (agent line : Nat) (evict : Bool)  -- DIR_WRITEBACK, R387
  | dirCleanEvictNotice (agent line : Nat)  -- DIR_CLEAN_EVICT_NOTICE, R387
  | gleaner (cache line : Nat)  -- GLEANER, R389
  | directoryEntryError (line : Nat)  -- DIRECTORY_ENTRY_ERROR, R435
  | bisnp (line : Nat)  -- BISNP, R391
  | poolWriteCompletion (rid : Nat)  -- POOL_WRITE_COMPLETION, R392
  | fabricCompletionTimeout (rid : Nat)  -- FABRIC_COMPLETION_TIMEOUT, R364
  | ueDelivery (ep : Nat) (va : BitVec 64) (data : List (BitVec 8))  -- UE_DELIVERY, R395
  | rcfenceDrainEnd (c : BitVec 12) (j : BitVec 8)  -- RCFENCE_DRAIN_END, R364
  | migrationDecision (c : BitVec 12) (h : BitVec 8)  -- MIGRATION_DECISION, R337
  | tensorMoveSwitch (c : BitVec 12) (h : BitVec 8) (frame : Nat)  -- TENSOR_MOVE_SWITCH, R338
  | tensorMoveAbandon (c : BitVec 12) (h : BitVec 8)  -- TENSOR_MOVE_ABANDON, R338
  | compressedPageExpand (leaf frame : Nat)  -- COMPRESSED_PAGE_EXPAND, R339
  | flashRelocation (page dest : Nat)  -- FLASH_RELOCATION, R334
  | appendAccept (rid : Nat)  -- APPEND_ACCEPT, R372
  | intervalAgeExpiry (c : BitVec 12)  -- INTERVAL_AGE_EXPIRY, R422
  | logShareThreshold (c : BitVec 12)  -- LOG_SHARE_THRESHOLD, R422
  | intervalCommit (c : BitVec 12)  -- INTERVAL_COMMIT, R426
  | rollback (c : BitVec 12)  -- ROLLBACK, R427
  | generationReclaim (ws : Nat) (gen : BitVec 16)  -- GENERATION_RECLAIM, R382
  | scanStart  -- SCAN_START, R430
  | scanPass (core : Nat)  -- SCAN_PASS, R430
  | scanFail (core : Nat)  -- SCAN_FAIL, R431
  | spareRepair (core : Nat)  -- SPARE_REPAIR, R431
  | channelRecalibration (ch : Nat)  -- CHANNEL_RECALIBRATION, R434
  | channelRecovery (ch sector : Nat) (trained clean : Bool)  -- CHANNEL_RECOVERY, R434
  | columnBufferDrain (core : Nat)  -- COLUMN_BUFFER_DRAIN, R419
  | announcedLapse (core : Nat)  -- ANNOUNCED_LAPSE, R412
  | unannouncedLapse (core : Nat) (selfCheck : Bool) (kept : BitVec 64)  -- UNANNOUNCED_LAPSE, R412
  | tileResume (core : Nat)  -- TILE_RESUME, R413
  | thermalForecastUpdate (temps : BitVec 32)  -- THERMAL_FORECAST_UPDATE, R438
  | junctionTrip (q : BitVec 2) (temp core : Nat)  -- JUNCTION_TRIP, R440
  | quarterPowerLimit (q : BitVec 2) (core : Nat)  -- QUARTER_POWER_LIMIT, R15
  | moduleReset (sigOk : Bool) (ver : BitVec 32)  -- MODULE_RESET, R442
  | recoveryImage (sigOk : Bool) (ver : BitVec 32)  -- RECOVERY_IMAGE, R442
  | getVersion  -- GET_VERSION, R444
  | getCapabilities  -- GET_CAPABILITIES, R444
  | negotiateAlgorithms (sign hash dhe aead : BitVec 8)  -- NEGOTIATE_ALGORITHMS, R444
  | getDigests  -- GET_DIGESTS, R444
  | getCertificate (slot : BitVec 8)  -- GET_CERTIFICATE, R444
  | challenge (slot : BitVec 8) (nonce : BitVec 64)  -- CHALLENGE, R444
  | getMeasurements (index : BitVec 8)  -- GET_MEASUREMENTS, R444
  | keyExchange (slot : BitVec 8)  -- KEY_EXCHANGE, R444
  | finish  -- FINISH, R444
  | endSession  -- END_SESSION, R444
  | cxlIoWrite (rq : Nat) (va : BitVec 64) (data : List (BitVec 8))  -- CXL_IO_WRITE, R395
  | endpointBinding (io : Bool) (ep : Nat) (c : BitVec 12)  -- ENDPOINT_BINDING, R395
  | memoryError (pa : Nat) (corrected : Bool)  -- MEMORY_ERROR, R432
  | l2LineEviction (line : Nat)  -- L2_LINE_EVICTION, R279
  deriving DecidableEq, Repr

/-- The rows without an encoding: what other agents do. No word decodes to one of these. -/
def Instr.isEvent : Instr → Bool
  | .l2leaseWrite .. => true
  | .mcselWrite .. => true
  | .evcntWrite .. => true
  | .timeTick => true
  | .splitHoldTimeout .. => true
  | .splitMerge .. => true
  | .yieldWake .. => true
  | .yreqExpiry .. => true
  | .preemption .. => true
  | .groupEviction .. => true
  | .groupResume .. => true
  | .gangPlacement .. => true
  | .controlCorePlacement .. => true
  | .launchDependencesMet .. => true
  | .launchCompletion .. => true
  | .groupEnd .. => true
  | .xacqGrant .. => true
  | .gondola .. => true
  | .loadResponse .. => true
  | .writePerform .. => true
  | .atomicPerform .. => true
  | .leaseExpiry .. => true
  | .waitTableRetry .. => true
  | .trapEntry .. => true
  | .engineCommandStart .. => true
  | .engineDelivery .. => true
  | .engineCommandEnd .. => true
  | .engineRestartableFault .. => true
  | .faultReportDelivery .. => true
  | .flashDefer .. => true
  | .parkingWake .. => true
  | .parkingEscalation .. => true
  | .thermalSelfRefresh .. => true
  | .thermalSelfRefreshExit .. => true
  | .thermalHoldPark .. => true
  | .matrixKstep .. => true
  | .accstRowLand .. => true
  | .matrixOpFault .. => true
  | .nbRowOperation .. => true
  | .refreshDue .. => true
  | .iredCommand .. => true
  | .landingPacket .. => true
  | .landingPacketHoldExpiry .. => true
  | .landingCloseComplete .. => true
  | .dirReadFill .. => true
  | .dirOwnershipRequest .. => true
  | .dirWriteAtHome .. => true
  | .dirWriteback .. => true
  | .dirCleanEvictNotice .. => true
  | .gleaner .. => true
  | .directoryEntryError .. => true
  | .bisnp .. => true
  | .poolWriteCompletion .. => true
  | .fabricCompletionTimeout .. => true
  | .ueDelivery .. => true
  | .rcfenceDrainEnd .. => true
  | .migrationDecision .. => true
  | .tensorMoveSwitch .. => true
  | .tensorMoveAbandon .. => true
  | .compressedPageExpand .. => true
  | .flashRelocation .. => true
  | .appendAccept .. => true
  | .intervalAgeExpiry .. => true
  | .logShareThreshold .. => true
  | .intervalCommit .. => true
  | .rollback .. => true
  | .generationReclaim .. => true
  | .scanStart => true
  | .scanPass .. => true
  | .scanFail .. => true
  | .spareRepair .. => true
  | .channelRecalibration .. => true
  | .channelRecovery .. => true
  | .columnBufferDrain .. => true
  | .announcedLapse .. => true
  | .unannouncedLapse .. => true
  | .tileResume .. => true
  | .thermalForecastUpdate .. => true
  | .junctionTrip .. => true
  | .quarterPowerLimit .. => true
  | .moduleReset .. => true
  | .recoveryImage .. => true
  | .getVersion => true
  | .getCapabilities => true
  | .negotiateAlgorithms .. => true
  | .getDigests => true
  | .getCertificate .. => true
  | .challenge .. => true
  | .getMeasurements .. => true
  | .keyExchange .. => true
  | .finish => true
  | .endSession => true
  | .cxlIoWrite .. => true
  | .endpointBinding .. => true
  | .memoryError .. => true
  | .l2LineEviction .. => true
  | _ => false

end Sys2Proof
end

