-- ==== Sys2Proof/Machine/State.lean ====
section
/-!
DEFINITION. Sys2Proof/Machine/State.lean: the machine's state as plain data, every piece the spec names (INVENTORY.md, ## State), the
faults, the refusals, and the state after reset. Finite maps are `Store`s in one canonical form; a map's default is what the spec
says a place holds that nothing has changed (zero, a full tag, no lease).
-/

namespace Sys2Proof.Machine

open Sys2Proof

/-- A finite map from a place to a value. Canonical form (`Store.wf`): places strictly rising, no entry zero; an unlisted place
reads zero. `Store 8` is a list of `Host.Cell`. -/
abbrev Store (w : Nat) := List (Nat × BitVec w)

/-! ## A group -/

/-- The mode state of a split: its mode stack, deepest last (the depth is its length), and its private MODE (R112). -/
structure ModeState where
  stack : List W32
  priv : W32
  deriving DecidableEq, Repr

/-- Where an instruction writes: nothing, one 32-bit register, or the two registers of a pair (R23, R26). A *place* is a physical
register of the ring, or 1,024 + n for uniform register sn. -/
inductive Dst where
  | none
  | one (p : Nat)
  | two (p0 p1 : Nat)
  deriving DecidableEq, Repr

/-- What a split waits for before it issues again. -/
inductive Wait where
  /-- Nothing. -/
  | none
  /-- Its next instruction is not ready (R137); it is tried again, unless `asleep` and nothing has changed since. -/
  | retry (asleep : Bool)
  /-- Held by an instruction that has issued, until that can go on (R133, R404); tried again like `retry`. -/
  | holding (asleep : Bool)
  /-- Held by PFENCE.tile, which a lapse completes (R417). -/
  | fencing (asleep : Bool)
  /-- Held by SHSEAL with its destination: the other splits of the group are stopped, and a lapse completes it (R417, R418). -/
  | sealing (d : Reg) (asleep : Bool)
  /-- YIELD: every write to the place that instructions up to `n` owe, then the continuation (R121). -/
  | yield (p : Nat) (c : W64) (n : Nat)
  /-- A queue that serves it: a tagged word, a barrier slot, an XACQ queue, a landing, an interval, a drain (R143, R170, R229). -/
  | queued
  /-- Retry-parked since its try of this name: a tagged instruction that found no wait-table entry (R169). -/
  | retryParked (n : Nat)
  deriving DecidableEq, Repr

/-- An entry of the split table (R129). -/
structure Split where
  pc : W64
  mask : W32
  rp : Option W64
  hold : Nat
  age : Nat
  ms : ModeState
  wait : Wait
  deriving DecidableEq, Repr

/-- A parked set of the overflow set (R134). -/
structure Parked where
  pc : W64
  mask : W32
  rp : Option W64
  ms : ModeState
  deriving DecidableEq, Repr

/-- The register-window state of R114. -/
structure Window where
  wb : Nat
  cd : Nat
  rb : Nat
  frames : List Nat
  wsp : W32
  wsl : W32
  deriving DecidableEq, Repr

/-- An open lookahead window of a split (R34–R36): its split entry, the instructions left, the instruction that opened it, whether
its close waits for that instruction, and the values its destination held before, by 32 × place + lane (bit 32 marks a value). -/
structure LookWin where
  entry : Nat
  left : Nat
  id : Nat
  waits : Bool
  olds : Store 33
  deriving DecidableEq, Repr

/-- A register that an issued instruction still owes a write (R35, R121): the instruction, the place, the lanes. -/
structure Owed where
  id : Nat
  place : Nat
  lanes : W32
  deriving DecidableEq, Repr

/-- An entry of the operand log (R36, R205, R206): its number, the name of the instruction, the instruction with its operands as read at
issue, the lanes of its split, those pending and those in flight. -/
structure LogEntry where
  id : Nat
  seq : Nat
  i : Instr
  mode : W32
  entry : Nat
  lanes : W32
  pend : W32
  flight : W32
  addr : Store 64
  val : Store 64
  val2 : Store 64
  dst : Dst
  aux : Nat
  deriving DecidableEq, Repr

/-- An outstanding FENCE (R195): later accesses of its classes by its lanes wait for it. -/
structure FenceRec where
  seq : Nat
  lanes : W32
  pred : BitVec 6
  succ : BitVec 6
  scope : Nat
  deriving DecidableEq, Repr

/-- The keep latch (R261): the field a, the sparse kind, the span with its scale registers and the bytes of a scale unit in them (R259), the register image. -/
structure Latch where
  a : Nat
  sparse : Bool
  frag : Nat
  scales : Nat
  unit : Nat
  image : Store 32
  deriving DecidableEq, Repr

/-- The queued matrix operations (R263). -/
inductive MKind where
  | step
  | accz
  | accrd
  | accwr
  | accst
  deriving DecidableEq, Repr

/-- A queued matrix operation with what it read at issue, the order stamp it carries (R186) and its progress record (R263, R264, R270, R271, R274). -/
structure MOp where
  kind : MKind
  seq : Nat
  tile : Nat
  handle : Nat
  slab : Nat
  inc : Nat
  sparse : Bool
  images : List (Store 32)
  done : Nat
  grd : W32
  lanes : W32
  word : W32
  dst : Nat
  addr : W64
  stride : W32
  ostamp : W64
  rows : BitVec 16
  entry : Nat
  batch : Option Nat
  deriving DecidableEq, Repr

/-- A batch of the matrix queue: its place in the count of the group's batches (its number is this modulo 16), the operations that have not
finished, the fault code (0 for none) (R267, R268). -/
structure Batch where
  n : Nat
  left : Nat
  fault : Nat
  deriving DecidableEq, Repr

/-- The status of a near-bank ticket, with its sequence (R293). -/
structure Ticket where
  n : Nat
  sid : Nat
  done : Bool
  code : Nat
  steps : Nat
  deriving DecidableEq, Repr

/-- A pin of the group's pin list (R380). -/
structure Pin where
  ws : Nat
  gen : Nat
  deriving DecidableEq, Repr

/-- A trap that has been found and waits for trap entry (R351, R352). -/
structure TrapReport where
  cause : Nat
  async : Bool
  val : W64
  ins : W32
  fmask : W32
  wdet : W64
  logged : Option Nat
  entry : Nat
  deriving DecidableEq, Repr

/-- A handler bank (R345, R348, R351): its registers by offset, and what trap entry moves into it. -/
structure Bank where
  cells : Store 64
  parked : List Parked
  log : List LogEntry
  owed : List Owed
  fences : List FenceRec
  latch : Option Latch
  win : Window
  deriving DecidableEq, Repr

/-- Where a group is (R125, R147, R320, R411). -/
inductive Place where
  /-- No group: never placed, ended or removed. -/
  | absent
  /-- On its core. -/
  | resident
  /-- In the envelope shadow of its core. -/
  | evicted
  /-- In flight by gondola to the core. -/
  | moving (dest : Nat)
  /-- On a lapsed tile. -/
  | lapsed
  deriving DecidableEq, Repr

/-- A CALL, RET or TRET whose transfer to or from its slice is parked (R116, R117, R355): the address it waits for, its word and its split. -/
structure ParkedXfer where
  va : W64
  ins : W32
  entry : Nat
  deriving DecidableEq, Repr

/-- A parking in progress (R333, R335): reason, start, pending lanes, and the address of a register frame's slice where no logged access
parked it. -/
structure Parking where
  reason : Nat
  start : W64
  pend : W32
  xfer : Option ParkedXfer
  deriving DecidableEq, Repr

/-- A GMIG that has issued and whose group has not moved yet (R147): its name, the core it goes to or the reason it stays, its destination
and the lanes GUARD held in. -/
structure GMove where
  id : Nat
  dest : Option Nat
  reason : Nat
  dst : Dst
  grd : W32
  deriving DecidableEq, Repr

/-- A group and everything it owns (R124, R127, R148, R320). `vregs` is keyed by 32 × physical register + lane, `uregs` by the number
of the uniform register, `preds` by the predicate, `acc` by 1,024 × tile + 64 × row + column; `mheld` is the code of the restartable
fault that holds the matrix queue (0: none), `maddr` its address, `mtime` its TIME, `mrec` that its record is in the fault ring, `mpend` the code of a
faulted operation that no batch holds yet; `bc` counts the group's batches, and its batch counter BC is this modulo 16; `appended` is the interval in which
its latest append was accepted (0: none), `gmove` the GMIG whose window is open or whose gondola is under way. -/
structure Group where
  gid : Nat
  place : Place
  core : Nat
  slot : Nat
  ctx : BitVec 12
  inc : BitVec 8
  lslot : BitVec 8
  tid : Nat
  tidx : W32
  gidx : BitVec 5
  gang : BitVec 2
  prio : Nat
  started : Nat
  stat : W32
  mode : W32
  helper : W32
  vregs : Store 32
  uregs : Store 32
  preds : Store 32
  nregs : Nat
  base : Nat
  win : Window
  splits : List (Option Split)
  parked : List Parked
  wins : List LookWin
  log : List LogEntry
  owed : List Owed
  fences : List FenceRec
  fstamp : W64
  ostamp : W64
  ntiles : Nat
  acc : Store 32
  latch : Option Latch
  mqueue : List MOp
  mheld : Nat
  maddr : W64
  mtime : W64
  mrec : Bool
  mpend : Nat
  bc : Nat
  batches : List Batch
  pins : List Pin
  tickets : List Ticket
  nextTicket : BitVec 4
  yreq : W64
  forced : Bool
  parkc : W64
  parking : Option Parking
  trap : Option TrapReport
  bankA : Bank
  bankS : Bank
  bankF : Bank
  appended : Nat
  gmove : Option GMove
  deriving DecidableEq, Repr

/-! ## Teams and launches -/

/-- An XACQ that waits in its team's queue (R143): the group, the units it asks for, and its destination. -/
structure XWait where
  gid : Nat
  n : Nat
  d : Reg
  deriving DecidableEq, Repr

/-- A team (R124, R141, R143, R316, R320): its scratchpad run, its free pool, its XACQ queues, its ITER cursor, the generation of each
reservation index, and, while it is swapped out, its scratchpad image. A team that a rollback restored and that no core holds yet has
core 1,023. -/
structure Team where
  tid : Nat
  ls : Nat
  tidx : Nat
  core : Nat
  ctx : BitVec 12
  base : Nat
  size : Nat
  xregs : Nat
  xtiles : Nat
  queueR : List XWait
  queueT : List XWait
  cursor : Nat
  gens : Store 8
  migrated : Bool
  swapped : Bool
  image : Store 8
  imageTags : Store 1
  deriving DecidableEq, Repr

/-- The states of a launch-table slot (R310). -/
inductive LState where
  | waiting
  | queued
  | running
  | ended
  deriving DecidableEq, Repr

/-- A launch-table slot (R309, R310). A slot that is not listed is Free with sequence 0. `placed` counts the teams of the gangs placed, `ended`
those that have ended, `wgen` is the weight-set generation bound (0: none), `endedIn` the interval open at the end; `victims` are the
groups selected for eviction to make room for its next gang on the cores `vcores` (R318). -/
structure Launch where
  slot : Nat
  sequ : BitVec 16
  st : LState
  fault : Bool
  free : Bool
  packet : Store 8
  ctx : BitVec 12
  inc : BitVec 8
  order : Nat
  placed : Nat
  ended : Nat
  wgen : Nat
  endedIn : Nat
  victims : List Nat
  vcores : List Nat
  deriving DecidableEq, Repr

/-! ## On-chip memories -/

/-- An entry of a core's armed-slot table (R174): the slot's offset in the team's allocation, the last count, and the bytes posted this
phase, of which word 2 holds the count of whole 64-byte units (R173). An entry of a swapped-out team has index 64: it is kept with the
team and takes no place in the table. -/
structure Armed where
  core : Nat
  index : Nat
  tid : Nat
  slot : Nat
  last : BitVec 24
  posted : Nat
  deriving DecidableEq, Repr

/-- A split waiting in a queue: the group, its split entry, and the lane (R168, R229). -/
structure Waiter where
  gid : Nat
  entry : Nat
  lane : Nat
  deriving DecidableEq, Repr

/-- An entry of a core's wait table (R169): the word of the core's scratchpad and its queue in order. -/
structure WaitEntry where
  core : Nat
  word : Nat
  queue : List Waiter
  deriving DecidableEq, Repr

/-- A split waiting on a barrier slot, with the parity it named and the phase at which it joined (R229). -/
structure BarWaiter where
  tid : Nat
  slot : Nat
  gid : Nat
  entry : Nat
  deriving DecidableEq, Repr

/-- An operand-buffer reservation record (R251, R252, R255). A record of a swapped-out team has core 1,024 + the team's name: it and
its contents are kept with the team and take no room on the core. -/
structure Reserv where
  core : Nat
  tid : Nat
  idx : Nat
  gen : Nat
  off : Nat
  size : Nat
  fmt : W32
  klen : Nat
  deriving DecidableEq, Repr

/-- A unit of a column write buffer, oldest first (R419). -/
structure ColUnit where
  core : Nat
  unit : Nat
  data : Store 8
  deriving DecidableEq, Repr

/-- The on-chip memories. `scratch` is keyed by 2^18 × core + byte, `empty` (1: the tag is empty) by 2^16 × core + word, `column` by
2^23 × core + byte, `chip` by 2^25 × quarter + byte, `opbuf` and its poison marks `opmark` by 2^18 × core + byte. -/
structure OnChip where
  scratch : Store 8
  empty : Store 1
  column : Store 8
  colbuf : List ColUnit
  chip : Store 8
  opbuf : Store 8
  opmark : Store 1
  reservs : List Reserv
  armed : List Armed
  waits : List WaitEntry
  barWaits : List BarWaiter
  deriving DecidableEq, Repr

/-! ## The memory system -/

/-- The spaces a request addresses (R152); a virtual access holds its physical address. -/
inductive Space where
  | vm
  | scratch
  | column
  | chip
  deriving DecidableEq, Repr

/-- What a request does at its home. -/
inductive ReqKind where
  | load
  | store
  | atomic
  deriving DecidableEq, Repr

/-- The strengths of R193. -/
inductive Strength where
  | weak
  | strong
  | acq
  | rel
  deriving DecidableEq, Repr

/-- A request in flight of one lane of a group (R182, R184, R186, R206, R360). `half` tells which 32-bit half of an 8-byte weak access
it is (R180), `ms` that its page is memory-side (R207), `lanes` the lanes of the split that issued it, `ls` the launch slot of its group, `hit` the grant, the
value and the poison mark of the L1 copy that a load found at its issue (R187, R432), `waited` that it could not begin then, `shared` that another lane of its
access has read its line (R166), `arrived` the name of its arrival at its home (0: none; R388). -/
structure Req where
  rid : Nat
  gid : Nat
  log : Nat
  lane : Nat
  half : Nat
  kind : ReqKind
  space : Space
  key : Nat
  va : W64
  size : Nat
  val : W64
  cmp : W64
  op : BitVec 3
  elt : Nat
  strength : Strength
  scope : Nat
  ostamp : W64
  core : Nat
  slot : Nat
  ctx : BitVec 12
  inc : BitVec 8
  lanes : W32
  readCount : Nat
  issued : W64
  ls : Nat
  hit : Option (W64 × W64 × Bool)
  waited : Bool
  shared : Bool
  arrived : Nat
  ms : Bool
  accepted : Bool
  performed : Bool
  deriving DecidableEq, Repr

/-- An L1 line of a core under its lease (R163, R187); `bad` marks its poisoned sectors, which travel with their data (R432). -/
structure L1Line where
  core : Nat
  line : Nat
  grant : W64
  expiry : W64
  data : Store 8
  bad : BitVec 4
  deriving DecidableEq, Repr

/-- A line held in its home L2 slice; `count` is the read count, 0 for an ordinary line (R166), `bad` marks its poisoned sectors (R432). -/
structure L2Line where
  line : Nat
  dirty : Bool
  count : Nat
  data : Store 8
  bad : BitVec 4
  deriving DecidableEq, Repr

/-- The race record of a representative (R183): rank (R184), the group that wrote it, and the TIME at which it performed, with its ρ. `word` numbers the words of
physical memory from 0, those of the on-chip arrays above them. -/
structure Race where
  word : Nat
  gid : Nat
  core : Nat
  slot : Nat
  lane : Nat
  perf : W64
  rho : W64
  deriving DecidableEq, Repr

/-- A directory entry that is not Invalid (R387). Agents 0–31 are the control-core caches, 32–95 the keel staging caches. -/
structure DirEntry where
  line : Nat
  owner : Option Nat
  sharers : List Nat
  deriving DecidableEq, Repr

/-- A word of a staging-cache line that is dirty, with the rank, order stamp and tag of its last write (R388), and the group and launch slot whose
command wrote it (R197, R198). -/
structure DirtyWord where
  word : Nat
  gid : Nat
  ls : Nat
  core : Nat
  slot : Nat
  ctx : BitVec 12
  inc : BitVec 8
  ostamp : W64
  deriving DecidableEq, Repr

/-- A line of a keel staging cache (R187, R388, R389); `bad` marks the poisoned sectors of what it obtained (R432). -/
structure KeelLine where
  cache : Nat
  line : Nat
  ms : Bool
  data : Store 8
  bad : BitVec 4
  dirty : List DirtyWord
  since : W64
  got : W64
  deriving DecidableEq, Repr

/-- A line of a core's instruction cache (R223); `bad` marks its poisoned sectors (R432). -/
structure ILine where
  core : Nat
  line : Nat
  data : Store 8
  bad : BitVec 4
  deriving DecidableEq, Repr

/-- A write that waits at the home of a line (R164, R388): the name of the request, command, group or sequence that makes it, and its place in the order of
arrival. Names of 2^64 and more hold no place in that order: a BISnp of the pool (R391), and what an agent tries anew each time (a bit of a leaf, a gleaner's
write-back, the rewriting of a tensor's leaves, what a rollback restores). -/
structure Waiting where
  line : Nat
  who : Nat
  turn : Nat
  deriving DecidableEq, Repr

/-- A cached translation (R331) of an agent, a core with its engines or what lies outside the cores: the leaf, its level, where its entry lies, and the virtual
page it maps. -/
structure TlbEntry where
  core : Nat
  ctx : BitVec 12
  inc : BitVec 8
  glob : Bool
  level : Nat
  slot : Nat
  vpn : Nat
  pte : W64
  deriving DecidableEq, Repr

/-- A table entry in a walk cache of an agent (R331, R365): the context and incarnation that read it, the level it was read at, the number of the bytes it covers, its value. -/
structure TableEntry where
  core : Nat
  ctx : BitVec 12
  inc : BitVec 8
  level : Nat
  vpn : Nat
  pte : W64
  deriving DecidableEq, Repr

/-- The TIME of the latest access to a tensor (R337), by its handle's context, index and generation. -/
structure TensorUse where
  ctx : BitVec 12
  idx : Nat
  gen : Nat
  time : W64
  deriving DecidableEq, Repr

/-- What one access has rewritten of a poisoned sector: its mark goes with the last of its 32 bytes (R432). -/
structure Cover where
  sector : Nat
  log : Nat
  bytes : W32
  deriving DecidableEq, Repr

/-- The memory system. `mem` is DRAM, flash and pool memory by physical address; `leases` the latest expiry granted on a line, `waiting` the
writes that wait for the leases of a line, so that no new lease is granted on it (R164);
`poison` the poisoned 32-byte sectors of memory, `covers` those that an access has rewritten in part, `dead` the HBM4E channels whose every request returns poison (R434). -/
structure MemSys where
  mem : Store 8
  poison : List Nat
  covers : List Cover
  dead : List Nat
  l2 : List L2Line
  l1 : List L1Line
  leases : Store 64
  races : List Race
  waiting : List Waiting
  dir : List DirEntry
  keel : List KeelLine
  icache : List ILine
  tlb : List TlbEntry
  tables : List TableEntry
  uses : List TensorUse
  reqs : List Req
  deriving DecidableEq, Repr

/-! ## Engines and near memory -/

/-- The states of a tether slot that is not Empty (R236). -/
inductive TState where
  | queued
  | running
  | held
  | ending
  deriving DecidableEq, Repr

/-- A command in a tether slot (R233–R236, R243, R245): its block as read at issue (32 × register + lane), participating lanes, the
lanes GUARD held in, its destination, its barrier, its progress record, its fault with whether the fault ring has it, its tensor map, the
level it was issued at, the TIME of its start or latest progress, since when a flash defer has held its next read and where that read lies (R333), and the TIME of its fault (R357). -/
structure Command where
  core : Nat
  k : Nat
  seq : Nat
  st : TState
  i : Instr
  gid : Nat
  tid : Nat
  ctx : BitVec 12
  inc : BitVec 8
  slot : Nat
  ostamp : W64
  lanes : W32
  part : W32
  grd : W32
  blk : Store 32
  dst : Dst
  bar : Option Nat
  total : Nat
  delivered : Nat
  walked : W32
  code : Nat
  addr : W64
  recorded : Bool
  tmap : Store 8
  app : Bool
  since : W64
  deferred : Option (W64 × W64)
  faultAt : W64
  deriving DecidableEq, Repr

/-- A near-bank sequence (R287–R291): its microprogram counter (t, index), the accumulators (keyed 512 × (4 × bank + k) + element), the
row operations since its last yield, whether its page is memory-side, whether it serves the pending requests of a yield now, and when it issued. -/
structure NbSeq where
  sid : Nat
  ls : Nat
  pc : Nat
  gid : Nat
  ctx : BitVec 12
  inc : BitVec 8
  ticket : Nat
  page : Nat
  ms : Bool
  steps : Nat
  winc : Nat
  yields : Nat
  x0 : BitVec 16
  x1 : BitVec 16
  uops : List W32
  t : Nat
  idx : Nat
  acc : Store 16
  ops : Nat
  serving : Bool
  since : W64
  deriving DecidableEq, Repr

/-- An IRED command at the base die (R281–R284): the 64-byte destination lines not yet performed, each with the lines of the table rows
added to it, the counter, when it issued, and whether one of its lines has performed. -/
structure IredCmd where
  cid : Nat
  ls : Nat
  gid : Nat
  core : Nat
  slot : Nat
  ctx : BitVec 12
  inc : BitVec 8
  fmt : BitVec 3
  lines : List (Nat × List Nat)
  counter : Nat
  since : W64
  begun : Bool
  deriving DecidableEq, Repr

/-- A landing (R295, R296): its region with the physical place of each 64-byte unit, expected and landed units, the FP32 buffer by
element, the group whose close waits for it, and whether the region has been written. -/
structure Landing where
  k : Nat
  stack : Nat
  ctx : BitVec 12
  inc : BitVec 8
  va : W64
  pas : List Nat
  fmt : Nat
  expected : Nat
  landed : Nat
  buffer : Store 32
  closing : Option Nat
  written : Bool
  deriving DecidableEq, Repr

/-- A landing packet held for an open that may arrive (R396), with the stack of the landing that it has reached, if any (R298). -/
structure HeldPacket where
  k : Nat
  ctx : BitVec 12
  inc : BitVec 8
  hdr : BitVec 128
  data : List Byte
  stack : Option Nat
  since : W64
  deriving DecidableEq, Repr

/-- The engines and the base dies. -/
structure Engines where
  cmds : List Command
  nb : List NbSeq
  refresh : List Nat
  ired : List IredCmd
  landings : List Landing
  held : List HeldPacket
  selfRefresh : List Nat
  deriving DecidableEq, Repr

/-! ## Flash, weights, residency -/

/-- The states of a stream (R370); a Free stream is not listed. -/
inductive StreamState where
  | opened
  | sealing
  | sealed
  deriving DecidableEq, Repr

/-- A stream record (R370): `closes` holds the accepted length at the close of each interval that has not committed, `leaves` the leaves of its range in
the owner's table, as they stood when it entered Sealing: the entry's place, its level, its value (R375). -/
structure Stream where
  base : Nat
  size : Nat
  owner : BitVec 12
  st : StreamState
  accepted : Nat
  durable : Nat
  sealv : Nat
  leaves : List (Nat × Nat × W64)
  closes : List (Nat × Nat)
  deriving DecidableEq, Repr

/-- A generation record (R378, R382); `released` lists the contexts that released a pin since it stopped being current, with the
interval open at the release. -/
structure GenRec where
  gen : Nat
  stream : Nat
  gbase : W64
  pages : Nat
  gpins : Nat
  lpins : Nat
  released : List (BitVec 12 × Nat)
  deriving DecidableEq, Repr

/-- A weight set (R378). -/
structure WSet where
  ws : Nat
  cur : Nat
  recs : List GenRec
  deriving DecidableEq, Repr

/-- A residency handle (R337, R340, R341); a dead one keeps its index's generation. -/
structure ResHandle where
  ctx : BitVec 12
  idx : Nat
  gen : Nat
  live : Bool
  base : W64
  pages : Nat
  prio : Nat
  placement : Nat
  compress : Bool
  deriving DecidableEq, Repr

/-- A tensor move in its copy or switch phase (R338): the tier it goes to, when it began, its leaves with their values then, and when its switch began. -/
structure Move where
  ctx : BitVec 12
  idx : Nat
  toHbm : Bool
  since : W64
  leaves : List (Nat × W64)
  switching : Option W64
  deriving DecidableEq, Repr

/-- A leaf of the mapping registry (R377): its physical address, the stream page that it maps, its level. -/
structure Mapping where
  leaf : Nat
  page : Nat
  level : Nat
  deriving DecidableEq, Repr

/-- The storage processor and the migration engine; `registry` lists the leaves (by physical address) of stream pages, `moved` where a stream's
page now lies once a relocation has moved it (R334, R377); `relocating` are the flash pages whose reads are deferred
(R333), `zframes` the frames that hold compressed pages, each with the leaf that maps it (R339), `decided` the TIME of the migration engine's latest decision (R340). -/
structure Flash where
  streams : List Stream
  registry : List Mapping
  moved : List (Nat × Nat)
  sets : List WSet
  relocating : List Nat
  zframes : List (Nat × Nat)
  handles : List ResHandle
  moves : List Move
  notBefore : List (BitVec 12 × Nat × W64)
  decided : W64
  deriving DecidableEq, Repr

/-! ## Contexts, checkpoints, tiles -/

/-- An RCFENCE that holds its split, of a level of its group, until a pair is Unused: whether it has become so (R364). -/
structure Fencer where
  gid : Nat
  entry : Nat
  bank : Nat
  inc : BitVec 8
  ended : Bool
  deriving DecidableEq, Repr

/-- A context (R359–R361, R422): its current incarnation, whether its current pair is Live, the draining pairs, the entry CTXSTART
loaded, its open interval, and whether it has consumed poison since an interval of it committed (R433), and whether a
rollback of it is under way (R427); `fencers` are the RCFENCEs that wait for its draining pairs. -/
structure Ctx where
  c : BitVec 12
  cur : BitVec 8
  live : Bool
  draining : List (BitVec 8)
  fencers : List Fencer
  root : Nat
  columns : Store 32
  chips : List W32
  ring : Nat
  notify : Bool
  report : Nat
  opened : Nat
  openedAt : W64
  poisoned : Bool
  rolling : Bool
  deriving DecidableEq, Repr

/-- The states of a closed interval (R425). -/
inductive IState where
  | closed
  | committed
  | discarded
  deriving DecidableEq, Repr

/-- An interval that has closed (R425, R426): when, and the compute cores that ran the context during it. -/
structure Interval where
  c : BitVec 12
  n : Nat
  st : IState
  closedAt : W64
  cores : List Nat
  deriving DecidableEq, Repr

/-- A record of the old-value log (R424): the contents of its line at the home, and in DRAM, a dirty copy of L2 written back (log 107). -/
structure LogRec where
  c : BitVec 12
  n : Nat
  line : Nat
  old : Store 8
  bank : Store 8
  mask : W32
  deriving DecidableEq, Repr

/-- The boundary images of a context at the close of interval `n` (R423): its groups, its teams as they stand when swapped out, with what is
kept with them, and its launches. The pins are those of the groups. -/
structure Boundary where
  c : BitVec 12
  n : Nat
  groups : List Group
  teams : List Team
  launches : List Launch
  armed : List Armed
  reservs : List Reserv
  opbuf : Store 8
  opmark : Store 1
  cmds : List Command
  nb : List NbSeq
  ired : List IredCmd
  deriving DecidableEq, Repr

/-- A header slot of an image that is sealed (R409): commit sequence, core epoch, run of frames, kind, reason, context, incarnation, launch slot. -/
structure Header where
  sequ : W32
  epoch : W32
  first : Nat
  count : Nat
  team : Bool
  reason : Nat
  ctx : BitVec 12
  inc : BitVec 8
  ls : Nat
  deriving DecidableEq, Repr

/-- A header slot of an image (R409, R414). -/
inductive HSlot where
  | clear
  | unsealed
  | sealed (h : Header)
  deriving DecidableEq, Repr

/-- An entry of a core's header directory (R407, R408): its owner (a group, or a team), its run of frames, its two slots, the state its frames held when last written, and the frames that have not changed since, which are not dirty (R410). -/
structure Image where
  core : Nat
  entry : Nat
  owner : Nat
  team : Bool
  first : Nat
  count : Nat
  slotA : HSlot
  slotB : HSlot
  snapG : Option Group
  snapT : Option (Team × Store 8 × Store 1)
  clean : List Nat
  deriving DecidableEq, Repr

/-- What the module keeps of a core position (R410, R412, R430, R431, R366); `drainer` is the split, with the level of its group, whose DRAIN
holds on it, `drained` the groups that drain has evicted, `counts` the event counters that a lapse commit has saved (R447). -/
structure CoreRec where
  core : Nat
  epoch : W32
  opened : Bool
  commitAt : W64
  lapsed : Bool
  resumedAt : Option W64
  closed : Bool
  failed : Bool
  scan : Option W64
  passAt : Option W64
  ranSince : List (BitVec 12)
  drained : Nat
  drainer : Option (Nat × Nat × Nat)
  counts : Store 64
  deriving DecidableEq, Repr

/-- Checkpoints, the shadow and the scan rotation. `ran` lists (core, context) pairs of the open intervals; `shares` holds the share of
the store, in records, that firmware has given a context (0: an equal part; log 91), `passed` the spares of a quarter that have passed a scan (R431). -/
structure Ckpt where
  intervals : List Interval
  logs : List LogRec
  bounds : List Boundary
  ran : List (Nat × BitVec 12)
  shares : Store 32
  images : List Image
  cores : List CoreRec
  scanNext : Nat
  scanTime : W64
  scanSkipped : List Nat
  spares : Store 8
  passed : Store 8
  deriving DecidableEq, Repr

/-! ## The device -/

/-- The device registers of R345, R436, R438 and R445. `lease` is keyed by quarter; `evsel`, `evcnt` by 8 × core + counter; `mevsel`, `mevcnt`
by 4 × controller + counter; `errs` by the register number (0x420–0x429). `thWas` is what THFC and THLIM held before their updates of a tick, and
the TIME of that tick (R439). -/
structure Device where
  time : W64
  tdlg : W32
  ygrace : W32
  ctxb : W64
  orph : W64
  dropc : W64
  lease : Store 32
  thfc : W64
  thlim : W32
  thWas : Option (W64 × W64 × W32)
  errs : Store 64
  evsel : Store 32
  evcnt : Store 64
  mcsel : W32
  mevsel : Store 32
  mevcnt : Store 64
  deriving DecidableEq, Repr

/-- A quarter's power and temperature (R15, R440): its arithmetic clock is lowered; its trip points; the tiles gated until its junction has cooled. -/
structure Quarter where
  lowered : Bool
  trip : Nat
  gate : Nat
  gated : List Nat
  deriving DecidableEq, Repr

/-- The SPDM responder (R444): what the requester has negotiated, and the session; `asked` that it was told the number of the measurement blocks. -/
structure Spdm where
  version : Bool
  caps : Bool
  algs : Bool
  digests : Bool
  cert : Bool
  challenged : Option W64
  asked : Bool
  measured : List Nat
  keyed : Bool
  session : Bool
  refused : Bool
  deriving DecidableEq, Repr

/-- Firmware and the security block (R346, R367, R441–R443): the security version from which the block has derived the module's identity key pair, the power budgets in
watts of the rows of R15 (the four quarters, HBM4E, flash, LPDDR6, the control die, the storage processor), and the channels it was told have failed (R434). -/
structure Firmware where
  stopped : Bool
  halted : Bool
  recovery : Bool
  version : W32
  fused : W32
  identity : Option W32
  budgets : List Nat
  failed : List Nat
  spdm : Spdm
  deriving DecidableEq, Repr

/-- An HBM4E channel that differs from its start: last recalibration, recovery mode, retrainings failed in a row (R434). -/
structure Channel where
  ch : Nat
  calAt : W64
  recovery : Bool
  failing : Nat
  deriving DecidableEq, Repr

/-- A write to the pool that its memory has not completed yet (R392), with its path: 0 group, 2 copy-write or keel, 4 matrix; its place and size, and what the pool
memory holds there until then. -/
structure PoolWrite where
  pa : Nat
  size : Nat
  old : Nat
  rid : Nat
  path : Nat
  gid : Nat
  log : Nat
  lanes : W32
  ctx : BitVec 12
  inc : BitVec 8
  since : W64
  deriving DecidableEq, Repr

/-- Data from outside that cannot be written yet (R395): its name, its tag, its address, its bytes. -/
structure Delivery where
  who : Nat
  ctx : BitVec 12
  inc : BitVec 8
  va : W64
  data : List Byte
  deriving DecidableEq, Repr

/-- A BISnp of a pool line: the port it came by, when it arrived, and when its BIRsp left (R391). -/
structure Snoop where
  line : Nat
  port : Nat
  since : W64
  answered : Option W64
  deriving DecidableEq, Repr

/-- The ports (R364, R390–R392, R394, R395, R434): endpoints and requesters bound to (context, incarnation), data from them that waits in order of arrival,
pool writes not globally performed, and the latest BISnp of each pool line; `ide` is the SPDM session whose keys the CXL ports use (R444). -/
structure Fabric where
  endpoints : List (Nat × BitVec 12 × BitVec 8)
  requesters : List (Nat × BitVec 12 × BitVec 8)
  deliveries : List Delivery
  poolWrites : List PoolWrite
  snoops : List Snoop
  channels : List Channel
  calEvery : W64
  ide : Option Nat
  deriving DecidableEq, Repr

/-- A fault report that waits for its report control core (R357). -/
structure Report where
  ctl : Nat
  cause : Nat
  record : W64
  deriving DecidableEq, Repr

/-- What firmware does beside the instructions of the management core: the placement limit (R438), a trip point of a quarter (R440), a power budget (R15, R441), the version
fuse (R441), the interval of the recalibrations (R434), a context's share of the store (R422), a spare that has passed a scan (R431); and a request to the SPDM
responder that it does not support (R444). -/
inductive Setting where
  | limit (t : Nat)
  | trip (q t : Nat)
  | gate (q t : Nat)
  | budget (row w : Nat)
  | fuse (v : W32)
  | calEvery (t : W64)
  | share (c : BitVec 12) (n : W32)
  | spareScan (q : Nat)
  | unsupported
  deriving DecidableEq, Repr

/-- What happens next when it is not the machine's own default choice: a setting of firmware, an event of an agent, or a cycle of an issue slot, that of the named split, in which
the splits `busy` have not been fetched or are not accepted by their row of R71 or R107 (R137): timing, which the model does not compute. -/
inductive Input where
  | firmware (x : Setting)
  | event (e : Instr)
  | issue (gid entry : Nat) (busy : List (Nat × Nat))
  deriving DecidableEq, Repr

/-- The machine. `g` is the group whose instruction issues and `entry` its split-table entry; `others` are the other groups. `inputs`,
`fresh` and `seq` are the model's own: what happens next, the counter of free values, the counter of names in age order. -/
structure State where
  g : Group
  others : List Group
  entry : Nat
  teams : List Team
  launches : List Launch
  onchip : OnChip
  m : MemSys
  eng : Engines
  fl : Flash
  ctxs : List Ctx
  ck : Ckpt
  dev : Device
  quarters : List Quarter
  fw : Firmware
  fab : Fabric
  reports : List Report
  inputs : List Input
  fresh : Nat
  seq : Nat
  deriving DecidableEq, Repr

/-- Why a step stops with a fault. -/
inductive Fault where
  /-- Raised by every meaning of an encoded instruction when the state names no split that could issue it (no group in focus, or a free
  split entry). `step` never reaches it. Safe: nothing happened. -/
  | noIssuingSplit
  deriving DecidableEq, Repr

/-- Why a step refuses. -/
inductive Refusal where
  /-- No meaning yet for the instruction. Safe. -/
  | notModelled (mnemonic : String)
  deriving DecidableEq, Repr

/-! ## Reset -/

/-- The window state with nothing in it (R114). -/
def Window.init : Window := { wb := 0, cd := 0, rb := 0, frames := [], wsp := 0, wsl := 0 }

/-- A bank at reset (log 1). -/
def Bank.init : Bank := { cells := [], parked := [], log := [], owed := [], fences := [], latch := none, win := Window.init }

/-- No group: what the focus holds when no group has been placed. -/
def Group.absent : Group :=
  { gid := 0, place := .absent, core := 0, slot := 0, ctx := 0, inc := 0, lslot := 0, tid := 0, tidx := 0, gidx := 0, gang := 0, prio := 0,
    started := 0, stat := 0, mode := 0x20#32, helper := 0, vregs := [], uregs := [], preds := [], nregs := 64, base := 64,
    win := Window.init, splits := [none, none, none, none], parked := [], wins := [], log := [], owed := [], fences := [], fstamp := 0, ostamp := 0,
    ntiles := 1, acc := [], latch := none, mqueue := [], mheld := 0, maddr := 0, mtime := 0, mrec := false, mpend := 0, bc := 0, batches := [], pins := [], tickets := [],
    nextTicket := 0, yreq := 0, forced := false, parkc := 0, parking := none, trap := none, bankA := Bank.init, bankS := Bank.init,
    bankF := Bank.init, appended := 0, gmove := none }

/-- Context 0 as firmware starts it (R361), with no entry loaded (log 3). -/
def Ctx.zero : Ctx :=
  { c := 0, cur := 0, live := true, draining := [], fencers := [], root := 0, columns := [], chips := [0, 0, 0, 0], ring := 0, notify := false,
    report := 0, opened := 1, openedAt := 0, poisoned := false, rolling := false }

/-- The machine right after module reset: TIME 0, the reset values of R163, R319, R345, R436, R438 and R445, context 0 Live (R361), no group,
no launch, every cache and queue empty; what the spec gives no reset value is as log 1 and log 2 name it. -/
def State.reset : State :=
  { g := Group.absent, others := [], entry := 0, teams := [], launches := [],
    onchip := { scratch := [], empty := [], column := [], colbuf := [], chip := [], opbuf := [], opmark := [], reservs := [], armed := [], waits := [],
                barWaits := [] },
    m := { mem := [], poison := [], covers := [], dead := [], l2 := [], l1 := [], leases := [], races := [], waiting := [], dir := [], keel := [], icache := [], tlb := [], tables := [], uses := [], reqs := [] },
    eng := { cmds := [], nb := [], refresh := [], ired := [], landings := [], held := [], selfRefresh := [] },
    fl := { streams := [], registry := [], moved := [], sets := [], relocating := [], zframes := [], handles := [], moves := [], notBefore := [], decided := 0 },
    ctxs := [Ctx.zero],
    ck := { intervals := [], logs := [], bounds := [], ran := [], shares := [], images := [], cores := [], scanNext := 0, scanTime := 0,
            scanSkipped := [], spares := [(0, 4#8), (1, 4#8), (2, 4#8), (3, 4#8)], passed := [] },
    dev := { time := 0, tdlg := 0, ygrace := 20000#32, ctxb := 0, orph := 0, dropc := 0,
             lease := [(0, 2048#32), (1, 2048#32), (2, 2048#32), (3, 2048#32)], thfc := 0, thlim := 95#32, thWas := none, errs := [], evsel := [],
             evcnt := [], mcsel := 0, mevsel := [], mevcnt := [] },
    quarters := List.replicate 4 { lowered := false, trip := 105, gate := 110, gated := [] },
    fw := { stopped := false, halted := false, recovery := false, version := 0, fused := 0, identity := some 0, budgets := [420, 420, 420, 420, 280, 96, 40, 240, 15], failed := [],
            spdm := { version := false, caps := false, algs := false, digests := false, cert := false, challenged := none, asked := false, measured := [],
                      keyed := false, session := false, refused := false } },
    fab := { endpoints := [], requesters := [], deliveries := [], poolWrites := [], snoops := [], channels := [], calEvery := 64000000#64, ide := none },
    reports := [], inputs := [], fresh := 0, seq := 0 }

end Sys2Proof.Machine
end

