-- ==== Sys2Proof/Machine/Store.lean ====
section
/-!
DEFINITION. Sys2Proof/Machine/Store.lean: the operations on a `Store`, the one form of every finite map of the machine, and the byte
order of multi-byte values (R1).
-/

namespace Sys2Proof.Machine

open Sys2Proof

variable {w : Nat}

/-- The value at a place; zero at a place that is not listed. -/
def Store.get : Store w → Nat → BitVec w
  | [], _ => 0#w
  | (k, v) :: t, n => if n = k then v else Store.get t n

/-- Enters a value at a place, in order. -/
def Store.enter : Store w → Nat → BitVec w → Store w
  | [], n, v => [(n, v)]
  | (k, x) :: t, n, v =>
    if n < k then (n, v) :: (k, x) :: t
    else if n = k then (n, v) :: t
    else (k, x) :: Store.enter t n v

/-- Writes a place. Writing zero, what an unlisted place reads as, removes the entry. -/
def Store.put (m : Store w) (n : Nat) (v : BitVec w) : Store w :=
  if v = 0#w then m.filter fun p => decide (p.1 ≠ n) else Store.enter m n v

/-- The places of a range, moved so that the range starts at 0. -/
def Store.slice (m : Store w) (lo n : Nat) : Store w :=
  (m.filter fun p => decide (lo ≤ p.1) && decide (p.1 < lo + n)).map fun p => (p.1 - lo, p.2)

/-- Zero in a range. -/
def Store.clear (m : Store w) (lo n : Nat) : Store w :=
  m.filter fun p => decide (p.1 < lo) || decide (lo + n ≤ p.1)

/-- Puts what another map lists, moved up by `lo`. -/
def Store.merge (m : Store w) (lo : Nat) (x : Store w) : Store w :=
  x.foldl (fun m p => Store.put m (lo + p.1) p.2) m

/-- Replaces a range by what another map lists for it. -/
def Store.replace (m : Store w) (lo n : Nat) (x : Store w) : Store w := Store.merge (Store.clear m lo n) lo x

/-- The canonical form from a place on: rising places, no zero. -/
def Store.wfFrom : Nat → Store w → Bool
  | _, [] => true
  | lo, (k, v) :: t => decide (lo ≤ k) && decide (v ≠ 0#w) && Store.wfFrom (k + 1) t

/-- The canonical form of a map: places strictly rising, no entry zero (what an unlisted place reads as). -/
def Store.wf (m : Store w) : Bool := Store.wfFrom 0 m

/-- The canonical form of a byte memory: addresses strictly rising, no byte that an unlisted address reads as. -/
abbrev Memory.wf (m : List Host.Cell) : Bool := Store.wf m

/-! ## Multi-byte values (R1: little-endian) -/

/-- The bytes at `a`, `a + 1`, …, `a + n − 1`, read through `f`, as one number. -/
def leOf (f : Nat → Byte) (a : Nat) : Nat → Nat
  | 0 => 0
  | n + 1 => (f a).toNat + 256 * leOf f (a + 1) n

/-- Byte `k` of a number. -/
def byteOf (v k : Nat) : Byte := BitVec.ofNat 8 (v / 256 ^ k)

/-- The value of `n` bytes of a byte map. -/
def Store.getLE (m : Store 8) (a n : Nat) : Nat := leOf (Store.get m) a n

/-- Writes the low `n` bytes of a value, byte `k` at `a + k`. -/
def Store.putLE (m : Store 8) (a : Nat) : Nat → Nat → Store 8
  | 0, _ => m
  | n + 1, v => Store.putLE (Store.put m a (BitVec.ofNat 8 v)) (a + 1) n (v / 256)

/-- Writes the bytes of a list from `a` on. -/
def Store.putBytes (m : Store 8) (a : Nat) : List Byte → Store 8
  | [] => m
  | b :: t => Store.putBytes (Store.put m a b) (a + 1) t

/-- The `n` bytes from `a` on. -/
def Store.bytes (m : Store 8) (a : Nat) : Nat → List Byte
  | 0 => []
  | n + 1 => Store.get m a :: Store.bytes m (a + 1) n

/-! ## Bit helpers -/

/-- Bits [hi:lo] of a number (R1). -/
def bits (v hi lo : Nat) : Nat := v / 2 ^ lo % 2 ^ (hi + 1 - lo)

/-- The 32 lanes of a group (R96). -/
def lanes : List Nat := List.range 32

/-- The lanes of a mask, ascending. -/
def lanesOf (m : W32) : List Nat := lanes.filter fun l => m.getLsbD l

/-- The lowest-numbered lane of a mask. -/
def lowest (m : W32) : Option Nat := (lanesOf m).head?

/-- The mask of one lane. -/
def laneBit (l : Nat) : W32 := 1#32 <<< l

/-- The mask of the lanes a test holds in. -/
def maskOf (f : Nat → Bool) : W32 := lanes.foldl (fun m l => if f l then m ||| laneBit l else m) 0#32

/-- A 57-bit address as a 64-bit one: bits [63:57] equal bit 56 (R324). -/
def sext57 (a : W64) : W64 := (a.setWidth 57).signExtend 64

/-- A canonical virtual address (R324). -/
def canonical (a : W64) : Bool := decide (sext57 a = a)

/-- The first element that a test admits, replaced; the list as it is when none is. -/
def replaceFirst {α : Type} (p : α → Bool) (f : α → α) : List α → List α
  | [] => []
  | x :: t => if p x then f x :: t else x :: replaceFirst p f t

/-- The lowest start of a run of `n` in [lo, hi) that meets none of the runs (start, length) in use. -/
def firstFit (lo hi : Nat) (used : List (Nat × Nat)) (n : Nat) : Option Nat :=
  let free := fun (x : Nat) => decide (lo ≤ x) && decide (x + n ≤ hi) && used.all fun u => decide (x + n ≤ u.1) || decide (u.1 + u.2 ≤ x)
  ((lo :: used.map fun u => u.1 + u.2).filter free).foldl (fun b x => some (match b with | some y => min x y | none => x)) none

end Sys2Proof.Machine
end

