-- ==== Sys2Proof/Machine/Group.lean ====
section
/-!
DEFINITION. Sys2Proof/Machine/Group.lean: the named operations on a group: its registers through the window (R23–R26), its predicates
and MODE (R27–R31, R112), lookahead values (R33–R36), its split table (R129–R135); and the operations on the list of groups.
-/

namespace Sys2Proof.Machine

open Sys2Proof

/-! ## Splits -/

/-- The valid split entry `e`. -/
def Group.split (g : Group) (e : Nat) : Option Split := (g.splits[e]?).join

/-- Replaces split entry `e`. -/
def Group.setSplit (g : Group) (e : Nat) (o : Option Split) : Group := { g with splits := g.splits.set e o }

/-- Changes split entry `e` when it is valid. -/
def Group.onSplit (g : Group) (e : Nat) (f : Split → Split) : Group :=
  match g.split e with
  | some x => g.setSplit e (some (f x))
  | none => g

/-- What stands for a split where there is none. -/
def Split.init : Split :=
  { pc := 0, mask := 0, rp := none, hold := 0, age := 0, ms := { stack := [], priv := 0 }, wait := .none }

/-- The valid splits. -/
def Group.live (g : Group) : List Split := g.splits.filterMap id

/-- The lanes of a group that have not exited (R129). -/
def Group.liveLanes (g : Group) : W32 :=
  g.parked.foldl (fun m p => m ||| p.mask) (g.live.foldl (fun m x => m ||| x.mask) 0#32)

/-- One split and no overflow set: what CALL, RET, XACQ, XREL and TRET demand (R115, R117, R118, R142, R355). -/
def Group.converged (g : Group) : Bool := decide (g.live.length ≤ 1) && g.parked.isEmpty

/-- Some other valid entry or parked set has a PC below `rp` (R132). -/
def Group.liveBelow (g : Group) (e : Nat) (rp : W64) : Bool :=
  ((List.range 4).any fun k => decide (k ≠ e) && (match g.split k with | some x => decide (x.pc < rp) | none => false)) ||
    g.parked.any fun p => decide (p.pc < rp)

/-- Entry `e` is held at its reconvergence point (R132). -/
def Group.held (g : Group) (e : Nat) : Bool :=
  match g.split e with
  | some x => (match x.rp with | some rp => decide (x.pc = rp) && g.liveBelow e rp | none => false)
  | none => false

/-- The end of a hold makes RP none and clears the counter (R132). -/
def Split.release (x : Split) : Split := { x with rp := none, hold := 0 }

/-- Ends the holds whose condition cleared between two shapes of a split table (R132). -/
def Group.settle (old new : Group) : Group :=
  (List.range 4).foldl (fun g e =>
    if old.held e && !new.held e then
      g.onSplit e fun x => if x.rp = some x.pc then x.release else x
    else g) new

/-- The lowest free entry of the split table. -/
def Group.freeSplit (g : Group) : Option Nat := (List.range 4).find? fun e => decide (g.splits[e]? = some none)

/-- A free entry takes the oldest parked set, until no entry is free or no set is parked (R134). -/
def Group.promoteN : Nat → Group → Group
  | 0, g => g
  | n + 1, g =>
    match g.parked, g.freeSplit with
    | p :: t, some e =>
      Group.promoteN n ({ g with parked := t }.setSplit e
        (some { pc := p.pc, mask := p.mask, rp := p.rp, hold := 0, age := 0, ms := p.ms, wait := .none }))
    | _, _ => g

/-- Every free entry takes a parked set (R134). -/
def Group.promote (g : Group) : Group := Group.promoteN 4 g

/-- Parks a set at the tail of the queue; sets with equal PCs join in the older one's place (R134). DESIGN CHOICE (log 68): which mode state
and RP the joined set has is not stated; it keeps the older set's. -/
def Group.park (g : Group) (p : Parked) : Group :=
  if g.parked.any fun q => decide (q.pc = p.pc) then
    { g with parked := replaceFirst (fun q => decide (q.pc = p.pc)) (fun q => { q with mask := q.mask ||| p.mask }) g.parked }
  else { g with parked := g.parked ++ [p] }

/-! ## Registers (R23–R26) -/

/-- The physical register of a window register (R24). -/
def Group.phys (g : Group) (n : Nat) : Nat := (g.win.wb + n) % g.nregs

/-- The place a register field names; none for z (R23). -/
def Group.regPlace (g : Group) (r : Reg) : Option Nat :=
  if r.toNat < 56 then some (g.phys r.toNat)
  else if r.toNat < 63 then some (1024 + (r.toNat - 56))
  else none

/-- The destination a field names: one register or a pair (R23, R26). -/
def Group.dst (g : Group) (r : Reg) (wide : Bool) : Dst :=
  match g.regPlace r with
  | none => .none
  | some p => if wide then .two p ((g.regPlace (r + 1#6)).getD p) else .one p

/-- The places of a destination. -/
def Dst.places : Dst → List Nat
  | .none => []
  | .one p => [p]
  | .two p q => [p, q]

/-- A uniform register keeps one value for all lanes. -/
def placeLane (p l : Nat) : Nat := if p < 1024 then l else 0

/-- The lanes a write to a place covers: those of the mask, or all of a uniform register when any lane writes it (R25). -/
def coverOf (p : Nat) (m : W32) : W32 := if p < 1024 ∨ m = 0#32 then m else BitVec.allOnes 32

/-- The lanes by which a place is kept: those of the mask, or lane 0 of a uniform register when any lane writes it. -/
def keptLanes (p : Nat) (m : W32) : W32 := if p < 1024 ∨ m = 0#32 then m else 1#32

/-- The value at a place in a lane. -/
def Group.getPlace (g : Group) (p l : Nat) : W32 :=
  if p < 1024 then Store.get g.vregs (32 * p + l) else Store.get g.uregs (p - 1024)

/-- Writes a place in one lane. -/
def Group.putPlace (g : Group) (p l : Nat) (v : W32) : Group :=
  if p < 1024 then { g with vregs := Store.put g.vregs (32 * p + l) v }
  else { g with uregs := Store.put g.uregs (p - 1024) v }

/-- Writes a place in the lanes of a mask; a uniform register takes the value of the lowest of them (R23, R25). -/
def Group.setPlace (g : Group) (p : Nat) (m : W32) (f : Nat → W32) : Group :=
  if p < 1024 then
    { g with vregs := (lanesOf m).foldl (fun st l => Store.put st (32 * p + l) (f l)) g.vregs }
  else
    match lowest m with
    | some l => { g with uregs := Store.put g.uregs (p - 1024) (f l) }
    | none => g

/-- The old values that open windows of split entry `e` hold for a place and lane (R35). -/
def Group.olds (g : Group) (e p l : Nat) : List W32 :=
  (g.wins.filter fun w => decide (w.entry = e)).filterMap fun w =>
    let x := Store.get w.olds (32 * p + placeLane p l)
    if x.getLsbD 32 then some (x.setWidth 32) else none

/-- The value a read by split entry `e` receives: the value held, or inside a window an old one (R35, log 6). -/
def Group.see (g : Group) (e fresh p l : Nat) : W32 :=
  match g.olds e p l with
  | [] => g.getPlace p l
  | os =>
    let cs := g.getPlace p l :: os
    cs.getD (Config.windowPick fresh (32 * p + placeLane p l) % cs.length) 0#32

/-- Keeps the present values of a place in a window, for the lanes it has none for. -/
def LookWin.save (w : LookWin) (g : Group) (p : Nat) (m : W32) : LookWin :=
  let keep := fun (st : Store 33) (l : Nat) =>
    if (Store.get st (32 * p + l)).getLsbD 32 then st else Store.put st (32 * p + l) (1#1 ++ g.getPlace p l)
  { w with olds := (lanesOf (keptLanes p m)).foldl keep w.olds }

/-- Forgets the old values of a place in a window. -/
def LookWin.drop (w : LookWin) (p : Nat) (m : W32) : LookWin :=
  { w with olds := (lanesOf (keptLanes p m)).foldl (fun st l => Store.put st (32 * p + l) 0#33) w.olds }

/-- A write of a later instruction takes the place of the writes that older ones still owe (R35). -/
def Group.supersede (g : Group) (id p : Nat) (m : W32) : Group :=
  { g with owed := (g.owed.map fun o =>
      if o.place = p ∧ o.id < id then { o with lanes := o.lanes &&& ~~~(coverOf p m) } else o).filter fun o => decide (o.lanes ≠ 0#32) }

/-- The write of a place by an ordinary instruction with the name `id`. -/
def Group.assign (g : Group) (id p : Nat) (m : W32) (f : Nat → W32) : Group :=
  ({ g.supersede id p m with wins := g.wins.map fun (w : LookWin) => if w.id < id then w.drop p m else w }).setPlace p m f

/-- The write of a place by the long-latency instruction `id`, at once: its window keeps the old values (R35). -/
def Group.assignLong (g : Group) (id p : Nat) (m : W32) (f : Nat → W32) : Group :=
  ({ g.supersede id p m with wins := g.wins.map fun (w : LookWin) => if w.id = id then w.save g p m else w }).setPlace p m f

/-- Instruction `id` will write the places of a destination in the lanes of a mask; of a uniform register, in its lowest lane. -/
def Group.owe (g : Group) (id : Nat) (d : Dst) (m : W32) : Group :=
  if m = 0#32 then g
  else { g with owed := g.owed ++ d.places.map fun p =>
    { id := id, place := p, lanes := if p < 1024 then m else (match lowest m with | some l => laneBit l | none => 0#32) } }

/-- Instruction `id` delivers a value for one lane of a place it owes; a lane it no longer owes keeps what it holds (R35). -/
def Group.deliver (g : Group) (id p l : Nat) (v : W32) : Group :=
  if g.owed.any fun o => decide (o.id = id) && decide (o.place = p) && o.lanes.getLsbD l then
    let g1 := g.assignLong id p (laneBit l) fun _ => v
    { g1 with owed := (g1.owed.map fun o =>
        if o.id = id ∧ o.place = p then { o with lanes := o.lanes &&& ~~~(laneBit l) } else o).filter fun o => decide (o.lanes ≠ 0#32) }
  else g

/-- Delivers to the places of a destination: the low word, and for a pair the high word (R26). -/
def Group.deliverDst (g : Group) (id : Nat) (d : Dst) (l : Nat) (v : W64) : Group :=
  match d with
  | .none => g
  | .one p => g.deliver id p l (v.setWidth 32)
  | .two p q => (g.deliver id p l (v.setWidth 32)).deliver id q l ((v >>> 32).setWidth 32)

/-- Instruction `id` owes nothing more. -/
def Group.disown (g : Group) (id : Nat) : Group := { g with owed := g.owed.filter fun o => decide (o.id ≠ id) }

/-- Instruction `id` no longer owes the lanes of a mask. -/
def Group.disownLanes (g : Group) (id : Nat) (m : W32) : Group :=
  let cut := g.owed.map fun o => if o.id = id then { o with lanes := o.lanes &&& ~~~m } else o
  { g with owed := cut.filter fun o => decide (o.lanes ≠ 0#32) }

/-- An instruction issued up to `n` still owes a write to a place (R121). -/
def Group.owes (g : Group) (p n : Nat) : Bool := g.owed.any fun o => decide (o.place = p) && decide (o.id ≤ n)

/-- Instruction `id` still owes a write. -/
def Group.pending (g : Group) (id : Nat) : Bool := g.owed.any fun o => decide (o.id = id)

/-! ## Predicates and MODE (R27–R31, R112) -/

/-- A predicate over all lanes; p0 is 1 in every lane (R27). -/
def Group.pred (g : Group) (k : BitVec 3) : W32 := if k = 0#3 then BitVec.allOnes 32 else Store.get g.preds k.toNat

/-- Writes a predicate in the lanes of a mask; a write to p0 is ignored (R27). -/
def Group.setPred (g : Group) (k : BitVec 3) (m v : W32) : Group :=
  if k = 0#3 then g else { g with preds := Store.put g.preds k.toNat ((g.pred k &&& ~~~m) ||| (v &&& m)) }

/-- The effective MODE of a split: the group's at depth 0, its private one otherwise (R112). -/
def Group.effMode (g : Group) (x : Split) : W32 := if x.ms.stack.isEmpty then g.mode else x.ms.priv

/-- Writes the effective MODE of split entry `e` (R112). -/
def Group.setMode (g : Group) (e : Nat) (m : W32) : Group :=
  match g.split e with
  | some x => if x.ms.stack.isEmpty then { g with mode := m } else g.setSplit e (some { x with ms := { x.ms with priv := m } })
  | none => g

/-- The lanes of a mask where the guard of a MODE holds (R28, R8). -/
def Group.guardOf (g : Group) (m : W32) (mask : W32) : W32 :=
  let p := g.pred (m.extractLsb' 0 3)
  mask &&& (if m.getLsbD 3 then ~~~p else p)

/-! ## Levels and cores -/

/-- The level of a group: 0 APP, 1 SYS, 2 FW (R343, R345). -/
def Group.level (g : Group) : Nat := bits g.stat.toNat 1 0

/-- The trap bank in use: 0 none, 1 APP, 2 SYS, 3 FW (R345). -/
def Group.bank (g : Group) : Nat := bits g.stat.toNat 3 2

/-- The group runs on a control core (R127). -/
def Group.onControl (g : Group) : Bool := decide (256 ≤ g.core)

/-- The lanes a group has: all 32, on a control core lane 0 alone (R38). -/
def Group.ownLanes (g : Group) : W32 := if g.onControl then 1#32 else BitVec.allOnes 32

/-- The helper lanes of a group: none inside a handler (R97, R353). -/
def Group.helpers (g : Group) : W32 := if g.bank = 0 then g.helper else 0#32

/-- The group's MODE[14]: precise (R28). -/
def Group.precise (g : Group) : Bool := g.mode.getLsbD 14

/-! ## The list of groups -/

/-- Every group, the one in focus first. -/
def State.groups (s : State) : List Group := s.g :: s.others

/-- A group that exists (placed and not ended). -/
def Group.present (g : Group) : Bool := decide (g.place ≠ .absent)

/-- A group by its name. -/
def State.find (s : State) (gid : Nat) : Option Group := s.groups.find? fun g => g.present && decide (g.gid = gid)

/-- Changes the group in focus. -/
def State.onG (s : State) (f : Group → Group) : State := { s with g := f s.g }

/-- Changes every group that a test admits. -/
def State.mapGroups (s : State) (p : Group → Bool) (f : Group → Group) : State :=
  { s with g := if p s.g then f s.g else s.g, others := s.others.map fun g => if p g then f g else g }

/-- Changes one group by its name. -/
def State.onGroup (s : State) (gid : Nat) (f : Group → Group) : State :=
  s.mapGroups (fun g => g.present && decide (g.gid = gid)) f

/-- Brings a group and a split entry of it into focus. -/
def State.focus (s : State) (gid e : Nat) : State :=
  if s.g.gid = gid then { s with entry := e }
  else
    match s.others.find? fun g => decide (g.gid = gid) with
    | some x => { s with g := x, entry := e, others := (if s.g.present then [s.g] else []) ++ s.others.filter fun g => decide (g.gid ≠ gid) }
    | none => s

/-- Acts on a group as the one in focus, and brings the focus back. -/
def State.inGroup (s : State) (gid : Nat) (f : State → State) : State :=
  if s.g.gid = gid then f s
  else
    let s1 := f (s.focus gid 0)
    if s.g.present then s1.focus s.g.gid s.entry else s1

/-- Adds a group. -/
def State.addGroup (s : State) (g : Group) : State :=
  if s.g.present then { s with others := s.others ++ [g] } else { s with g := g }

/-- Takes groups away; the focus moves to another group. -/
def State.dropGroups (s : State) (p : Group → Bool) : State :=
  match s.groups.filter fun g => g.present && !p g with
  | [] => { s with g := Group.absent, others := [] }
  | g :: t => { s with g := g, others := t }

/-- The next name in age order (log 4). -/
def State.tickSeq (s : State) : State := { s with seq := s.seq + 1 }

/-! ## The issuing split -/

/-- The issuing split. -/
def State.cur (s : State) : Split := (s.g.split s.entry).getD Split.init

/-- The effective MODE of the issuing split (R112). -/
def State.md (s : State) : W32 := s.g.effMode s.cur

/-- The active lanes (R8). -/
def State.act (s : State) : W32 := s.cur.mask

/-- The lanes where GUARD holds (R8). -/
def State.grd (s : State) : W32 := s.g.guardOf s.md s.act

/-- The GUARD lanes that are not helpers (R97). -/
def State.work (s : State) : W32 := s.grd &&& ~~~s.g.helpers

/-- The issuing lane of the operations of a group: the lowest GUARD lane that is not a helper. -/
def State.issuer (s : State) : Option Nat := lowest s.work

/-- V(r, l), S(r) or z for the issuing split (R23, R35). -/
def State.rd (s : State) (r : Reg) (l : Nat) : W32 :=
  match s.g.regPlace r with
  | none => 0#32
  | some p => s.g.see s.entry s.fresh p l

/-- A 64-bit operand: the pair r, r + 1, or a 64-bit zero (R26). -/
def State.rd64 (s : State) (r : Reg) (l : Nat) : W64 :=
  if r = 63#6 then 0#64 else (s.rd (r + 1#6) l ++ s.rd r l : BitVec 64)

/-- A register operand that is uniform or z, or else needs a lane to be read in. -/
def laneless (r : Reg) : Bool := decide (56 ≤ r.toNat)

/-- VALUE of a single operand: a uniform register, z, or the register in the lowest-numbered active lane (R30, R142). -/
def State.value (s : State) (r : Reg) : W32 := s.rd r ((lowest s.act).getD 0)

/-- The write of a 32-bit destination in the lanes of a mask (R23, R25). -/
def State.wrIn (s : State) (d : Reg) (m : W32) (f : Nat → W32) : State :=
  match s.g.regPlace d with
  | none => s
  | some p => { s with g := s.g.assign s.seq p m f }

/-- The write of a 64-bit destination in the lanes of a mask (R26). -/
def State.wrIn64 (s : State) (d : Reg) (m : W32) (f : Nat → W64) : State :=
  if d = 63#6 then s
  else (s.wrIn d m fun l => (f l).setWidth 32).wrIn (d + 1#6) m fun l => (f l >>> 32).setWidth 32

/-- The write of a destination in the GUARD lanes. -/
def State.wr (s : State) (d : Reg) (f : Nat → W32) : State := s.wrIn d s.grd f

/-- The write of a pair in the GUARD lanes. -/
def State.wr64 (s : State) (d : Reg) (f : Nat → W64) : State := s.wrIn64 d s.grd f

/-- The write of a predicate in the GUARD lanes (R27). -/
def State.wrP (s : State) (p : BitVec 3) (f : Nat → Bool) : State :=
  { s with g := s.g.setPred p s.grd (maskOf fun l => s.grd.getLsbD l && f l) }

end Sys2Proof.Machine
end

