-- ==== Sys2Proof/Machine/Formats.lean ====
section
/-!
DEFINITION. Sys2Proof/Machine/Formats.lean: number formats and rounding (R45–R53): integer element types, the exact value of an encoding,
one rounding of an exact value to a format, and the exact or bounded values of the approximated functions (R91–R93).
-/

namespace Sys2Proof.Machine

open Sys2Proof

/-! ## Integer element types (R45, R46) -/

/-- A value wrapped to the range of a type of width `w`. -/
def wrapInt (sg : Bool) (w : Nat) (x : Int) : Int := if sg then Int.bmod x (2 ^ w) else Int.emod x (2 ^ w)

/-- The smallest value of a type. -/
def minInt (sg : Bool) (w : Nat) : Int := if sg then -(2 ^ (w - 1) : Nat) else 0
/-- The largest value of a type. -/
def maxInt (sg : Bool) (w : Nat) : Int := if sg then (2 ^ (w - 1) : Nat) - 1 else (2 ^ w : Nat) - 1

/-- SAT: a value clamped to the range of a type. -/
def satInt (sg : Bool) (w : Nat) (x : Int) : Int := max (minInt sg w) (min (maxInt sg w) x)

/-! ## Floating-point formats (R47) -/

/-- A format with a sign bit, `eb` exponent bits and `fb` fraction bits, laid out as IEEE 754-2019 interchange formats are. -/
structure FFmt where
  eb : Nat
  fb : Nat
  deriving DecidableEq, Repr

def f16 : FFmt := { eb := 5, fb := 10 }
def bf16 : FFmt := { eb := 8, fb := 7 }
def f32 : FFmt := { eb := 8, fb := 23 }
def f64 : FFmt := { eb := 11, fb := 52 }

/-- The exact value of an encoding: NaN, an infinity, or (−1)^neg × m × 2^e. -/
inductive FVal where
  | nan
  | inf (neg : Bool)
  | fin (neg : Bool) (m : Nat) (e : Int)
  deriving DecidableEq, Repr

def FFmt.bias (F : FFmt) : Nat := 2 ^ (F.eb - 1) - 1
/-- The exponent of the last bit of a subnormal. -/
def FFmt.qmin (F : FFmt) : Int := 1 - (F.bias : Int) - (F.fb : Int)
/-- The magnitude that encodes infinity; every smaller one is finite, and magnitudes count the values in order. -/
def FFmt.infMag (F : FFmt) : Nat := (2 ^ F.eb - 1) * 2 ^ F.fb
/-- The sign bit. -/
def FFmt.signBit (F : FFmt) : Nat := 2 ^ (F.eb + F.fb)
/-- The canonical NaN (R47). -/
def FFmt.canonical (F : FFmt) : Nat := F.infMag + 2 ^ (F.fb - 1)
/-- An encoding from its sign and magnitude. -/
def FFmt.pack (F : FFmt) (neg : Bool) (mag : Nat) : Nat := if neg then F.signBit + mag else mag

/-- The magnitude bits of an encoding. -/
def FFmt.mag (F : FFmt) (v : Nat) : Nat := v % F.signBit
/-- The sign of an encoding. -/
def FFmt.neg (F : FFmt) (v : Nat) : Bool := decide (v / F.signBit % 2 = 1)

/-- The value of an encoding (R47); the bits above the format are ignored. -/
def FFmt.val (F : FFmt) (v : Nat) : FVal :=
  let g := F.mag v
  let n := F.neg v
  if F.infMag < g then .nan
  else if g = F.infMag then .inf n
  else if g < 2 ^ F.fb then .fin n g F.qmin
  else .fin n (2 ^ F.fb + g % 2 ^ F.fb) (F.qmin + ((g / 2 ^ F.fb : Nat) : Int) - 1)

/-- The value of an operand under MODE[13] (R51): a subnormal counts as zero of its sign. -/
def FFmt.valIn (F : FFmt) (flush : Bool) (v : Nat) : FVal :=
  match F.val v with
  | .fin n m e => if flush ∧ F.mag v < 2 ^ F.fb then .fin n 0 e else .fin n m e
  | x => x

/-! ## Rounding (R49–R52) -/

/-- How a result is rounded and delivered: the rounding mode, saturation and flush of MODE (R28). -/
structure Rnd where
  rm : Nat
  sat : Bool
  flush : Bool
  deriving DecidableEq, Repr

/-- The rounding fields of a MODE. -/
def rndOf (m : W32) : Rnd := { rm := bits m.toNat 11 9, sat := m.getLsbD 12, flush := m.getLsbD 13 }

/-- Round to nearest even, nothing saturated or flushed. -/
def rne : Rnd := { rm := 0, sat := false, flush := false }

/-- Whether a magnitude is raised to the next one (R49): `c` is 0, 1 or 2 for a remainder below, at or above one half, `lost` for any. -/
def roundUp (rm : Nat) (neg odd : Bool) (c : Nat) (lost : Bool) : Bool :=
  match rm with
  | 0 => decide (c = 2) || (decide (c = 1) && odd)
  | 1 => false
  | 2 => lost && !neg
  | 3 => lost && neg
  | _ => decide (1 ≤ c)

/-- The integer quotient of m × 2^e (and a bit more when `st`) by 2^q, rounded. -/
def roundAt (rm : Nat) (neg : Bool) (m : Nat) (e q : Int) (st : Bool) : Nat :=
  let sh := q - e
  if sh ≤ 0 then
    let r := m * 2 ^ (-sh).toNat
    if roundUp rm neg (decide (r % 2 = 1)) 0 st then r + 1 else r
  else if (Nat.log2 m : Int) + 2 < sh then
    if roundUp rm neg false 0 (decide (m ≠ 0) || st) then 1 else 0
  else
    let k := sh.toNat
    let r := m / 2 ^ k
    let rem := m % 2 ^ k
    let c := if rem < 2 ^ (k - 1) then 0 else if rem = 2 ^ (k - 1) ∧ st = false then 1 else 2
    if roundUp rm neg (decide (r % 2 = 1)) c (decide (rem ≠ 0) || st) then r + 1 else r

/-- The magnitude of a nonzero exact value m × 2^e, rounded once, in an exponent range without end (R49). -/
def FFmt.roundMag (F : FFmt) (rm : Nat) (neg : Bool) (m : Nat) (e : Int) (st : Bool) : Nat :=
  let q := max ((Nat.log2 m : Int) + e - (F.fb : Int)) F.qmin
  roundAt rm neg m e q st + (q - F.qmin).toNat * 2 ^ F.fb

/-- The result of an overflow (R50). -/
def FFmt.overflow (F : FFmt) (r : Rnd) (neg : Bool) : Nat :=
  let toMax := r.sat || decide (r.rm = 1) || (decide (r.rm = 2) && neg) || (decide (r.rm = 3) && !neg)
  F.pack neg (if toMax then F.infMag - 1 else F.infMag)

/-- A magnitude delivered: overflow under R50, a subnormal under MODE[13] (R51). -/
def FFmt.deliverMag (F : FFmt) (r : Rnd) (neg : Bool) (mag : Nat) : Nat :=
  if F.infMag ≤ mag then F.overflow r neg
  else if r.flush ∧ mag < 2 ^ F.fb then F.pack neg 0
  else F.pack neg mag

/-- RND: an exact value rounded once and delivered (R49–R52); `st` says that the exact magnitude is a little above m × 2^e. -/
def FFmt.rnd (F : FFmt) (r : Rnd) (st : Bool) : FVal → Nat
  | .nan => F.canonical
  | .inf n => F.pack n F.infMag
  | .fin n m e => if m = 0 then F.pack n 0 else F.deliverMag r n (F.roundMag r.rm n m e st)

/-! ## Exact arithmetic (R84) -/

/-- The value with the other sign. -/
def FVal.neg : FVal → FVal
  | .nan => .nan
  | .inf n => .inf !n
  | .fin n m e => .fin (!n) m e

/-- The signed integer of a value at the exponent `q`, at most its own. -/
def FVal.at (n : Bool) (m : Nat) (e q : Int) : Int := (if n then -1 else 1) * ((m * 2 ^ (e - q).toNat : Nat) : Int)

/-- The exact sum; `rdn`: an exact zero of opposite signs is −0. -/
def FVal.add (rdn : Bool) : FVal → FVal → FVal
  | .nan, _ => .nan
  | _, .nan => .nan
  | .inf a, .inf b => if a = b then .inf a else .nan
  | .inf a, .fin .. => .inf a
  | .fin .., .inf b => .inf b
  | .fin n m e, .fin n' m' e' =>
    let q := min e e'
    let x := FVal.at n m e q + FVal.at n' m' e' q
    if x = 0 then .fin (if n = n' then n else rdn) 0 q
    else .fin (decide (x < 0)) x.natAbs q

/-- The exact product. -/
def FVal.mul : FVal → FVal → FVal
  | .nan, _ => .nan
  | _, .nan => .nan
  | .inf a, .inf b => .inf (a != b)
  | .inf a, .fin n m _ => if m = 0 then .nan else .inf (a != n)
  | .fin n m _, .inf b => if m = 0 then .nan else .inf (n != b)
  | .fin n m e, .fin n' m' e' => .fin (n != n') (m * m') (e + e')

/-- −1, 0 or 1 as the first value is below, equal to or above the second; none when either is NaN. −0 equals +0. -/
def FVal.cmp : FVal → FVal → Option Int
  | .nan, _ => none
  | _, .nan => none
  | .inf a, .inf b => some (if a = b then 0 else if a then -1 else 1)
  | .inf a, .fin .. => some (if a then -1 else 1)
  | .fin .., .inf b => some (if b then 1 else -1)
  | .fin n m e, .fin n' m' e' =>
    let q := min e e'
    some (Int.sign (FVal.at n m e q - FVal.at n' m' e' q))

/-- The operand's encoding, a subnormal as zero of its sign under MODE[13]. -/
def FFmt.flushed (F : FFmt) (flush : Bool) (v : Nat) : Nat :=
  if flush ∧ F.mag v < 2 ^ F.fb then F.pack (F.neg v) 0 else v

/-- minimumNumber and maximumNumber (R85). -/
def FFmt.pick (F : FFmt) (flush isMax : Bool) (a b : Nat) : Nat :=
  match F.val a, F.val b with
  | .nan, .nan => F.canonical
  | .nan, _ => F.flushed flush b
  | _, .nan => F.flushed flush a
  | _, _ =>
    match (F.valIn flush a).cmp (F.valIn flush b) with
    | some c =>
      let first := if c = 0 then F.neg a != isMax else decide (c < 0) != isMax
      F.flushed flush (if first then a else b)
    | none => F.canonical

/-- A value rounded to an integral value of the same magnitude order (R89). -/
def FVal.integral (rm : Nat) : FVal → FVal
  | .fin n m e => if 0 ≤ e then .fin n m e else .fin n (roundAt rm n m e 0 false) 0
  | x => x

/-- A value as an integer of a type (R53): rounded by the mode, clamped; NaN gives 0. -/
def FVal.toInteger (rm : Nat) (sg : Bool) (w : Nat) : FVal → Int
  | .nan => 0
  | .inf n => if n then minInt sg w else maxInt sg w
  | .fin n m e =>
    if m = 0 then 0
    else if 70 < (Nat.log2 m : Int) + e then (if n then minInt sg w else maxInt sg w)
    else satInt sg w ((if n then -1 else 1) * ((roundAt rm n m e 0 false : Nat) : Int))

/-- An integer as an exact value. -/
def FVal.ofInt (x : Int) : FVal := .fin (decide (x < 0)) x.natAbs 0

/-! ## Roots and quotients -/

/-- The integer square root of `n`, from bit `k − 1` of the root down. -/
def isqrt : Nat → Nat → Nat → Nat
  | 0, r, _ => r
  | k + 1, r, n => if (r + 2 ^ k) * (r + 2 ^ k) ≤ n then isqrt k (r + 2 ^ k) n else isqrt k r n

/-- An exact result m × 2^e, or one a little above it. -/
structure Approx where
  neg : Bool
  m : Nat
  e : Int
  st : Bool
  deriving DecidableEq, Repr

/-- 1 / (m × 2^e). -/
def recip (neg : Bool) (m : Nat) (e : Int) : Approx :=
  let k := 64 + Nat.log2 m
  { neg := neg, m := 2 ^ k / m, e := -e - (k : Int), st := decide (2 ^ k % m ≠ 0) }

/-- The square root of m × 2^e. -/
def root (m : Nat) (e : Int) : Approx :=
  let k : Nat := if e % 2 = 0 then 120 else 121
  let n := m * 2 ^ k
  let r := isqrt ((Nat.log2 n + 2) / 2) 0 n
  { neg := false, m := r, e := (e - (k : Int)) / 2, st := decide (r * r ≠ n) }

/-- 1 / the square root of m × 2^e. -/
def recipRoot (m : Nat) (e : Int) : Approx :=
  let m1 := if e % 2 = 0 then m else 2 * m
  let e1 := if e % 2 = 0 then e else e - 1
  let k := 64 + Nat.log2 m1
  let n := 2 ^ (2 * k) / m1
  let r := isqrt ((Nat.log2 n + 2) / 2) 0 n
  { neg := false, m := r, e := -(k : Int) - e1 / 2, st := decide (m1 * (r * r) ≠ 2 ^ (2 * k)) }

/-! ## Transcendental functions, in fixed point with 512 places (log 10) -/

/-- ln 2 × 2^512, truncated. -/
def ln2Fix : Nat :=
  0xb17217f7d1cf79abc9e3b39803f2f6af40f343267298b62d8a0d175b8baafa2be7b876206debac98559552fb4afa1b10ed2eae35c138214427573b291169b8253e96ca16224ae8c5 / 2 ^ 64

/-- π/2 × 2^576, truncated. -/
def halfPiFix : Nat :=
  0x1921fb54442d18469898cc51701b839a252049c1114cf98e804177d4c76273644a29410f31c6809bbdf2a33679a748636605614dbe4be286e9fc26adadaa3848bc90b6aecc4bcfd8d

/-- The terms y^k / k! from the k-th on, added up; `t` is the term before. -/
def expSum : Nat → Nat → Nat → Nat → Nat → Nat
  | 0, _, _, _, acc => acc
  | n + 1, k, y, t, acc =>
    let t1 := t * y / 2 ^ 512 / k
    expSum n (k + 1) y t1 (acc + t1)

/-- The terms z^(2k+1) / (2k+1), added up; `t` is the power of z. -/
def atanhSum : Nat → Nat → Nat → Nat → Nat → Nat
  | 0, _, _, _, acc => acc
  | n + 1, k, z2, t, acc => atanhSum n (k + 2) z2 (t * z2 / 2 ^ 512) (acc + t / k)

/-- The alternating terms t, −t y²/((k+1)(k+2)), …, added up. -/
def trigSum : Nat → Nat → Nat → Int → Int → Int
  | 0, _, _, _, acc => acc
  | n + 1, k, y2, t, acc => trigSum n (k + 2) y2 (-(t * (y2 : Int) / 2 ^ 512) / (((k + 1) * (k + 2) : Nat) : Int)) (acc + t)

/-- m × 2^e in fixed point. -/
def toFix (m : Nat) (e : Int) : Nat := if 0 ≤ e + 512 then m * 2 ^ (e + 512).toNat else m / 2 ^ (-(e + 512)).toNat

/-- 2^x for x = (−1)^neg × m × 2^e, m ≠ 0. -/
def exp2Val (neg : Bool) (m : Nat) (e : Int) : Approx :=
  if 12 < (Nat.log2 m : Int) + e then { neg := false, m := 1, e := if neg then -5000 else 5000, st := neg }
  else
    let x : Int := (if neg then -1 else 1) * (toFix m e : Int)
    let n := x / 2 ^ 512
    let f := (x % 2 ^ 512).toNat
    if f = 0 then { neg := false, m := 1, e := n, st := false }
    else
      let s := expSum 110 1 (f * ln2Fix / 2 ^ 512) (2 ^ 512) (2 ^ 512)
      { neg := false, m := s - 2 ^ 10, e := n - 512, st := true }

/-- log2 of m × 2^e, m ≠ 0. -/
def log2Val (m : Nat) (e : Int) : Approx :=
  let l := Nat.log2 m
  let n := (l : Int) + e
  if m = 2 ^ l then { neg := decide (n < 0), m := n.natAbs, e := 0, st := false }
  else
    let y := m * 2 ^ (512 - l)
    let z := (y - 2 ^ 512) * 2 ^ 512 / (y + 2 ^ 512)
    let s := 2 * atanhSum 170 1 (z * z / 2 ^ 512) z 0
    let x : Int := n * 2 ^ 512 + ((s * 2 ^ 512 / ln2Fix : Nat) : Int)
    { neg := decide (x < 0), m := x.natAbs - 2 ^ 12, e := -512, st := true }

/-- The sine or cosine of (−1)^neg × m × 2^e, m ≠ 0, |x| ≤ 65,536. -/
def trigVal (cos neg : Bool) (m : Nat) (e : Int) : Approx :=
  let x : Nat := toFix m e * 2 ^ 64
  let q : Nat := x / halfPiFix
  let r : Nat := x % halfPiFix / 2 ^ 64
  let y2 : Nat := r * r / 2 ^ 512
  let k : Nat := (q + if cos then 1 else 0) % 4
  let v : Int := if k % 2 = 0 then trigSum 60 1 y2 r 0 else trigSum 60 0 y2 (2 ^ 512) 0
  { neg := (decide (2 ≤ k)) != (neg && !cos), m := v.natAbs - 2 ^ 10, e := -512, st := true }

/-! ## What R92 lets an approximated function answer -/

/-- A result that is correctly rounded. -/
def FFmt.exact (F : FFmt) (r : Rnd) (x : Approx) : Nat := F.rnd r x.st (.fin x.neg x.m x.e)

/-- The number that a magnitude code stands for, in an exponent range without end, in units of 2^p (p at most `qmin`); negative codes are those of
negative numbers. -/
def FFmt.codeAt (F : FFmt) (c p : Int) : Int :=
  let k := c.natAbs / 2 ^ F.fb
  let v := if k = 0 then c.natAbs else (c.natAbs % 2 ^ F.fb + 2 ^ F.fb) * 2 ^ (k - 1)
  (if c < 0 then -1 else 1) * ((v * 2 ^ (F.qmin - p).toNat : Nat) : Int)

/-- The magnitude codes within `b` units in the last place of an exact magnitude, a unit being the spacing above the exact magnitude rounded toward zero
(R92). -/
def FFmt.bounded (F : FFmt) (b : Nat) (x : Approx) : List Int :=
  let t : Int := F.roundMag 1 x.neg x.m x.e x.st
  let q := max ((Nat.log2 x.m : Int) + x.e - (F.fb : Int)) F.qmin
  let p := min x.e F.qmin
  let y : Int := ((x.m * 2 ^ (x.e - p).toNat : Nat) : Int)
  let u : Int := ((b * 2 ^ (q - p).toNat : Nat) : Int)
  ((List.range (3 * b + 2)).map fun (k : Nat) => t - 2 * (b : Int) + (k : Int)).filter fun c =>
    decide (F.codeAt c p ≤ y + u) && (decide (y < F.codeAt c p + u) || (decide (y = F.codeAt c p + u) && !x.st))

/-- The exact value rounds to more than the largest finite number (R50). -/
def FFmt.overflows (F : FFmt) (r : Rnd) (x : Approx) : Bool := decide (F.infMag ≤ F.roundMag r.rm x.neg x.m x.e x.st)

/-- A result within `b` units in the last place; `pick` says which of them (log 10). Overflow follows R50: an exact value that overflows has R50's result
alone, one that does not has a finite one. -/
def FFmt.within (F : FFmt) (r : Rnd) (b pick : Nat) (x : Approx) : Nat :=
  if F.overflows r x then F.overflow r x.neg
  else
    let cs := (F.bounded b x).filter fun c => decide (c.natAbs < F.infMag)
    let c := cs.getD (pick % cs.length) 0
    F.deliverMag r (x.neg != decide (c < 0)) c.natAbs

/-- The signed fixed-point value of an encoding of a finite number. -/
def FFmt.fix (F : FFmt) (v : Nat) : Int :=
  match F.val v with
  | .fin n m e => (if n then -1 else 1) * (toFix m e : Int)
  | _ => 0

/-- A result within 2^−22 of the exact one; `pick` says which (log 10). -/
def FFmt.near (F : FFmt) (r : Rnd) (pick : Nat) (x : Approx) : Nat :=
  let z : Int := (if x.neg then -1 else 1) * (toFix x.m x.e : Int)
  let w : Int := 2 ^ 490
  let y := z + ((pick % (2 ^ 491 + 1) : Nat) : Int) - w
  let code := fun (v : Int) => F.rnd { rne with flush := r.flush } false (.fin (decide (v < 0)) v.natAbs (-512))
  if (F.fix (code y) - z).natAbs ≤ w.natAbs then code y else code z

/-- A value in [−1, 1]; `pick` says which. -/
def FFmt.unit (F : FFmt) (r : Rnd) (pick : Nat) : Nat :=
  let one := F.bias * 2 ^ F.fb
  let k := pick % (2 * (one + 1))
  F.deliverMag r (decide (one < k)) (k % (one + 1))

end Sys2Proof.Machine
end

