-- ==== Sys2Proof/WellFormed.lean ====
section
/-!
DEFINITION. Sys2Proof/WellFormed.lean: the checks on an instruction's fields that R37 makes at decode, whatever MODE and level hold:
pair names (R26), reserved codes (R33), registers a block may start at, special-register numbers (R344, R345, R436, R438, R445) and
the reserved minors and conditions of each entry. A term that breaks one is refused by name.
-/

namespace Sys2Proof

/-- Why a word is no instruction (R37). Every reason is the illegal instruction trap. -/
inductive DecodeError where
  /-- A major outside the opcode map, 0x00 and 0x7F included. -/
  | unassignedMajor (maj : BitVec 7)
  /-- A minor, variant or selector the map does not define for its major. -/
  | undefinedMinor (maj : BitVec 7)
  /-- A nonzero reserved field (R22). -/
  | reservedField
  /-- A pair field that names no pair (R26). -/
  | badPair
  /-- A field that must name the first register of a block and does not. -/
  | badBlock
  /-- A reserved condition, operator, element type, scope, path, level, kind or count code. -/
  | badCode
  /-- A csr12 value outside the register map, or a write to a read-only register (R344). -/
  | badRegister
  /-- Not the four bytes of one word (R19). -/
  | notFourBytes
  deriving DecidableEq, Repr

/-- A field that names a 64-bit pair: an even value from 0 to 54, 56, 58, 60, or 63 for z (R26). -/
def pairOk (r : Reg) : Bool := (decide (r.toNat % 2 = 0) && decide (r.toNat ≤ 60)) || decide (r.toNat = 63)

/-- A field that is a multiple of `m` from 0 to `top`. -/
def blockOk (m top : Nat) (r : Reg) : Bool := decide (r.toNat % m = 0) && decide (r.toNat ≤ top)

/-- How a special register may be used: its width and whether any level may write it (R345, R436, R438, R445). -/
inductive CsrKind where
  | ro32
  | ro64
  | rw32
  | rw64
  deriving DecidableEq, Repr

/-- The layout shared by the three trap banks, by offset in the bank (R345). -/
def bankKind (o : Nat) : Option CsrKind :=
  if o = 0x00 ∨ (0x04 ≤ o ∧ o ≤ 0x07) then some .ro32
  else if o = 0x01 ∨ o = 0x08 then some .ro64
  else if o = 0x02 ∨ o = 0x30 ∨ (0x38 ≤ o ∧ o ≤ 0x3B) then some .rw64
  else if o = 0x03 then some .rw32
  else if 0x10 ≤ o ∧ o ≤ 0x2F ∧ o % 8 ≤ 4 then some .rw64
  else none

/-- The register map of CSRR and CSRW (R345, R436, R438, R445). -/
def csrKind (n : BitVec 12) : Option CsrKind :=
  let c := n.toNat
  if c = 0x000 ∨ c = 0x004 ∨ c = 0x005 ∨ c = 0x008 then some .ro64
  else if c = 0x001 ∨ c = 0x002 ∨ c = 0x003 ∨ c = 0x006 ∨ c = 0x009 then some .ro32
  else if c = 0x007 then some .rw32
  else if 0x100 ≤ c ∧ c < 0x400 then bankKind (c % 0x100)
  else if c = 0x400 ∨ c = 0x401 ∨ (0x408 ≤ c ∧ c ≤ 0x40B) then some .rw32
  else if c = 0x402 then some .rw64
  else if c = 0x403 ∨ c = 0x404 ∨ (0x420 ≤ c ∧ c ≤ 0x429) ∨ c = 0x430 then some .ro64
  else if c = 0x431 then some .ro32
  else if (0x440 ≤ c ∧ c ≤ 0x447) ∨ c = 0x450 ∨ (0x451 ≤ c ∧ c ≤ 0x454) then some .rw32
  else if (0x448 ≤ c ∧ c ≤ 0x44F) ∨ (0x455 ≤ c ∧ c ≤ 0x458) then some .rw64
  else none

/-- A CSRR is well formed: a register of the map, a pair for a 64-bit one (R344, R26). -/
def csrReadError (d : Reg) (n : BitVec 12) : Option DecodeError :=
  match csrKind n with
  | none => some .badRegister
  | some .ro64 | some .rw64 => if pairOk d then none else some .badPair
  | some .ro32 | some .rw32 => none

/-- A CSRW is well formed: a writable register of the map, a pair for a 64-bit one (R344, R26). -/
def csrWriteError (d : Reg) (n : BitVec 12) : Option DecodeError :=
  match csrKind n with
  | none | some .ro32 | some .ro64 => some .badRegister
  | some .rw64 => if pairOk d then none else some .badPair
  | some .rw32 => none

/-- The error unless the condition holds. -/
def need (c : Bool) (e : DecodeError) : Option DecodeError := if c then none else some e

/-- The rule on its fields that an instruction breaks, if any (R37; the entry of each instruction). Events are not decoded. -/
def Instr.reject : Instr → Option DecodeError
  | .cmp c _ _ _ => need (decide (c.toNat < 6)) .badCode
  | .cmpi c _ _ _ => need (decide (c.toNat < 6)) .badCode
  | .addx d a b => need (pairOk d && pairOk a && pairOk b) .badPair
  | .lea d a _ _ => need (pairOk d && pairOk a) .badPair
  | .cvt _ _ t => need (decide (t.toNat ≤ 11)) .badCode
  | .cvtdx _ _ f => need (decide (f.toNat < 3)) .badCode
  | .cvtmx _ _ f => need (decide (f.toNat < 6)) .badCode
  | .gscanIncl _ _ o => need (decide (o.toNat < 6)) .badCode
  | .gscanExcl _ _ o => need (decide (o.toNat < 6)) .badCode
  | .gred _ _ o => need (decide (o.toNat < 6)) .badCode
  | .brc c _ => need (decide (c.toNat < 4)) .badCode
  | .brx a => need (pairOk a) .badPair
  | .callx a _ => need (pairOk a) .badPair
  | .yield _ a => need (pairOk a) .badPair
  | .ld _ b _ _ => need (pairOk b) .badPair
  | .st _ b _ _ => need (pairOk b) .badPair
  | .ldStr _ b _ sc => (need (pairOk b) .badPair).or (need (decide (sc.toNat ≤ 8)) .badCode)
  | .stStr _ b _ sc => (need (pairOk b) .badPair).or (need (decide (sc.toNat ≤ 8)) .badCode)
  | .ldAcq _ b _ sc => (need (pairOk b) .badPair).or (need (decide (sc.toNat ≤ 8)) .badCode)
  | .stRel _ b _ sc => (need (pairOk b) .badPair).or (need (decide (sc.toNat ≤ 8)) .badCode)
  | .ldh _ b _ c => (need (pairOk b) .badPair).or (need (decide (c.toNat ≠ 0)) .badCode)
  | .pref v b _ => (need (pairOk b) .badPair).or (need (decide (v.toNat < 2)) .badCode)
  | .amo _ a _ _ o => (need (pairOk a) .badPair).or (need (decide (o.toNat ≤ 6)) .badCode)
  | .amos _ a _ _ o => (need (pairOk a) .badPair).or (need (decide (o.toNat ≤ 6)) .badCode)
  | .red a _ _ o => (need (pairOk a) .badPair).or (need (decide (o.toNat ≤ 5)) .badCode)
  | .cas _ a b _ => need (pairOk a && pairOk b) .badPair
  | .fence c _ _ => need (decide (c.toNat ≤ 8)) .badCode
  | .xfence c t f => need (decide (c.toNat ≤ 8) && decide (t.toNat ≤ 7) && decide (f.toNat ≤ 7)) .badCode
  | .pfence k => need (decide (k.toNat < 2)) .badCode
  | .icinv sc => need (decide (sc.toNat ≤ 6)) .badCode
  | .cpyTile _ a _ _ => need (blockOk 8 48 a) .badBlock
  | .cpyLin _ a _ _ => need (blockOk 8 48 a) .badBlock
  | .cpyMem _ a _ _ => need (blockOk 8 48 a) .badBlock
  | .cpyoTile _ a _ _ => need (blockOk 8 48 a) .badBlock
  | .cpyoLin _ a _ _ => need (blockOk 8 48 a) .badBlock
  | .walkExact _ a _ _ => need (blockOk 8 48 a) .badBlock
  | .walkFloor _ a _ _ => need (blockOk 8 48 a) .badBlock
  | .gath _ a _ _ => need (blockOk 4 52 a) .badBlock
  | .scat _ a _ _ => need (blockOk 4 52 a) .badBlock
  | .mma _ a _ _ _ => need (blockOk 8 56 a) .badBlock
  | .mmas _ a _ _ _ => need (blockOk 8 56 a) .badBlock
  | .mloop _ a b _ _ => (need (blockOk 8 56 a) .badBlock).or (need (pairOk b) .badPair)
  | .accrd d _ => need (blockOk 8 48 d) .badBlock
  | .accwr a _ => need (blockOk 8 48 a) .badBlock
  | .accst a b => need (pairOk a && pairOk b) .badPair
  | .ired a _ f => (need (blockOk 8 32 a) .badBlock).or (need (decide (f.toNat < 4)) .badCode)
  | .nbrun _ a _ => need (blockOk 8 48 a) .badBlock
  | .land _ a b => need (pairOk a && pairOk b) .badPair
  | .launch _ a _ => need (pairOk a) .badPair
  | .iter d => need (pairOk d) .badPair
  | .xacq _ _ k => need (decide (k.toNat < 2)) .badCode
  | .xrel _ _ k => need (decide (k.toNat < 2)) .badCode
  | .gmig _ a _ => need (pairOk a) .badPair
  | .csrr d c => csrReadError d c
  | .csrw d c => csrWriteError d c
  | .tlbinv a _ => need (pairOk a) .badPair
  | .thset _ a b => need (pairOk a && pairOk b) .badPair
  | .append _ a _ => need (blockOk 8 48 a) .badBlock
  | .apseal _ a _ => need (pairOk a) .badPair
  | .apwait _ a _ _ => need (pairOk a) .badPair
  | .wsget d _ _ => need (blockOk 4 52 d) .badBlock
  | .wsset d _ b _ => need (blockOk 4 52 d && blockOk 4 52 b) .badBlock
  | _ => none

/-- Well formed: an encoded instruction that breaks no rule on its fields. -/
def Instr.wellFormed (i : Instr) : Bool := !i.isEvent && i.reject.isNone

end Sys2Proof
end

