-- ==== Sys2Proof/Decode.lean ====
section
/-!
DEFINITION. Sys2Proof/Decode.lean: the fields of an instruction word (R20), the decoder (R37, R39) and, after it, the encoder.
`decode` first reads the row of the opcode map a word belongs to (`decodeRow`: major, minor, reserved fields under R22), then applies
the checks of `Instr.reject` (R26, R33 and each entry's own), which depend on the fields alone. `encode` writes the words of R20.
-/

namespace Sys2Proof

/-- The major opcode, bits [31:25]. -/
def fMaj (w : W32) : BitVec 7 := w.extractLsb' 25 7
/-- Field d, bits [24:19]. -/
def fD (w : W32) : Reg := w.extractLsb' 19 6
/-- Field a (the base of M format), bits [18:13]. -/
def fA (w : W32) : Reg := w.extractLsb' 13 6
/-- Field b, bits [12:7]. -/
def fB (w : W32) : Reg := w.extractLsb' 7 6
/-- The minor of formats RRR, RRR-L, E and S, bits [6:0]. -/
def fMin (w : W32) : BitVec 7 := w.extractLsb' 0 7
/-- imm13, bits [12:0]. -/
def fI13 (w : W32) : BitVec 13 := w.extractLsb' 0 13
/-- imm19, bits [18:0]. -/
def fI19 (w : W32) : BitVec 19 := w.extractLsb' 0 19
/-- cond of B format, bits [24:22]. -/
def fCond (w : W32) : BitVec 3 := w.extractLsb' 22 3
/-- offset22 of B format, bits [21:0]. -/
def fOff22 (w : W32) : BitVec 22 := w.extractLsb' 0 22
/-- offset9 of M format, bits [12:4]. -/
def fOff9 (w : W32) : BitVec 9 := w.extractLsb' 4 9
/-- L, scope or count of M format, bits [3:0]. -/
def fLow4 (w : W32) : BitVec 4 := w.extractLsb' 0 4
/-- csr12 of S format, bits [18:7]. -/
def fCsr (w : W32) : BitVec 12 := w.extractLsb' 7 12

/-- A word of formats RRR, RRR-L and E (R20). -/
def wordRRR (maj : BitVec 7) (d a b : Reg) (m : BitVec 7) : W32 := (maj ++ d ++ a ++ b ++ m).cast (by decide)
/-- A word of format RRI (R20). -/
def wordRRI (maj : BitVec 7) (d a : Reg) (i : BitVec 13) : W32 := (maj ++ d ++ a ++ i).cast (by decide)
/-- A word of format RI (R20). -/
def wordRI (maj : BitVec 7) (d : Reg) (i : BitVec 19) : W32 := (maj ++ d ++ i).cast (by decide)
/-- A word of format B (R20). -/
def wordB (maj : BitVec 7) (c : BitVec 3) (o : BitVec 22) : W32 := (maj ++ c ++ o).cast (by decide)
/-- A word of format M (R20). -/
def wordM (maj : BitVec 7) (d a : Reg) (o : BitVec 9) (l : BitVec 4) : W32 := (maj ++ d ++ a ++ o ++ l).cast (by decide)
/-- A word of format S (R20). -/
def wordS (maj : BitVec 7) (d : Reg) (c : BitVec 12) (m : BitVec 7) : W32 := (maj ++ d ++ c ++ m).cast (by decide)

/-- An instruction if its reserved bits are all zero (R22). -/
def whenZero (reservedZero : Bool) (i : Instr) : Except DecodeError Instr :=
  if reservedZero then .ok i else .error .reservedField

/-- Major 0x01, format RRR: ADD, SUB, ADDX, MUL, MULH, MAD, DIV, REM, MIN, MAX, ABS, AND, OR, XOR, ANDN, ORN, SHL, SHR, ROT, POPC, CLZ, CTZ, BREV, BFX, BFI, SEL, CMP, MOV, LEA, DOT4, BPERM (R39). -/
def decode01 (w : W32) : Except DecodeError Instr :=
  if fMin w = 0x0#7 then .ok (.add (fD w) (fA w) (fB w))
  else
  if fMin w = 0x1#7 then .ok (.sub (fD w) (fA w) (fB w))
  else
  if fMin w = 0x2#7 then .ok (.addx (fD w) (fA w) (fB w))
  else
  if fMin w = 0x3#7 then .ok (.mul (fD w) (fA w) (fB w))
  else
  if fMin w = 0x4#7 then .ok (.mulh (fD w) (fA w) (fB w))
  else
  if fMin w = 0x5#7 then .ok (.mad (fD w) (fA w) (fB w))
  else
  if fMin w = 0x6#7 then .ok (.div (fD w) (fA w) (fB w))
  else
  if fMin w = 0x7#7 then .ok (.rem (fD w) (fA w) (fB w))
  else
  if fMin w = 0x8#7 then .ok (.min (fD w) (fA w) (fB w))
  else
  if fMin w = 0x9#7 then .ok (.max (fD w) (fA w) (fB w))
  else
  if fMin w = 0xA#7 then whenZero (decide (fB w = 0x0#6)) (.abs (fD w) (fA w))
  else
  if fMin w = 0x10#7 then .ok (.and (fD w) (fA w) (fB w))
  else
  if fMin w = 0x11#7 then .ok (.or (fD w) (fA w) (fB w))
  else
  if fMin w = 0x12#7 then .ok (.xor (fD w) (fA w) (fB w))
  else
  if fMin w = 0x13#7 then .ok (.andn (fD w) (fA w) (fB w))
  else
  if fMin w = 0x14#7 then .ok (.orn (fD w) (fA w) (fB w))
  else
  if fMin w = 0x18#7 then .ok (.shl (fD w) (fA w) (fB w))
  else
  if fMin w = 0x19#7 then .ok (.shr (fD w) (fA w) (fB w))
  else
  if fMin w = 0x1A#7 then .ok (.rot (fD w) (fA w) (fB w))
  else
  if fMin w = 0x20#7 then whenZero (decide (fB w = 0x0#6)) (.popc (fD w) (fA w))
  else
  if fMin w = 0x21#7 then whenZero (decide (fB w = 0x0#6)) (.clz (fD w) (fA w))
  else
  if fMin w = 0x22#7 then whenZero (decide (fB w = 0x0#6)) (.ctz (fD w) (fA w))
  else
  if fMin w = 0x23#7 then whenZero (decide (fB w = 0x0#6)) (.brev (fD w) (fA w))
  else
  if fMin w = 0x24#7 then .ok (.bfx (fD w) (fA w) (fB w))
  else
  if fMin w = 0x25#7 then .ok (.bfi (fD w) (fA w) (fB w))
  else
  if fMin w = 0x28#7 then .ok (.sel (fD w) (fA w) (fB w))
  else
  if fMin w = 0x29#7 then .ok (.cmp ((fD w).extractLsb' 3 3) ((fD w).extractLsb' 0 3) (fA w) (fB w))
  else
  if fMin w = 0x2A#7 then whenZero (decide (fB w = 0x0#6)) (.mov (fD w) (fA w))
  else
  if (fMin w).extractLsb' 2 5 = 0xB#5 then .ok (.lea (fD w) (fA w) (fB w) ((fMin w).extractLsb' 0 2))
  else
  if fMin w = 0x30#7 then .ok (.dot4 (fD w) (fA w) (fB w))
  else
  if fMin w = 0x31#7 then .ok (.bperm (fD w) (fA w) (fB w))
  else
  .error (.undefinedMinor 0x1#7)

/-- Major 0x02, format RRI: ADDI (R39). -/
def decode02 (w : W32) : Except DecodeError Instr :=
  .ok (.addi (fD w) (fA w) (fI13 w))

/-- Major 0x03, format RRI: ANDI (R39). -/
def decode03 (w : W32) : Except DecodeError Instr :=
  .ok (.andi (fD w) (fA w) (fI13 w))

/-- Major 0x04, format RRI: ORI (R39). -/
def decode04 (w : W32) : Except DecodeError Instr :=
  .ok (.ori (fD w) (fA w) (fI13 w))

/-- Major 0x05, format RRI: XORI (R39). -/
def decode05 (w : W32) : Except DecodeError Instr :=
  .ok (.xori (fD w) (fA w) (fI13 w))

/-- Major 0x06, format RRI: SHLI (R39). -/
def decode06 (w : W32) : Except DecodeError Instr :=
  whenZero (decide ((fI13 w).extractLsb' 6 7 = 0x0#7)) (.shli (fD w) (fA w) ((fI13 w).extractLsb' 0 6))

/-- Major 0x07, format RRI: SHRI (R39). -/
def decode07 (w : W32) : Except DecodeError Instr :=
  whenZero (decide ((fI13 w).extractLsb' 6 7 = 0x0#7)) (.shri (fD w) (fA w) ((fI13 w).extractLsb' 0 6))

/-- Major 0x08, format RRI: CMPI (R39). -/
def decode08 (w : W32) : Except DecodeError Instr :=
  .ok (.cmpi ((fD w).extractLsb' 3 3) ((fD w).extractLsb' 0 3) (fA w) (fI13 w))

/-- Major 0x09, format RI: MOVI (R39). -/
def decode09 (w : W32) : Except DecodeError Instr :=
  .ok (.movi (fD w) (fI19 w))

/-- Major 0x0A, format RI: IHI (R39). -/
def decode0A (w : W32) : Except DecodeError Instr :=
  .ok (.ihi (fD w) (fI19 w))

/-- Major 0x20, format RRR: FADD, FSUB, FMUL, FFMA, FMIN, FMAX, FABS, FNEG, FCMP, FCLASS, FRND, FSCALE (R39). -/
def decode20 (w : W32) : Except DecodeError Instr :=
  if fMin w = 0x0#7 then .ok (.fadd (fD w) (fA w) (fB w))
  else
  if fMin w = 0x1#7 then .ok (.fsub (fD w) (fA w) (fB w))
  else
  if fMin w = 0x2#7 then .ok (.fmul (fD w) (fA w) (fB w))
  else
  if fMin w = 0x3#7 then .ok (.ffma (fD w) (fA w) (fB w))
  else
  if fMin w = 0x4#7 then .ok (.fmin (fD w) (fA w) (fB w))
  else
  if fMin w = 0x5#7 then .ok (.fmax (fD w) (fA w) (fB w))
  else
  if fMin w = 0x6#7 then whenZero (decide (fB w = 0x0#6)) (.fabs (fD w) (fA w))
  else
  if fMin w = 0x7#7 then whenZero (decide (fB w = 0x0#6)) (.fneg (fD w) (fA w))
  else
  if fMin w = 0x8#7 then .ok (.fcmp ((fD w).extractLsb' 3 3) ((fD w).extractLsb' 0 3) (fA w) (fB w))
  else
  if fMin w = 0x9#7 then whenZero (decide (fB w = 0x0#6)) (.fclass (fD w) (fA w))
  else
  if fMin w = 0xA#7 then whenZero (decide (fB w = 0x0#6)) (.frnd (fD w) (fA w))
  else
  if fMin w = 0xB#7 then .ok (.fscale (fD w) (fA w) (fB w))
  else
  .error (.undefinedMinor 0x20#7)

/-- Major 0x21, format RRR: FRCP, FRSQ, FSQRT, FEXP2, FLOG2, FSIN, FCOS (R39). -/
def decode21 (w : W32) : Except DecodeError Instr :=
  if (fMin w).extractLsb' 0 3 = 0x0#3 then whenZero (decide (fB w = 0x0#6)) (.frcp (fD w) (fA w) ((fMin w).extractLsb' 3 4))
  else
  if (fMin w).extractLsb' 0 3 = 0x1#3 then whenZero (decide (fB w = 0x0#6)) (.frsq (fD w) (fA w) ((fMin w).extractLsb' 3 4))
  else
  if (fMin w).extractLsb' 0 3 = 0x2#3 then whenZero (decide (fB w = 0x0#6)) (.fsqrt (fD w) (fA w) ((fMin w).extractLsb' 3 4))
  else
  if (fMin w).extractLsb' 0 3 = 0x3#3 then whenZero (decide (fB w = 0x0#6)) (.fexp2 (fD w) (fA w) ((fMin w).extractLsb' 3 4))
  else
  if (fMin w).extractLsb' 0 3 = 0x4#3 then whenZero (decide (fB w = 0x0#6)) (.flog2 (fD w) (fA w) ((fMin w).extractLsb' 3 4))
  else
  if (fMin w).extractLsb' 0 3 = 0x5#3 then whenZero (decide (fB w = 0x0#6)) (.fsin (fD w) (fA w) ((fMin w).extractLsb' 3 4))
  else
  if (fMin w).extractLsb' 0 3 = 0x6#3 then whenZero (decide (fB w = 0x0#6)) (.fcos (fD w) (fA w) ((fMin w).extractLsb' 3 4))
  else
  .error (.undefinedMinor 0x21#7)

/-- Major 0x22, format RRR: CVT (R39). -/
def decode22 (w : W32) : Except DecodeError Instr :=
  if (fMin w).extractLsb' 5 2 = 0x0#2 then whenZero (decide (fB w = 0x0#6)) (.cvt (fD w) (fA w) ((fMin w).extractLsb' 0 5))
  else
  .error (.undefinedMinor 0x22#7)

/-- Major 0x23, format RRR: CVTDX (R39). -/
def decode23 (w : W32) : Except DecodeError Instr :=
  if (fMin w).extractLsb' 2 5 = 0x0#5 then whenZero (decide (fB w = 0x0#6)) (.cvtdx (fD w) (fA w) ((fMin w).extractLsb' 0 2))
  else
  .error (.undefinedMinor 0x23#7)

/-- Major 0x24, format RRR: CVTMX (R39). -/
def decode24 (w : W32) : Except DecodeError Instr :=
  if (fMin w).extractLsb' 3 4 = 0x0#4 then whenZero (decide (fB w = 0x0#6)) (.cvtmx (fD w) (fA w) ((fMin w).extractLsb' 0 3))
  else
  .error (.undefinedMinor 0x24#7)

/-- Major 0x30, format RRR: QSWAP_H, QSWAP_V, QSWAP_D, QBCAST, SHFL, SHFLU, SHFLD, SHFLX, VOTE_ALL, VOTE_ANY, VOTE_BALLOT, GSCAN_INCL, GSCAN_EXCL, GRED, MATCH (R39). -/
def decode30 (w : W32) : Except DecodeError Instr :=
  if fMin w = 0x0#7 then whenZero (decide (fB w = 0x0#6)) (.qswapH (fD w) (fA w))
  else
  if fMin w = 0x1#7 then whenZero (decide (fB w = 0x0#6)) (.qswapV (fD w) (fA w))
  else
  if fMin w = 0x2#7 then whenZero (decide (fB w = 0x0#6)) (.qswapD (fD w) (fA w))
  else
  if (fMin w).extractLsb' 2 5 = 0x1#5 then whenZero (decide (fB w = 0x0#6)) (.qbcast (fD w) (fA w) ((fMin w).extractLsb' 0 2))
  else
  if fMin w = 0x8#7 then .ok (.shfl (fD w) (fA w) (fB w))
  else
  if fMin w = 0x9#7 then .ok (.shflu (fD w) (fA w) (fB w))
  else
  if fMin w = 0xA#7 then .ok (.shfld (fD w) (fA w) (fB w))
  else
  if fMin w = 0xB#7 then .ok (.shflx (fD w) (fA w) (fB w))
  else
  if fMin w = 0x10#7 then whenZero (decide ((fD w).extractLsb' 3 3 = 0x0#3) && decide ((fA w).extractLsb' 3 3 = 0x0#3) && decide (fB w = 0x0#6)) (.voteAll ((fD w).extractLsb' 0 3) ((fA w).extractLsb' 0 3))
  else
  if fMin w = 0x11#7 then whenZero (decide ((fD w).extractLsb' 3 3 = 0x0#3) && decide ((fA w).extractLsb' 3 3 = 0x0#3) && decide (fB w = 0x0#6)) (.voteAny ((fD w).extractLsb' 0 3) ((fA w).extractLsb' 0 3))
  else
  if fMin w = 0x12#7 then whenZero (decide ((fA w).extractLsb' 3 3 = 0x0#3) && decide (fB w = 0x0#6)) (.voteBallot (fD w) ((fA w).extractLsb' 0 3))
  else
  if (fMin w).extractLsb' 3 4 = 0x4#4 then whenZero (decide (fB w = 0x0#6)) (.gscanIncl (fD w) (fA w) ((fMin w).extractLsb' 0 3))
  else
  if (fMin w).extractLsb' 3 4 = 0x5#4 then whenZero (decide (fB w = 0x0#6)) (.gscanExcl (fD w) (fA w) ((fMin w).extractLsb' 0 3))
  else
  if (fMin w).extractLsb' 3 4 = 0x6#4 then whenZero (decide (fB w = 0x0#6)) (.gred (fD w) (fA w) ((fMin w).extractLsb' 0 3))
  else
  if fMin w = 0x38#7 then whenZero (decide (fB w = 0x0#6)) (.matchLanes (fD w) (fA w))
  else
  .error (.undefinedMinor 0x30#7)

/-- Major 0x31, format RRR: PLOG (R39). -/
def decode31 (w : W32) : Except DecodeError Instr :=
  if (fMin w).extractLsb' 4 3 = 0x0#3 then whenZero (decide ((fD w).extractLsb' 3 3 = 0x0#3) && decide ((fA w).extractLsb' 3 3 = 0x0#3) && decide ((fB w).extractLsb' 3 3 = 0x0#3)) (.plog ((fD w).extractLsb' 0 3) ((fA w).extractLsb' 0 3) ((fB w).extractLsb' 0 3) ((fMin w).extractLsb' 0 4))
  else
  .error (.undefinedMinor 0x31#7)

/-- Major 0x38, format B: BR (R39). -/
def decode38 (w : W32) : Except DecodeError Instr :=
  whenZero (decide (fCond w = 0x0#3)) (.br (fOff22 w))

/-- Major 0x39, format B: BRC (R39). -/
def decode39 (w : W32) : Except DecodeError Instr :=
  .ok (.brc (fCond w) (fOff22 w))

/-- Major 0x3A, format B: CALL (R39). -/
def decode3A (w : W32) : Except DecodeError Instr :=
  .ok (.call (fCond w) (fOff22 w))

/-- Major 0x3B, format RRR: BRX, RET, EXIT, NOP, YIELD, CALLX (R39). -/
def decode3B (w : W32) : Except DecodeError Instr :=
  if fMin w = 0x0#7 then whenZero (decide (fD w = 0x0#6) && decide (fB w = 0x0#6)) (.brx (fA w))
  else
  if fMin w = 0x2#7 then whenZero (decide (fD w = 0x0#6) && decide (fA w = 0x0#6) && decide (fB w = 0x0#6)) (.ret)
  else
  if fMin w = 0x3#7 then whenZero (decide (fD w = 0x0#6) && decide (fA w = 0x0#6) && decide (fB w = 0x0#6)) (.exit)
  else
  if fMin w = 0x4#7 then whenZero (decide (fD w = 0x0#6) && decide (fA w = 0x0#6) && decide (fB w = 0x0#6)) (.nop)
  else
  if fMin w = 0x5#7 then whenZero (decide (fB w = 0x0#6)) (.yield (fD w) (fA w))
  else
  if (fMin w).extractLsb' 3 4 = 0x1#4 then whenZero (decide (fD w = 0x0#6) && decide (fB w = 0x0#6)) (.callx (fA w) ((fMin w).extractLsb' 0 3))
  else
  .error (.undefinedMinor 0x3B#7)

/-- Major 0x3C, format RI: SETM (R39). -/
def decode3C (w : W32) : Except DecodeError Instr :=
  whenZero (decide ((fD w).extractLsb' 5 1 = 0x0#1) && decide ((fI19 w).extractLsb' 14 5 = 0x0#5)) (.setm ((fD w).extractLsb' 0 5) ((fI19 w).extractLsb' 0 14))

/-- Major 0x3D, format RRR: SETM_R, GETM, PUSHM, POPM (R39). -/
def decode3D (w : W32) : Except DecodeError Instr :=
  if fMin w = 0x0#7 then whenZero (decide ((fD w).extractLsb' 5 1 = 0x0#1) && decide (fB w = 0x0#6)) (.setmR ((fD w).extractLsb' 0 5) (fA w))
  else
  if fMin w = 0x1#7 then whenZero (decide (fA w = 0x0#6) && decide (fB w = 0x0#6)) (.getm (fD w))
  else
  if fMin w = 0x2#7 then whenZero (decide (fD w = 0x0#6) && decide (fA w = 0x0#6) && decide (fB w = 0x0#6)) (.pushm)
  else
  if fMin w = 0x3#7 then whenZero (decide (fD w = 0x0#6) && decide (fA w = 0x0#6) && decide (fB w = 0x0#6)) (.popm)
  else
  .error (.undefinedMinor 0x3D#7)

/-- Major 0x40, format M: LD (R39). -/
def decode40 (w : W32) : Except DecodeError Instr :=
  .ok (.ld (fD w) (fA w) (fOff9 w) (fLow4 w))

/-- Major 0x41, format M: ST (R39). -/
def decode41 (w : W32) : Except DecodeError Instr :=
  .ok (.st (fD w) (fA w) (fOff9 w) (fLow4 w))

/-- Major 0x42, format M: LD_STR (R39). -/
def decode42 (w : W32) : Except DecodeError Instr :=
  .ok (.ldStr (fD w) (fA w) (fOff9 w) (fLow4 w))

/-- Major 0x43, format M: ST_STR (R39). -/
def decode43 (w : W32) : Except DecodeError Instr :=
  .ok (.stStr (fD w) (fA w) (fOff9 w) (fLow4 w))

/-- Major 0x44, format M: LD_ACQ (R39). -/
def decode44 (w : W32) : Except DecodeError Instr :=
  .ok (.ldAcq (fD w) (fA w) (fOff9 w) (fLow4 w))

/-- Major 0x45, format M: ST_REL (R39). -/
def decode45 (w : W32) : Except DecodeError Instr :=
  .ok (.stRel (fD w) (fA w) (fOff9 w) (fLow4 w))

/-- Major 0x46, format M: LDH (R39). -/
def decode46 (w : W32) : Except DecodeError Instr :=
  .ok (.ldh (fD w) (fA w) (fOff9 w) (fLow4 w))

/-- Major 0x47, format M: PREF (R39). -/
def decode47 (w : W32) : Except DecodeError Instr :=
  whenZero (decide ((fD w).extractLsb' 2 4 = 0x0#4) && decide (fLow4 w = 0x0#4)) (.pref ((fD w).extractLsb' 0 2) (fA w) (fOff9 w))

/-- Major 0x48, format M: LDS (R39). -/
def decode48 (w : W32) : Except DecodeError Instr :=
  .ok (.lds (fD w) (fA w) (fOff9 w) (fLow4 w))

/-- Major 0x49, format M: STS (R39). -/
def decode49 (w : W32) : Except DecodeError Instr :=
  .ok (.sts (fD w) (fA w) (fOff9 w) (fLow4 w))

/-- Major 0x4A, format M: LDC (R39). -/
def decode4A (w : W32) : Except DecodeError Instr :=
  .ok (.ldc (fD w) (fA w) (fOff9 w) (fLow4 w))

/-- Major 0x4B, format M: STC (R39). -/
def decode4B (w : W32) : Except DecodeError Instr :=
  .ok (.stc (fD w) (fA w) (fOff9 w) (fLow4 w))

/-- Major 0x4C, format M: LDX (R39). -/
def decode4C (w : W32) : Except DecodeError Instr :=
  .ok (.ldx (fD w) (fA w) (fOff9 w) (fLow4 w))

/-- Major 0x4D, format M: STX (R39). -/
def decode4D (w : W32) : Except DecodeError Instr :=
  .ok (.stx (fD w) (fA w) (fOff9 w) (fLow4 w))

/-- Major 0x4E, format M: LDL (R39). -/
def decode4E (w : W32) : Except DecodeError Instr :=
  .ok (.ldl (fD w) (fA w) (fOff9 w) (fLow4 w))

/-- Major 0x4F, format M: STL (R39). -/
def decode4F (w : W32) : Except DecodeError Instr :=
  .ok (.stl (fD w) (fA w) (fOff9 w) (fLow4 w))

/-- Major 0x50, format RRR: AMO (R39). -/
def decode50 (w : W32) : Except DecodeError Instr :=
  .ok (.amo (fD w) (fA w) (fB w) ((fMin w).extractLsb' 3 4) ((fMin w).extractLsb' 0 3))

/-- Major 0x51, format RRR: CAS (R39). -/
def decode51 (w : W32) : Except DecodeError Instr :=
  if (fMin w).extractLsb' 0 3 = 0x0#3 then .ok (.cas (fD w) (fA w) (fB w) ((fMin w).extractLsb' 3 4))
  else
  .error (.undefinedMinor 0x51#7)

/-- Major 0x52, format RRR: AMOS (R39). -/
def decode52 (w : W32) : Except DecodeError Instr :=
  .ok (.amos (fD w) (fA w) (fB w) ((fMin w).extractLsb' 3 4) ((fMin w).extractLsb' 0 3))

/-- Major 0x53, format RRR: RED (R39). -/
def decode53 (w : W32) : Except DecodeError Instr :=
  whenZero (decide (fD w = 0x0#6)) (.red (fA w) (fB w) ((fMin w).extractLsb' 3 4) ((fMin w).extractLsb' 0 3))

/-- Major 0x54, format RI: FENCE (R39). -/
def decode54 (w : W32) : Except DecodeError Instr :=
  whenZero (decide (fD w = 0x0#6) && decide ((fI19 w).extractLsb' 16 3 = 0x0#3)) (.fence ((fI19 w).extractLsb' 12 4) ((fI19 w).extractLsb' 6 6) ((fI19 w).extractLsb' 0 6))

/-- Major 0x55, format RI: XFENCE (R39). -/
def decode55 (w : W32) : Except DecodeError Instr :=
  whenZero (decide (fD w = 0x0#6) && decide ((fI19 w).extractLsb' 12 7 = 0x0#7)) (.xfence ((fI19 w).extractLsb' 8 4) ((fI19 w).extractLsb' 4 4) ((fI19 w).extractLsb' 0 4))

/-- Major 0x56, format RI: PFENCE, ICINV (R39). -/
def decode56 (w : W32) : Except DecodeError Instr :=
  if fD w = 0x0#6 then whenZero (decide ((fI19 w).extractLsb' 2 17 = 0x0#17)) (.pfence ((fI19 w).extractLsb' 0 2))
  else
  if fD w = 0x1#6 then whenZero (decide ((fI19 w).extractLsb' 4 15 = 0x0#15)) (.icinv ((fI19 w).extractLsb' 0 4))
  else
  .error (.undefinedMinor 0x56#7)

/-- Major 0x57, format RRR: LDFE, LDFE_E, STFE, FESET_E, FESET_F, FEQ (R39). -/
def decode57 (w : W32) : Except DecodeError Instr :=
  if fMin w = 0x0#7 then whenZero (decide (fB w = 0x0#6)) (.ldfe (fD w) (fA w))
  else
  if fMin w = 0x1#7 then whenZero (decide (fB w = 0x0#6)) (.ldfeE (fD w) (fA w))
  else
  if fMin w = 0x2#7 then whenZero (decide (fD w = 0x0#6)) (.stfe (fA w) (fB w))
  else
  if fMin w = 0x3#7 then whenZero (decide (fD w = 0x0#6) && decide (fB w = 0x0#6)) (.fesetE (fA w))
  else
  if fMin w = 0x4#7 then whenZero (decide (fD w = 0x0#6) && decide (fB w = 0x0#6)) (.fesetF (fA w))
  else
  if fMin w = 0x5#7 then whenZero (decide (fB w = 0x0#6)) (.feq (fD w) (fA w))
  else
  .error (.undefinedMinor 0x57#7)

/-- Major 0x58, format RRR: TBINIT, TBARR, TBWAIT, TBRET (R39). -/
def decode58 (w : W32) : Except DecodeError Instr :=
  if fMin w = 0x0#7 then whenZero (decide (fD w = 0x0#6)) (.tbinit (fA w) (fB w))
  else
  if fMin w = 0x1#7 then .ok (.tbarr (fD w) (fA w) (fB w))
  else
  if fMin w = 0x2#7 then .ok (.tbwait (fD w) (fA w) (fB w))
  else
  if fMin w = 0x3#7 then whenZero (decide (fD w = 0x0#6) && decide (fB w = 0x0#6)) (.tbret (fA w))
  else
  .error (.undefinedMinor 0x58#7)

/-- Major 0x59, format RRR: CPY_TILE, CPY_LIN, CPY_MEM (R39). -/
def decode59 (w : W32) : Except DecodeError Instr :=
  if (fMin w).extractLsb' 0 3 = 0x0#3 then .ok (.cpyTile (fD w) (fA w) (fB w) ((fMin w).extractLsb' 3 4))
  else
  if (fMin w).extractLsb' 0 3 = 0x1#3 then .ok (.cpyLin (fD w) (fA w) (fB w) ((fMin w).extractLsb' 3 4))
  else
  if (fMin w).extractLsb' 0 3 = 0x2#3 then .ok (.cpyMem (fD w) (fA w) (fB w) ((fMin w).extractLsb' 3 4))
  else
  .error (.undefinedMinor 0x59#7)

/-- Major 0x5A, format RRR: CPYO_TILE, CPYO_LIN (R39). -/
def decode5A (w : W32) : Except DecodeError Instr :=
  if (fMin w).extractLsb' 0 3 = 0x0#3 then .ok (.cpyoTile (fD w) (fA w) (fB w) ((fMin w).extractLsb' 3 4))
  else
  if (fMin w).extractLsb' 0 3 = 0x1#3 then .ok (.cpyoLin (fD w) (fA w) (fB w) ((fMin w).extractLsb' 3 4))
  else
  .error (.undefinedMinor 0x5A#7)

/-- Major 0x5B, format RRR: GATH (R39). -/
def decode5B (w : W32) : Except DecodeError Instr :=
  if (fMin w).extractLsb' 0 3 = 0x0#3 then .ok (.gath (fD w) (fA w) (fB w) ((fMin w).extractLsb' 3 4))
  else
  .error (.undefinedMinor 0x5B#7)

/-- Major 0x5C, format RRR: SCAT (R39). -/
def decode5C (w : W32) : Except DecodeError Instr :=
  if (fMin w).extractLsb' 0 3 = 0x0#3 then .ok (.scat (fD w) (fA w) (fB w) ((fMin w).extractLsb' 3 4))
  else
  .error (.undefinedMinor 0x5C#7)

/-- Major 0x5D, format RRR: WALK_EXACT, WALK_FLOOR (R39). -/
def decode5D (w : W32) : Except DecodeError Instr :=
  if (fMin w).extractLsb' 0 3 = 0x0#3 then .ok (.walkExact (fD w) (fA w) (fB w) ((fMin w).extractLsb' 3 4))
  else
  if (fMin w).extractLsb' 0 3 = 0x1#3 then .ok (.walkFloor (fD w) (fA w) (fB w) ((fMin w).extractLsb' 3 4))
  else
  .error (.undefinedMinor 0x5D#7)

/-- Major 0x60, format RRR: OBRES (R39). -/
def decode60 (w : W32) : Except DecodeError Instr :=
  if fMin w = 0x0#7 then .ok (.obres (fD w) (fA w) (fB w))
  else
  .error (.undefinedMinor 0x60#7)

/-- Major 0x61, format RRR: OBREL (R39). -/
def decode61 (w : W32) : Except DecodeError Instr :=
  if fMin w = 0x0#7 then whenZero (decide (fD w = 0x0#6) && decide (fB w = 0x0#6)) (.obrel (fA w))
  else
  .error (.undefinedMinor 0x61#7)

/-- Major 0x62, format RRR: MMA (R39). -/
def decode62 (w : W32) : Except DecodeError Instr :=
  if (fMin w).extractLsb' 1 2 = 0x0#2 then whenZero (decide ((fD w).extractLsb' 4 2 = 0x0#2)) (.mma ((fD w).extractLsb' 0 4) (fA w) (fB w) ((fMin w).extractLsb' 3 4) ((fMin w).extractLsb' 0 1))
  else
  .error (.undefinedMinor 0x62#7)

/-- Major 0x63, format RRR: MMAS (R39). -/
def decode63 (w : W32) : Except DecodeError Instr :=
  if (fMin w).extractLsb' 1 2 = 0x0#2 then whenZero (decide ((fD w).extractLsb' 4 2 = 0x0#2)) (.mmas ((fD w).extractLsb' 0 4) (fA w) (fB w) ((fMin w).extractLsb' 3 4) ((fMin w).extractLsb' 0 1))
  else
  .error (.undefinedMinor 0x63#7)

/-- Major 0x64, format RRR: MLOOP (R39). -/
def decode64 (w : W32) : Except DecodeError Instr :=
  if (fMin w).extractLsb' 1 2 = 0x0#2 then whenZero (decide ((fD w).extractLsb' 4 2 = 0x0#2)) (.mloop ((fD w).extractLsb' 0 4) (fA w) (fB w) ((fMin w).extractLsb' 3 4) ((fMin w).extractLsb' 0 1))
  else
  .error (.undefinedMinor 0x64#7)

/-- Major 0x65, format RRR: MBATCH (R39). -/
def decode65 (w : W32) : Except DecodeError Instr :=
  if fMin w = 0x0#7 then whenZero (decide (fA w = 0x0#6) && decide (fB w = 0x0#6)) (.mbatch (fD w))
  else
  .error (.undefinedMinor 0x65#7)

/-- Major 0x66, format RRR: MWAIT (R39). -/
def decode66 (w : W32) : Except DecodeError Instr :=
  if fMin w = 0x0#7 then whenZero (decide (fB w = 0x0#6)) (.mwait (fD w) (fA w))
  else
  .error (.undefinedMinor 0x66#7)

/-- Major 0x67, format RRR: ACCRD (R39). -/
def decode67 (w : W32) : Except DecodeError Instr :=
  if fMin w = 0x0#7 then whenZero (decide (fA w = 0x0#6)) (.accrd (fD w) (fB w))
  else
  .error (.undefinedMinor 0x67#7)

/-- Major 0x68, format RRR: ACCWR (R39). -/
def decode68 (w : W32) : Except DecodeError Instr :=
  if fMin w = 0x0#7 then whenZero (decide (fD w = 0x0#6)) (.accwr (fA w) (fB w))
  else
  .error (.undefinedMinor 0x68#7)

/-- Major 0x69, format RRR: ACCST (R39). -/
def decode69 (w : W32) : Except DecodeError Instr :=
  if fMin w = 0x0#7 then whenZero (decide (fD w = 0x0#6)) (.accst (fA w) (fB w))
  else
  .error (.undefinedMinor 0x69#7)

/-- Major 0x6A, format RRR: ACCZ (R39). -/
def decode6A (w : W32) : Except DecodeError Instr :=
  if fMin w = 0x0#7 then whenZero (decide ((fD w).extractLsb' 4 2 = 0x0#2) && decide (fA w = 0x0#6) && decide (fB w = 0x0#6)) (.accz ((fD w).extractLsb' 0 4))
  else
  .error (.undefinedMinor 0x6A#7)

/-- Major 0x6B, format RRR: MCOMP (R39). -/
def decode6B (w : W32) : Except DecodeError Instr :=
  if (fMin w).extractLsb' 0 3 = 0x0#3 then whenZero (decide (fB w = 0x0#6)) (.mcomp (fD w) (fA w) ((fMin w).extractLsb' 3 4))
  else
  .error (.undefinedMinor 0x6B#7)

/-- Major 0x70, format RRR: IRED (R39). -/
def decode70 (w : W32) : Except DecodeError Instr :=
  whenZero (decide (fD w = 0x0#6) && decide (fB w = 0x0#6)) (.ired (fA w) ((fMin w).extractLsb' 3 4) ((fMin w).extractLsb' 0 3))

/-- Major 0x71, format RRR: NBRUN (R39). -/
def decode71 (w : W32) : Except DecodeError Instr :=
  if (fMin w).extractLsb' 0 3 = 0x0#3 then whenZero (decide (fB w = 0x0#6)) (.nbrun (fD w) (fA w) ((fMin w).extractLsb' 3 4))
  else
  .error (.undefinedMinor 0x71#7)

/-- Major 0x72, format RRR: NBWAIT (R39). -/
def decode72 (w : W32) : Except DecodeError Instr :=
  if fMin w = 0x0#7 then whenZero (decide (fB w = 0x0#6)) (.nbwait (fD w) (fA w))
  else
  .error (.undefinedMinor 0x72#7)

/-- Major 0x73, format RRR: NBQ, LAND (R39). -/
def decode73 (w : W32) : Except DecodeError Instr :=
  if fMin w = 0x0#7 then whenZero (decide (fB w = 0x0#6)) (.nbq (fD w) (fA w))
  else
  if fMin w = 0x1#7 then .ok (.land (fD w) (fA w) (fB w))
  else
  .error (.undefinedMinor 0x73#7)

/-- Major 0x74, format RRR: LAUNCH, LWAIT, LQUERY (R39). -/
def decode74 (w : W32) : Except DecodeError Instr :=
  if (fMin w).extractLsb' 0 3 = 0x0#3 then whenZero (decide (fB w = 0x0#6)) (.launch (fD w) (fA w) ((fMin w).extractLsb' 3 4))
  else
  if (fMin w).extractLsb' 0 3 = 0x1#3 then whenZero (decide (fB w = 0x0#6)) (.lwait (fD w) (fA w) ((fMin w).extractLsb' 3 4))
  else
  if (fMin w).extractLsb' 0 3 = 0x2#3 then whenZero (decide (fB w = 0x0#6)) (.lquery (fD w) (fA w) ((fMin w).extractLsb' 3 4))
  else
  .error (.undefinedMinor 0x74#7)

/-- Major 0x75, format RRR: ITER, FIXUP (R39). -/
def decode75 (w : W32) : Except DecodeError Instr :=
  if fMin w = 0x0#7 then whenZero (decide (fA w = 0x0#6) && decide (fB w = 0x0#6)) (.iter (fD w))
  else
  if fMin w = 0x1#7 then whenZero (decide (fB w = 0x0#6)) (.fixup (fD w) (fA w))
  else
  .error (.undefinedMinor 0x75#7)

/-- Major 0x76, format RRR: XACQ, XREL (R39). -/
def decode76 (w : W32) : Except DecodeError Instr :=
  if fMin w = 0x0#7 then .ok (.xacq (fD w) (fA w) (fB w))
  else
  if fMin w = 0x1#7 then .ok (.xrel (fD w) (fA w) (fB w))
  else
  .error (.undefinedMinor 0x76#7)

/-- Major 0x77, format RRR: GMIG (R39). -/
def decode77 (w : W32) : Except DecodeError Instr :=
  if (fMin w).extractLsb' 0 3 = 0x0#3 then whenZero (decide (fB w = 0x0#6)) (.gmig (fD w) (fA w) ((fMin w).extractLsb' 3 4))
  else
  .error (.undefinedMinor 0x77#7)

/-- Major 0x78, format S: CSRR, CSRW, TRAP, TRET (R39). -/
def decode78 (w : W32) : Except DecodeError Instr :=
  if fMin w = 0x0#7 then .ok (.csrr (fD w) (fCsr w))
  else
  if fMin w = 0x1#7 then .ok (.csrw (fD w) (fCsr w))
  else
  if fMin w = 0x2#7 then whenZero (decide (fD w = 0x0#6)) (.trap (fCsr w))
  else
  if fMin w = 0x3#7 then whenZero (decide (fD w = 0x0#6) && decide (fCsr w = 0x0#12)) (.tret)
  else
  .error (.undefinedMinor 0x78#7)

/-- Major 0x79, format RRR: TLBINV, CTXSTART, CTXKILL, RCFENCE, ERES, DRAIN, HALT (R39). -/
def decode79 (w : W32) : Except DecodeError Instr :=
  if fMin w = 0x0#7 then whenZero (decide (fD w = 0x0#6)) (.tlbinv (fA w) (fB w))
  else
  if fMin w = 0x1#7 then whenZero (decide (fB w = 0x0#6)) (.ctxstart (fD w) (fA w))
  else
  if fMin w = 0x2#7 then whenZero (decide (fB w = 0x0#6)) (.ctxkill (fD w) (fA w))
  else
  if fMin w = 0x3#7 then whenZero (decide (fB w = 0x0#6)) (.rcfence (fD w) (fA w))
  else
  if fMin w = 0x4#7 then .ok (.eres (fD w) (fA w) (fB w))
  else
  if fMin w = 0x5#7 then whenZero (decide (fB w = 0x0#6)) (.drain (fD w) (fA w))
  else
  if fMin w = 0x6#7 then whenZero (decide (fD w = 0x0#6) && decide (fA w = 0x0#6) && decide (fB w = 0x0#6)) (.halt)
  else
  .error (.undefinedMinor 0x79#7)

/-- Major 0x7A, format RRR: THSET, THCLR (R39). -/
def decode7A (w : W32) : Except DecodeError Instr :=
  if fMin w = 0x0#7 then .ok (.thset (fD w) (fA w) (fB w))
  else
  if fMin w = 0x1#7 then whenZero (decide (fB w = 0x0#6)) (.thclr (fD w) (fA w))
  else
  .error (.undefinedMinor 0x7A#7)

/-- Major 0x7B, format RRR: APPEND, APSEAL, APWAIT (R39). -/
def decode7B (w : W32) : Except DecodeError Instr :=
  if (fMin w).extractLsb' 0 3 = 0x0#3 then whenZero (decide (fB w = 0x0#6)) (.append (fD w) (fA w) ((fMin w).extractLsb' 3 4))
  else
  if (fMin w).extractLsb' 0 3 = 0x1#3 then whenZero (decide (fB w = 0x0#6)) (.apseal (fD w) (fA w) ((fMin w).extractLsb' 3 4))
  else
  if (fMin w).extractLsb' 0 3 = 0x2#3 then .ok (.apwait (fD w) (fA w) (fB w) ((fMin w).extractLsb' 3 4))
  else
  .error (.undefinedMinor 0x7B#7)

/-- Major 0x7C, format RRR: WSGET, WSREL, WSSET (R39). -/
def decode7C (w : W32) : Except DecodeError Instr :=
  if (fMin w).extractLsb' 0 3 = 0x0#3 then whenZero (decide (fB w = 0x0#6)) (.wsget (fD w) (fA w) ((fMin w).extractLsb' 3 4))
  else
  if (fMin w).extractLsb' 0 3 = 0x1#3 then whenZero (decide (fD w = 0x0#6)) (.wsrel (fA w) (fB w) ((fMin w).extractLsb' 3 4))
  else
  if (fMin w).extractLsb' 0 3 = 0x2#3 then .ok (.wsset (fD w) (fA w) (fB w) ((fMin w).extractLsb' 3 4))
  else
  .error (.undefinedMinor 0x7C#7)

/-- Major 0x7D, format RRR: CKCLOSE, SHSEAL (R39). -/
def decode7D (w : W32) : Except DecodeError Instr :=
  if fMin w = 0x0#7 then .ok (.ckclose (fD w) (fA w) (fB w))
  else
  if fMin w = 0x1#7 then whenZero (decide (fA w = 0x0#6) && decide (fB w = 0x0#6)) (.shseal (fD w))
  else
  .error (.undefinedMinor 0x7D#7)

/-- The row of the opcode map that a word belongs to, with its fields (R39). -/
def decodeRow (w : W32) : Except DecodeError Instr :=
  match (fMaj w).toNat with
  | 0x01 => decode01 w
  | 0x02 => decode02 w
  | 0x03 => decode03 w
  | 0x04 => decode04 w
  | 0x05 => decode05 w
  | 0x06 => decode06 w
  | 0x07 => decode07 w
  | 0x08 => decode08 w
  | 0x09 => decode09 w
  | 0x0A => decode0A w
  | 0x20 => decode20 w
  | 0x21 => decode21 w
  | 0x22 => decode22 w
  | 0x23 => decode23 w
  | 0x24 => decode24 w
  | 0x30 => decode30 w
  | 0x31 => decode31 w
  | 0x38 => decode38 w
  | 0x39 => decode39 w
  | 0x3A => decode3A w
  | 0x3B => decode3B w
  | 0x3C => decode3C w
  | 0x3D => decode3D w
  | 0x40 => decode40 w
  | 0x41 => decode41 w
  | 0x42 => decode42 w
  | 0x43 => decode43 w
  | 0x44 => decode44 w
  | 0x45 => decode45 w
  | 0x46 => decode46 w
  | 0x47 => decode47 w
  | 0x48 => decode48 w
  | 0x49 => decode49 w
  | 0x4A => decode4A w
  | 0x4B => decode4B w
  | 0x4C => decode4C w
  | 0x4D => decode4D w
  | 0x4E => decode4E w
  | 0x4F => decode4F w
  | 0x50 => decode50 w
  | 0x51 => decode51 w
  | 0x52 => decode52 w
  | 0x53 => decode53 w
  | 0x54 => decode54 w
  | 0x55 => decode55 w
  | 0x56 => decode56 w
  | 0x57 => decode57 w
  | 0x58 => decode58 w
  | 0x59 => decode59 w
  | 0x5A => decode5A w
  | 0x5B => decode5B w
  | 0x5C => decode5C w
  | 0x5D => decode5D w
  | 0x60 => decode60 w
  | 0x61 => decode61 w
  | 0x62 => decode62 w
  | 0x63 => decode63 w
  | 0x64 => decode64 w
  | 0x65 => decode65 w
  | 0x66 => decode66 w
  | 0x67 => decode67 w
  | 0x68 => decode68 w
  | 0x69 => decode69 w
  | 0x6A => decode6A w
  | 0x6B => decode6B w
  | 0x70 => decode70 w
  | 0x71 => decode71 w
  | 0x72 => decode72 w
  | 0x73 => decode73 w
  | 0x74 => decode74 w
  | 0x75 => decode75 w
  | 0x76 => decode76 w
  | 0x77 => decode77 w
  | 0x78 => decode78 w
  | 0x79 => decode79 w
  | 0x7A => decode7A w
  | 0x7B => decode7B w
  | 0x7C => decode7C w
  | 0x7D => decode7D w
  | _ => .error (.unassignedMajor (fMaj w))

/-- The decoder of R37: the row's instruction if it breaks no rule on its fields, else the reason. Every error is the illegal
instruction trap (0x01). -/
def decode (w : W32) : Except DecodeError Instr :=
  match decodeRow w with
  | .error e => .error e
  | .ok i =>
    match i.reject with
    | none => .ok i
    | some e => .error e

/-- The decoder on the bytes of an instruction, lowest address first (R19: one 32-bit little-endian word). -/
def decodeBytes : List Byte → Except DecodeError Instr
  | [b0, b1, b2, b3] => decode ((b3 ++ b2 ++ b1 ++ b0).cast (by decide))
  | _ => .error .notFourBytes

/-- What the decoder reads from an instruction whose `nbits` low bits are `w`, laid out as the hardware stores it: one 32-bit word
(R19), so the bits above `nbits` are zero. -/
def decodeTableWord (nbits w : Nat) : Option Instr :=
  let v : W32 := BitVec.ofNat 32 (w % 2 ^ nbits)
  match decodeBytes [v.extractLsb' 0 8, v.extractLsb' 8 8, v.extractLsb' 16 8, v.extractLsb' 24 8] with
  | .ok i => some i
  | .error _ => none

/-- The word of an instruction (R20, R39). An event has none and is given the word of zeros, which always traps (R37). -/
def encode : Instr → W32
  | .add d a b => wordRRR 0x01#7 d a b 0x0#7
  | .sub d a b => wordRRR 0x01#7 d a b 0x1#7
  | .addx d a b => wordRRR 0x01#7 d a b 0x2#7
  | .mul d a b => wordRRR 0x01#7 d a b 0x3#7
  | .mulh d a b => wordRRR 0x01#7 d a b 0x4#7
  | .mad d a b => wordRRR 0x01#7 d a b 0x5#7
  | .div d a b => wordRRR 0x01#7 d a b 0x6#7
  | .rem d a b => wordRRR 0x01#7 d a b 0x7#7
  | .min d a b => wordRRR 0x01#7 d a b 0x8#7
  | .max d a b => wordRRR 0x01#7 d a b 0x9#7
  | .abs d a => wordRRR 0x01#7 d a 0x0#6 0xA#7
  | .and d a b => wordRRR 0x01#7 d a b 0x10#7
  | .or d a b => wordRRR 0x01#7 d a b 0x11#7
  | .xor d a b => wordRRR 0x01#7 d a b 0x12#7
  | .andn d a b => wordRRR 0x01#7 d a b 0x13#7
  | .orn d a b => wordRRR 0x01#7 d a b 0x14#7
  | .shl d a b => wordRRR 0x01#7 d a b 0x18#7
  | .shr d a b => wordRRR 0x01#7 d a b 0x19#7
  | .rot d a b => wordRRR 0x01#7 d a b 0x1A#7
  | .popc d a => wordRRR 0x01#7 d a 0x0#6 0x20#7
  | .clz d a => wordRRR 0x01#7 d a 0x0#6 0x21#7
  | .ctz d a => wordRRR 0x01#7 d a 0x0#6 0x22#7
  | .brev d a => wordRRR 0x01#7 d a 0x0#6 0x23#7
  | .bfx d a b => wordRRR 0x01#7 d a b 0x24#7
  | .bfi d a b => wordRRR 0x01#7 d a b 0x25#7
  | .sel d a b => wordRRR 0x01#7 d a b 0x28#7
  | .cmp c p a b => wordRRR 0x01#7 (c ++ p) a b 0x29#7
  | .mov d a => wordRRR 0x01#7 d a 0x0#6 0x2A#7
  | .lea d a b sc => wordRRR 0x01#7 d a b (0xB#5 ++ sc)
  | .dot4 d a b => wordRRR 0x01#7 d a b 0x30#7
  | .bperm d a b => wordRRR 0x01#7 d a b 0x31#7
  | .addi d a imm => wordRRI 0x02#7 d a imm
  | .andi d a imm => wordRRI 0x03#7 d a imm
  | .ori d a imm => wordRRI 0x04#7 d a imm
  | .xori d a imm => wordRRI 0x05#7 d a imm
  | .shli d a n => wordRRI 0x06#7 d a (0x0#7 ++ n)
  | .shri d a n => wordRRI 0x07#7 d a (0x0#7 ++ n)
  | .cmpi c p a imm => wordRRI 0x08#7 (c ++ p) a imm
  | .movi d imm => wordRI 0x09#7 d imm
  | .ihi d imm => wordRI 0x0A#7 d imm
  | .fadd d a b => wordRRR 0x20#7 d a b 0x0#7
  | .fsub d a b => wordRRR 0x20#7 d a b 0x1#7
  | .fmul d a b => wordRRR 0x20#7 d a b 0x2#7
  | .ffma d a b => wordRRR 0x20#7 d a b 0x3#7
  | .fmin d a b => wordRRR 0x20#7 d a b 0x4#7
  | .fmax d a b => wordRRR 0x20#7 d a b 0x5#7
  | .fabs d a => wordRRR 0x20#7 d a 0x0#6 0x6#7
  | .fneg d a => wordRRR 0x20#7 d a 0x0#6 0x7#7
  | .fcmp c p a b => wordRRR 0x20#7 (c ++ p) a b 0x8#7
  | .fclass d a => wordRRR 0x20#7 d a 0x0#6 0x9#7
  | .frnd d a => wordRRR 0x20#7 d a 0x0#6 0xA#7
  | .fscale d a b => wordRRR 0x20#7 d a b 0xB#7
  | .frcp d a l => wordRRR 0x21#7 d a 0x0#6 (l ++ 0x0#3)
  | .frsq d a l => wordRRR 0x21#7 d a 0x0#6 (l ++ 0x1#3)
  | .fsqrt d a l => wordRRR 0x21#7 d a 0x0#6 (l ++ 0x2#3)
  | .fexp2 d a l => wordRRR 0x21#7 d a 0x0#6 (l ++ 0x3#3)
  | .flog2 d a l => wordRRR 0x21#7 d a 0x0#6 (l ++ 0x4#3)
  | .fsin d a l => wordRRR 0x21#7 d a 0x0#6 (l ++ 0x5#3)
  | .fcos d a l => wordRRR 0x21#7 d a 0x0#6 (l ++ 0x6#3)
  | .cvt d a t => wordRRR 0x22#7 d a 0x0#6 (0x0#2 ++ t)
  | .cvtdx d a f => wordRRR 0x23#7 d a 0x0#6 (0x0#5 ++ f)
  | .cvtmx d a f => wordRRR 0x24#7 d a 0x0#6 (0x0#4 ++ f)
  | .qswapH d a => wordRRR 0x30#7 d a 0x0#6 0x0#7
  | .qswapV d a => wordRRR 0x30#7 d a 0x0#6 0x1#7
  | .qswapD d a => wordRRR 0x30#7 d a 0x0#6 0x2#7
  | .qbcast d a q => wordRRR 0x30#7 d a 0x0#6 (0x1#5 ++ q)
  | .shfl d a b => wordRRR 0x30#7 d a b 0x8#7
  | .shflu d a b => wordRRR 0x30#7 d a b 0x9#7
  | .shfld d a b => wordRRR 0x30#7 d a b 0xA#7
  | .shflx d a b => wordRRR 0x30#7 d a b 0xB#7
  | .voteAll p a => wordRRR 0x30#7 (0x0#3 ++ p) (0x0#3 ++ a) 0x0#6 0x10#7
  | .voteAny p a => wordRRR 0x30#7 (0x0#3 ++ p) (0x0#3 ++ a) 0x0#6 0x11#7
  | .voteBallot d a => wordRRR 0x30#7 d (0x0#3 ++ a) 0x0#6 0x12#7
  | .gscanIncl d a o => wordRRR 0x30#7 d a 0x0#6 (0x4#4 ++ o)
  | .gscanExcl d a o => wordRRR 0x30#7 d a 0x0#6 (0x5#4 ++ o)
  | .gred d a o => wordRRR 0x30#7 d a 0x0#6 (0x6#4 ++ o)
  | .matchLanes d a => wordRRR 0x30#7 d a 0x0#6 0x38#7
  | .plog d a b t => wordRRR 0x31#7 (0x0#3 ++ d) (0x0#3 ++ a) (0x0#3 ++ b) (0x0#3 ++ t)
  | .br o => wordB 0x38#7 0x0#3 o
  | .brc c o => wordB 0x39#7 c o
  | .call f o => wordB 0x3A#7 f o
  | .brx a => wordRRR 0x3B#7 0x0#6 a 0x0#6 0x0#7
  | .ret => wordRRR 0x3B#7 0x0#6 0x0#6 0x0#6 0x2#7
  | .exit => wordRRR 0x3B#7 0x0#6 0x0#6 0x0#6 0x3#7
  | .nop => wordRRR 0x3B#7 0x0#6 0x0#6 0x0#6 0x4#7
  | .yield d a => wordRRR 0x3B#7 d a 0x0#6 0x5#7
  | .callx a f => wordRRR 0x3B#7 0x0#6 a 0x0#6 (0x1#4 ++ f)
  | .setm m imm => wordRI 0x3C#7 (0x0#1 ++ m) (0x0#5 ++ imm)
  | .setmR m a => wordRRR 0x3D#7 (0x0#1 ++ m) a 0x0#6 0x0#7
  | .getm d => wordRRR 0x3D#7 d 0x0#6 0x0#6 0x1#7
  | .pushm => wordRRR 0x3D#7 0x0#6 0x0#6 0x0#6 0x2#7
  | .popm => wordRRR 0x3D#7 0x0#6 0x0#6 0x0#6 0x3#7
  | .ld d b o l => wordM 0x40#7 d b o l
  | .st d b o l => wordM 0x41#7 d b o l
  | .ldStr d b o sc => wordM 0x42#7 d b o sc
  | .stStr d b o sc => wordM 0x43#7 d b o sc
  | .ldAcq d b o sc => wordM 0x44#7 d b o sc
  | .stRel d b o sc => wordM 0x45#7 d b o sc
  | .ldh d b o c => wordM 0x46#7 d b o c
  | .pref v b o => wordM 0x47#7 (0x0#4 ++ v) b o 0x0#4
  | .lds d b o l => wordM 0x48#7 d b o l
  | .sts d b o l => wordM 0x49#7 d b o l
  | .ldc d b o l => wordM 0x4A#7 d b o l
  | .stc d b o l => wordM 0x4B#7 d b o l
  | .ldx d b o l => wordM 0x4C#7 d b o l
  | .stx d b o l => wordM 0x4D#7 d b o l
  | .ldl d b o l => wordM 0x4E#7 d b o l
  | .stl d b o l => wordM 0x4F#7 d b o l
  | .amo d a b l o => wordRRR 0x50#7 d a b (l ++ o)
  | .cas d a b l => wordRRR 0x51#7 d a b (l ++ 0x0#3)
  | .amos d a b l o => wordRRR 0x52#7 d a b (l ++ o)
  | .red a b l o => wordRRR 0x53#7 0x0#6 a b (l ++ o)
  | .fence c sc p => wordRI 0x54#7 0x0#6 (0x0#3 ++ c ++ sc ++ p)
  | .xfence c t f => wordRI 0x55#7 0x0#6 (0x0#7 ++ c ++ t ++ f)
  | .pfence k => wordRI 0x56#7 0x0#6 (0x0#17 ++ k)
  | .icinv sc => wordRI 0x56#7 0x1#6 (0x0#15 ++ sc)
  | .ldfe d a => wordRRR 0x57#7 d a 0x0#6 0x0#7
  | .ldfeE d a => wordRRR 0x57#7 d a 0x0#6 0x1#7
  | .stfe a b => wordRRR 0x57#7 0x0#6 a b 0x2#7
  | .fesetE a => wordRRR 0x57#7 0x0#6 a 0x0#6 0x3#7
  | .fesetF a => wordRRR 0x57#7 0x0#6 a 0x0#6 0x4#7
  | .feq d a => wordRRR 0x57#7 d a 0x0#6 0x5#7
  | .tbinit a b => wordRRR 0x58#7 0x0#6 a b 0x0#7
  | .tbarr d a b => wordRRR 0x58#7 d a b 0x1#7
  | .tbwait d a b => wordRRR 0x58#7 d a b 0x2#7
  | .tbret a => wordRRR 0x58#7 0x0#6 a 0x0#6 0x3#7
  | .cpyTile d a b l => wordRRR 0x59#7 d a b (l ++ 0x0#3)
  | .cpyLin d a b l => wordRRR 0x59#7 d a b (l ++ 0x1#3)
  | .cpyMem d a b l => wordRRR 0x59#7 d a b (l ++ 0x2#3)
  | .cpyoTile d a b l => wordRRR 0x5A#7 d a b (l ++ 0x0#3)
  | .cpyoLin d a b l => wordRRR 0x5A#7 d a b (l ++ 0x1#3)
  | .gath d a b l => wordRRR 0x5B#7 d a b (l ++ 0x0#3)
  | .scat d a b l => wordRRR 0x5C#7 d a b (l ++ 0x0#3)
  | .walkExact d a b l => wordRRR 0x5D#7 d a b (l ++ 0x0#3)
  | .walkFloor d a b l => wordRRR 0x5D#7 d a b (l ++ 0x1#3)
  | .obres d a b => wordRRR 0x60#7 d a b 0x0#7
  | .obrel a => wordRRR 0x61#7 0x0#6 a 0x0#6 0x0#7
  | .mma t a b l k => wordRRR 0x62#7 (0x0#2 ++ t) a b (l ++ 0x0#2 ++ k)
  | .mmas t a b l k => wordRRR 0x63#7 (0x0#2 ++ t) a b (l ++ 0x0#2 ++ k)
  | .mloop t a b l sc => wordRRR 0x64#7 (0x0#2 ++ t) a b (l ++ 0x0#2 ++ sc)
  | .mbatch d => wordRRR 0x65#7 d 0x0#6 0x0#6 0x0#7
  | .mwait d a => wordRRR 0x66#7 d a 0x0#6 0x0#7
  | .accrd d b => wordRRR 0x67#7 d 0x0#6 b 0x0#7
  | .accwr a b => wordRRR 0x68#7 0x0#6 a b 0x0#7
  | .accst a b => wordRRR 0x69#7 0x0#6 a b 0x0#7
  | .accz t => wordRRR 0x6A#7 (0x0#2 ++ t) 0x0#6 0x0#6 0x0#7
  | .mcomp d a l => wordRRR 0x6B#7 d a 0x0#6 (l ++ 0x0#3)
  | .ired a l f => wordRRR 0x70#7 0x0#6 a 0x0#6 (l ++ f)
  | .nbrun d a l => wordRRR 0x71#7 d a 0x0#6 (l ++ 0x0#3)
  | .nbwait d a => wordRRR 0x72#7 d a 0x0#6 0x0#7
  | .nbq d a => wordRRR 0x73#7 d a 0x0#6 0x0#7
  | .land d a b => wordRRR 0x73#7 d a b 0x1#7
  | .launch d a l => wordRRR 0x74#7 d a 0x0#6 (l ++ 0x0#3)
  | .lwait d a l => wordRRR 0x74#7 d a 0x0#6 (l ++ 0x1#3)
  | .lquery d a l => wordRRR 0x74#7 d a 0x0#6 (l ++ 0x2#3)
  | .iter d => wordRRR 0x75#7 d 0x0#6 0x0#6 0x0#7
  | .fixup d a => wordRRR 0x75#7 d a 0x0#6 0x1#7
  | .xacq d a k => wordRRR 0x76#7 d a k 0x0#7
  | .xrel d a k => wordRRR 0x76#7 d a k 0x1#7
  | .gmig d a l => wordRRR 0x77#7 d a 0x0#6 (l ++ 0x0#3)
  | .csrr d c => wordS 0x78#7 d c 0x0#7
  | .csrw d c => wordS 0x78#7 d c 0x1#7
  | .trap n => wordS 0x78#7 0x0#6 n 0x2#7
  | .tret => wordS 0x78#7 0x0#6 0x0#12 0x3#7
  | .tlbinv a b => wordRRR 0x79#7 0x0#6 a b 0x0#7
  | .ctxstart d a => wordRRR 0x79#7 d a 0x0#6 0x1#7
  | .ctxkill d a => wordRRR 0x79#7 d a 0x0#6 0x2#7
  | .rcfence d a => wordRRR 0x79#7 d a 0x0#6 0x3#7
  | .eres d a b => wordRRR 0x79#7 d a b 0x4#7
  | .drain d a => wordRRR 0x79#7 d a 0x0#6 0x5#7
  | .halt => wordRRR 0x79#7 0x0#6 0x0#6 0x0#6 0x6#7
  | .thset d a b => wordRRR 0x7A#7 d a b 0x0#7
  | .thclr d a => wordRRR 0x7A#7 d a 0x0#6 0x1#7
  | .append d a l => wordRRR 0x7B#7 d a 0x0#6 (l ++ 0x0#3)
  | .apseal d a l => wordRRR 0x7B#7 d a 0x0#6 (l ++ 0x1#3)
  | .apwait d a b l => wordRRR 0x7B#7 d a b (l ++ 0x2#3)
  | .wsget d a l => wordRRR 0x7C#7 d a 0x0#6 (l ++ 0x0#3)
  | .wsrel a b l => wordRRR 0x7C#7 0x0#6 a b (l ++ 0x1#3)
  | .wsset d a b l => wordRRR 0x7C#7 d a b (l ++ 0x2#3)
  | .ckclose d a b => wordRRR 0x7D#7 d a b 0x0#7
  | .shseal d => wordRRR 0x7D#7 d 0x0#6 0x0#6 0x1#7
  | _ => 0#32

end Sys2Proof
end

