-- ==== Sys2Proof/Machine/Memory.lean ====
section
/-!
DEFINITION. Sys2Proof/Machine/Memory.lean: the homes of memory (R182, R385), leases (R163, R164), the representative and the race test
(R183, R184), the directory and the keel staging caches (R387, R388), the old-value log (R424), poison (R432), the page-table walk
(R324–R332) and the bytes of the on-chip spaces (R154–R161).
-/

namespace Sys2Proof.Machine

open Sys2Proof

/-! ## Physical memory (R328) -/

/-- The tiers of a leaf (R325). -/
inductive Tier where
  | hbm
  | lpd
  | flash
  | pool
  deriving DecidableEq, Repr

/-- The tier a physical address lies in; none outside R328. -/
def tierOf (pa : Nat) : Option Tier :=
  if pa < 0x8000000000 then some .hbm
  else if 0x10000000000 ≤ pa ∧ pa < 0x1C000000000 then some .lpd
  else if 0x40000000000 ≤ pa ∧ pa < 0x80000000000 then some .flash
  else if 0x8000000000000 ≤ pa ∧ pa < 0x10000000000000 then some .pool
  else none

/-- The checkpoint store, which only the checkpoint logic reaches (R421). -/
def inStore (pa : Nat) : Bool := decide (0x1B800000000 ≤ pa) && decide (pa < 0x1C000000000)

/-- The line of a physical address. -/
def lineOf (pa : Nat) : Nat := pa / 128

/-- The quarter whose L2 homes a physical address: PA[8:7] xor PA[14:13] (R385). -/
def homeQuarter (pa : Nat) : Nat := (bits pa 8 7) ^^^ (bits pa 14 13)

/-! ## The L2 and DRAM -/

/-- The line as its home slice holds it. -/
def MemSys.l2Line (m : MemSys) (line : Nat) : Option L2Line := m.l2.find? fun x => decide (x.line = line)

/-- The byte that a read at the home returns (R183). -/
def MemSys.homeByte (m : MemSys) (pa : Nat) : Byte :=
  match m.l2Line (lineOf pa) with
  | some x => Store.get x.data (pa % 128)
  | none => Store.get m.mem pa

/-- The value of `n` bytes at the home. -/
def MemSys.homeRead (m : MemSys) (pa n : Nat) : Nat := leOf m.homeByte pa n

/-- The 128 bytes of a line at the home. -/
def MemSys.homeLine (m : MemSys) (line : Nat) : Store 8 :=
  match m.l2Line line with
  | some x => x.data
  | none => Store.slice m.mem (128 * line) 128

/-- The bit of a sector in the mask of its line. -/
def sectorBit (k : Nat) : BitVec 4 := 1#4 <<< (k % 4)

/-- Some byte of a sector lies in a range. -/
def sectorIn (pa n k : Nat) : Bool := decide (pa / 32 ≤ k) && decide (k ≤ (pa + n - 1) / 32)

/-- What reads of memory return poisoned whatever the marks: the checkpoint store (R421), a channel that has failed (R434). -/
def MemSys.lost (m : MemSys) (pa : Nat) : Bool :=
  inStore pa || (!m.dead.isEmpty && decide (tierOf pa = some .hbm) && m.dead.any fun k => decide (k = Config.channelOf pa % 128))

/-- The poisoned sectors of a line in memory (R432). -/
def MemSys.memBad (m : MemSys) (line : Nat) : BitVec 4 :=
  if m.lost (128 * line) then 15#4 else m.poison.foldl (fun b k => if k / 4 = line then b ||| sectorBit k else b) 0#4

/-- The poisoned sectors of a line as a read at its home returns it. -/
def MemSys.homeBad (m : MemSys) (line : Nat) : BitVec 4 :=
  match m.l2Line line with
  | some x => x.bad
  | none => m.memBad line

/-- The slice of its quarter that homes a physical address: PA[12:9] (R385). -/
def homeSlice (pa : Nat) : Nat := bits pa 12 9

/-- The lines an L2 slice holds: a sixteenth of a quarter's 96 MiB, in lines of 128 bytes (R10, R14). -/
def sliceLines : Nat := 49152

/-- The home slice of a line has room for another one. -/
def MemSys.sliceRoom (m : MemSys) (line : Nat) : Bool :=
  decide ((m.l2.filter fun x => decide (homeQuarter (128 * x.line) = homeQuarter (128 * line)) &&
    decide (homeSlice (128 * x.line) = homeSlice (128 * line))).length < sliceLines)

/-- A line is filled into its home slice, if it is not there (R166). A full slice keeps what it holds: the access goes to memory (DESIGN CHOICE, log 70). -/
def MemSys.fillL2 (m : MemSys) (line count : Nat) : MemSys :=
  match m.l2Line line with
  | some _ => m
  | none => if !m.sliceRoom line then m else { m with l2 := m.l2 ++ [{ line := line, dirty := false, count := count, data := Store.slice m.mem (128 * line) 128, bad := m.memBad line }] }

/-- A line is written back to memory, its poison marks with it (R279, R432). -/
def MemSys.backL2 (m : MemSys) (x : L2Line) : MemSys :=
  if x.dirty then
    { m with mem := Store.replace m.mem (128 * x.line) 128 x.data,
             poison := (m.poison.filter fun k => decide (k / 4 ≠ x.line)) ++
               ((List.range 4).filter fun j => x.bad.getLsbD j).map fun j => 4 * x.line + j }
  else m

/-- A line leaves L2; a dirty one is written back to memory (R279). -/
def MemSys.evictL2 (m : MemSys) (line : Nat) : MemSys :=
  match m.l2Line line with
  | none => m
  | some x => { m.backL2 x with l2 := m.l2.filter fun y => decide (y.line ≠ line) }

/-- A dirty line is written to memory and stays, clean (R279, R280). -/
def MemSys.cleanL2 (m : MemSys) (line : Nat) : MemSys :=
  match m.l2Line line with
  | none => m
  | some x => { m.backL2 x with l2 := m.l2.map fun y => if y.line = line then { y with dirty := false } else y }

/-- A line of a page without MS, not in the pool, is homed in L2 (R182, R207). -/
def inL2 (ms : Bool) (pa : Nat) : Bool := !ms && (match tierOf pa with | some .pool => false | _ => true)

/-- A read of a line at its L2 home: a miss fills it; each read of a counted line lowers its count, and at zero the line is
invalidated without write-back; an LDH with count `h` that hits a counted line keeps it (R166, R211). -/
def MemSys.readL2 (m : MemSys) (line h : Nat) : MemSys :=
  match m.l2Line line with
  | none => m.fillL2 line h
  | some x =>
    if x.count = 0 then m
    else if h ≠ 0 then { m with l2 := m.l2.map fun y => if y.line = line then { y with count := max (x.count - 1) h } else y }
    else if x.count = 1 then { m with l2 := m.l2.filter fun y => decide (y.line ≠ line) }
    else { m with l2 := m.l2.map fun y => if y.line = line then { y with count := x.count - 1 } else y }

/-- Writes bytes at the home without any test: into the L2 line, which becomes an ordinary dirty line, or into memory. L2 keeps no line of a page with MS: one
from before its page had it leaves first (R278). -/
def MemSys.putHome (m : MemSys) (ms : Bool) (pa n v : Nat) : MemSys :=
  if inL2 ms pa then
    let m1 := m.fillL2 (lineOf pa) 0
    if (m1.l2Line (lineOf pa)).isNone then { m1 with mem := Store.putLE m1.mem pa n v }
    else { m1 with l2 := m1.l2.map fun y => if y.line = lineOf pa then
        { y with dirty := true, count := 0, data := Store.putLE y.data (pa % 128) n v } else y }
  else
    let m1 := if ms then m.evictL2 (lineOf pa) else m
    { m1 with mem := Store.putLE m1.mem pa n v }

/-! ## The interleaving of HBM4E (R445, log 14) -/

/-- The HBM4E channel, 0 to 127, of a physical address (R445). -/
def channelAt (pa : Nat) : Nat := Config.channelOf pa % 128

/-- The HBM4E stack, 0 to 7, of a physical address (R445). -/
def stackAt (pa : Nat) : Nat := channelAt pa / 16

/-! ## Event counters (R445, R446) -/

/-- A selector counts an event of a context, or of none. -/
def selects (v : W32) (code : Nat) (c : Option (BitVec 12)) : Bool :=
  v.getLsbD 31 && decide (v.toNat % 256 = code) && (!v.getLsbD 29 || decide (c = some (v.extractLsb' 16 12)))

/-- A core event of a context is counted by each enabled counter of the core that selects it (R446). -/
def State.event (s : State) (core : Nat) (c : BitVec 12) (code : Nat) : State :=
  if s.dev.evsel.isEmpty then s
  else
    (List.range 8).foldl (fun s k =>
      if selects (Store.get s.dev.evsel (8 * core + k)) code (some c) then
        { s with dev := { s.dev with evcnt := Store.put s.dev.evcnt (8 * core + k) (Store.get s.dev.evcnt (8 * core + k) + 1#64) } }
      else s) s

/-- A controller event is counted (R446). -/
def State.mevent (s : State) (ctl : Nat) (c : Option (BitVec 12)) (code : Nat) : State :=
  if s.dev.mevsel.isEmpty then s
  else
    (List.range 4).foldl (fun s k =>
      if selects (Store.get s.dev.mevsel (4 * ctl + k)) code c then
        { s with dev := { s.dev with mevcnt := Store.put s.dev.mevcnt (4 * ctl + k) (Store.get s.dev.mevcnt (4 * ctl + k) + 1#64) } }
      else s) s

/-- The memory controller of a physical address: an HBM4E channel, or an LPDDR6 controller (R445). -/
def controllerAt (pa : Nat) : Option Nat :=
  match tierOf pa with
  | some .hbm => some (channelAt pa)
  | some .lpd => some (128 + Config.lpdControllerOf pa % 16)
  | _ => none

/-- An event of the controller of a physical address. -/
def State.meventAt (s : State) (pa : Nat) (c : Option (BitVec 12)) (code : Nat) : State :=
  match controllerAt pa with
  | some k => s.mevent k c code
  | none => s

/-! ## Poison (R432) -/

/-- Some sector that the bytes touch is poisoned as a read at their home returns it (R421, R432, R434): the marks are those of the L2 line that holds it, or of
memory. -/
def MemSys.poisoned (m : MemSys) (pa n : Nat) : Bool :=
  (m.l2.any fun x => (List.range 4).any fun j => x.bad.getLsbD j && sectorIn pa n (4 * x.line + j)) ||
    (m.poison.any fun k => sectorIn pa n k && (m.l2Line (k / 4)).isNone) || (m.lost pa && (m.l2Line (lineOf pa)).isNone)

/-- Some sector that the bytes touch is poisoned as the base die and the near-bank units read DRAM (R279, R280, R432). -/
def MemSys.bankPoisoned (m : MemSys) (pa n : Nat) : Bool := (m.poison.any fun k => sectorIn pa n k) || m.lost pa

/-- The marks of a line give poison for some of the `n` bytes at a place of it. -/
def badBytes (bad : BitVec 4) (pa n : Nat) : Bool := (List.range 4).any fun j => bad.getLsbD j && sectorIn pa n (4 * (pa / 128) + j)

/-- A write of whole sectors of memory clears their marks. -/
def MemSys.unpoison (m : MemSys) (pa n : Nat) : MemSys :=
  { m with poison := m.poison.filter fun k => !(decide (pa ≤ 32 * k) && decide (32 * k + 32 ≤ pa + n)) }

/-- The mark of a sector goes where its home holds it: in the L2 line, or in memory. -/
def MemSys.clearSector (m : MemSys) (k : Nat) : MemSys :=
  match m.l2Line (k / 4) with
  | some _ => { m with l2 := m.l2.map fun y => if y.line = k / 4 then { y with bad := y.bad &&& ~~~(sectorBit k) } else y }
  | none => { m with poison := m.poison.filter fun j => decide (j ≠ k) }

/-- The bytes of a sector that `n` bytes at a place cover. -/
def sectorMask (pa n k : Nat) : W32 := maskOf fun j => decide (pa ≤ 32 * k + j) && decide (32 * k + j < pa + n)

/-- Bytes of a poisoned sector are rewritten by an access: the mark goes once it has rewritten all 32, in however many parts it performs; a partial write leaves it
(R432). -/
def MemSys.rewrite (m : MemSys) (log pa n : Nat) : MemSys :=
  let k := pa / 32
  if (m.poison.isEmpty && m.l2.all fun x => decide (x.bad = 0#4)) || !m.poisoned (32 * k) 32 then m
  else
    let old := match m.covers.find? fun c => decide (c.sector = k) && decide (c.log = log) with | some c => c.bytes | none => 0#32
    let now := old ||| sectorMask pa n k
    let rest := m.covers.filter fun c => decide (c.sector ≠ k)
    if now = BitVec.allOnes 32 then { m.clearSector k with covers := rest } else { m with covers := rest ++ [{ sector := k, log := log, bytes := now }] }

/-! ## Leases (R163, R164) -/

/-- The lease length in force at the home of a physical address; a written value below 64 acts as 64; 2,048 for the pool (R163, R391). -/
def State.leaseLength (s : State) (pa : Nat) : Nat :=
  match tierOf pa with
  | some .pool => 2048
  | _ => max 64 (Store.get s.dev.lease (homeQuarter pa)).toNat

/-- Every lease granted on the line has expired (R164). -/
def State.leaseOver (s : State) (line : Nat) : Bool := decide (Store.get s.m.leases line ≤ s.dev.time)

/-- A write waits at the home: no new lease is granted on the line (R164). -/
def State.writeWaits (s : State) (line : Nat) : Bool :=
  (s.m.waiting.any fun w => decide (w.line = line)) ||
    s.m.reqs.any fun r => r.accepted && !r.performed && decide (r.space = .vm) && decide (lineOf r.key = line)

/-- The name under which a BISnp waits on a line (R391). -/
def snoopName (line : Nat) : Nat := 2 ^ 64 + line
/-- The name under which a bit of a leaf waits that an access of `who` must find set (R330). -/
def walkName (who : Nat) : Nat := 2 ^ 65 + who
/-- The name under which the write-back of a gleaner waits (R389). -/
def gleanName (cache line : Nat) : Nat := 2 ^ 66 + 64 * line + cache
/-- The name under which the lines wait that a rollback of a context restores (R427). -/
def rollName (c : BitVec 12) : Nat := 2 ^ 67 + c.toNat
/-- The name under which the leaves of a tensor wait that a switch rewrites (R338). -/
def moveName (c : BitVec 12) (idx : Nat) : Nat := 2 ^ 68 + 4096 * idx + c.toNat

/-- The name under which leaves wait that the storage processor rewrites: those of a stream at a base, or of a page (R334, R375). -/
def sealName (base : Nat) : Nat := 2 ^ 69 + base

/-- The name under which a leaf waits whose compressed page is expanded (R339). -/
def expandName (leaf : Nat) : Nat := 2 ^ 71 + leaf

/-- The name under which a close of a context's interval writes back the lines that hold its dirty words (R423). -/
def closeName (c : BitVec 12) : Nat := 2 ^ 70 + c.toNat

/-- A BISnp waits on the line: it goes ahead of the local requests (R391). -/
def State.snooped (s : State) (line : Nat) : Bool := s.m.waiting.any fun w => decide (w.line = line) && decide (w.who = snoopName line)

/-- The write of `who` that may not perform yet has arrived and waits at the home of its line (R164, R388). -/
def State.await (s : State) (who pa : Nat) : State :=
  if s.m.waiting.any fun x => decide (x.line = lineOf pa) && decide (x.who = who) then s
  else { s with seq := s.seq + 1, m := { s.m with waiting := s.m.waiting ++ [{ line := lineOf pa, who := who, turn := s.seq + 1 }] } }

/-- The same for each of several places. -/
def State.awaitAll (s : State) (who : Nat) (pas : List Nat) : State := pas.foldl (fun s pa => s.await who pa) s

/-- What waited is withdrawn: those that a test of their names admits. -/
def State.forgetWaits (s : State) (p : Nat → Bool) : State :=
  { s with m := { s.m with waiting := s.m.waiting.filter fun w => !p w.who } }

/-- What waited under a name is over, the bits of leaves with it. -/
def State.forgetName (s : State) (who : Nat) : State := s.forgetWaits fun n => decide (n = who) || decide (n = walkName who)

/-- What waited at the home of a line under a name is over. -/
def State.forgetAt (s : State) (who pa : Nat) : State :=
  { s with m := { s.m with waiting := s.m.waiting.filter fun w => !(decide (w.who = who) && decide (w.line = lineOf pa)) } }

/-- The lines an L1 holds: 512 KiB of 128-byte lines (R13). -/
def l1Lines : Nat := 4096

/-- A fill of a core's L1 with a new lease (R163); without a grant the core's copy, if any, goes (R164, R165). A full L1 keeps what it holds (log 70). -/
def State.fillL1 (s : State) (core pa : Nat) : State :=
  let line := lineOf pa
  let rest := s.m.l1.filter fun x => !(decide (x.core = core) && decide (x.line = line))
  if 256 ≤ core then s
  else if s.writeWaits line || decide (l1Lines ≤ (rest.filter fun x => decide (x.core = core)).length) then { s with m := { s.m with l1 := rest } }
  else
    let e := s.dev.time + BitVec.ofNat 64 (s.leaseLength pa)
    let old := Store.get s.m.leases line
    { s with m := { s.m with
        l1 := rest ++ [{ core := core, line := line, grant := s.dev.time, expiry := e, data := s.m.homeLine line, bad := s.m.homeBad line }],
        leases := Store.put s.m.leases line (if old ≤ e then e else old) } }

/-- The copy of a line in a core's L1 that a load of a group with fresh stamp `f` may hit (R163, R187). -/
def State.l1Hit (s : State) (core pa : Nat) (f : W64) : Option L1Line :=
  s.m.l1.find? fun x => decide (x.core = core) && decide (x.line = lineOf pa) && decide (s.dev.time < x.expiry) && decide (f ≤ x.grant)

/-- A store updates the issuing core's L1 copy in place and keeps its expiry (R165). -/
def MemSys.storeL1 (m : MemSys) (core pa n v : Nat) : MemSys :=
  { m with l1 := m.l1.map fun x => if x.core = core ∧ x.line = lineOf pa then { x with data := Store.putLE x.data (pa % 128) n v } else x }

/-- An atomic invalidates the issuing core's L1 copy (R194). -/
def MemSys.dropL1 (m : MemSys) (core pa : Nat) : MemSys :=
  { m with l1 := m.l1.filter fun x => !(decide (x.core = core) && decide (x.line = lineOf pa)) }

/-! ## The old-value log (R424) -/

/-- A context by its identifier. -/
def State.ctx (s : State) (c : BitVec 12) : Option Ctx := s.ctxs.find? fun x => decide (x.c = c)

/-- Changes a context. -/
def State.onCtx (s : State) (c : BitVec 12) (f : Ctx → Ctx) : State :=
  { s with ctxs := s.ctxs.map fun x => if x.c = c then f x else x }

/-- A tag is current: its context is Live with that incarnation (R360). -/
def State.liveTag (s : State) (c : BitVec 12) (j : BitVec 8) : Bool :=
  match s.ctx c with
  | some x => x.live && decide (x.cur = j)
  | none => false

/-- The tiers whose writes the home logs (R424). -/
def logged (pa : Nat) : Bool := match tierOf pa with | some .hbm => true | some .lpd => true | _ => false

/-- The share of the store, in records, of a context to which firmware has given none: an equal part of its 32 GiB, in lines of 128 bytes (DESIGN CHOICE, log 91). -/
def equalShare : Nat := 65536

/-- The share of the store that a context has, as firmware divides it (R422). -/
def State.shareOf (s : State) (c : BitVec 12) : Nat :=
  if Store.get s.ck.shares c.toNat = 0 then equalShare else (Store.get s.ck.shares c.toNat).toNat

/-- The records of a context have reached its share: its first writes wait (R424). -/
def State.logFull (s : State) (c : BitVec 12) : Bool := decide (s.shareOf c ≤ (s.ck.logs.filter fun r => decide (r.c = c)).length)

/-- The context's open interval has a record of the line. -/
def State.hasLog (s : State) (c : BitVec 12) (n line : Nat) : Bool :=
  s.ck.logs.any fun r => decide (r.c = c) && decide (r.n = n) && decide (r.line = line)

/-- The word masks after a write of a context to words: set in its own record of the open interval, cleared in those of others. -/
def markLog (c : BitVec 12) (n line : Nat) (words : W32) (r : LogRec) : LogRec :=
  if r.line ≠ line then r
  else if r.c = c then (if r.n = n then { r with mask := r.mask ||| words } else r)
  else { r with mask := r.mask &&& ~~~words }

/-- The words of a line that `n` bytes at a physical address touch. -/
def wordsOf (pa n : Nat) : W32 :=
  maskOf fun k => decide ((pa % 128) / 4 ≤ k) && decide (k ≤ (pa % 128 + n - 1) / 4)

/-- The 128 bytes of a line as DRAM holds them once a dirty copy of L2 is written back. -/
def MemSys.bankLine (m : MemSys) (line : Nat) : Store 8 :=
  match m.l2Line line with
  | some x => if x.dirty then x.data else Store.slice m.mem (128 * line) 128
  | none => Store.slice m.mem (128 * line) 128

/-- The home logs the line's old contents at the context's first write in its open interval, before the write performs (R424). -/
def State.logWrite (s : State) (c : BitVec 12) (pa n : Nat) : State :=
  match s.ctx c with
  | none => s
  | some x =>
    if !logged pa then s
    else
      let line := lineOf pa
      let first := !s.hasLog c x.opened line
      let logs := if first then s.ck.logs ++ [{ c := c, n := x.opened, line := line, old := s.m.homeLine line, bank := s.m.bankLine line, mask := 0 }] else s.ck.logs
      let s1 : State := { s with ck := { s.ck with logs := logs.map (markLog c x.opened line (wordsOf pa n)) } }
      if first then s1.meventAt pa (some c) 0x08 else s1

/-! ## The representative (R183, R184) -/

/-- Who writes: its group and the name of its access, its rank, its order stamp, and whether it always replaces (a strong or release write or an atomic). -/
structure Writer where
  gid : Nat
  log : Nat
  core : Nat
  slot : Nat
  lane : Nat
  ostamp : W64
  always : Bool
  deriving DecidableEq, Repr

/-- rank(w) ≥ rank(p), field by field from the left (R184). -/
def rankGe (c s l c' s' l' : Nat) : Bool :=
  decide (c' < c) || (decide (c = c') && (decide (s' < s) || (decide (s = s') && decide (l' ≤ l))))

/-- The rank of a write is not below that of a representative (R184); between writes of one group, which may have moved, that of their lanes decides (R149). -/
def Race.yields (p : Race) (w : Writer) : Bool :=
  if w.gid = p.gid then decide (p.lane ≤ w.lane) else rankGe w.core w.slot w.lane p.core p.slot p.lane

/-- The write replaces the representative of a word (R183). A word without a record has an initial write. DESIGN CHOICE (log 95): a write of a split by a lane below
that of an earlier one is discarded inside its window like any other, though R189's last rule speaks of no such write. -/
def State.replaces (s : State) (w : Writer) (word : Nat) : Bool :=
  match s.m.races.find? fun p => decide (p.word = word) with
  | none => true
  | some p => w.always || p.yields w || decide (p.perf ≤ w.ostamp) || decide (p.perf.toNat + p.rho.toNat ≤ s.dev.time.toNat)

/-- The number of the word at a place of a space, as race records have it. -/
def placeNo : Space → Nat → Nat
  | .vm, k => k / 4
  | .scratch, k => 2 ^ 64 + k / 4
  | .column, k => 2 ^ 65 + k / 4
  | .chip, k => 2 ^ 66 + k / 4

/-- A write leaves its record on a word. -/
def MemSys.note (m : MemSys) (w : Writer) (word : Nat) (time rho : W64) : MemSys :=
  { m with races := (m.races.filter fun p => decide (p.word ≠ word)) ++
      [{ word := word, gid := w.gid, core := w.core, slot := w.slot, lane := w.lane, perf := time, rho := rho }] }

/-- The record that a write leaves on a word. DESIGN CHOICE (log 71): a write narrower than a word leaves its record on the whole word. -/
def State.record (s : State) (w : Writer) (pa word : Nat) : State :=
  { s with m := s.m.note w word s.dev.time (BitVec.ofNat 64 (s.leaseLength pa)) }

/-- The words no longer carry a rank or a performance time: what they hold acts as an initial write (R183, R330, R427). -/
def MemSys.initial (m : MemSys) (pa n : Nat) : MemSys :=
  { m with races := m.races.filter fun p => decide (p.word < pa / 4) || decide ((pa + n - 1) / 4 < p.word) }

/-- One write performs on the bytes of one word (R183). At a home of the base die each write replaces. The checkpoint store takes no write (R421; DESIGN CHOICE,
log 105: one to it has no effect). -/
def State.performWord (s : State) (w : Writer) (ms : Bool) (pa n v : Nat) : State :=
  let put := fun (s : State) => ({ s with m := (s.m.putHome ms pa n v).rewrite w.log pa n } : State)
  if inStore pa then s else if ms || s.replaces w (pa / 4) then put (s.record w pa (pa / 4)) else s

/-- A write performs on `n` bytes, word by word; an 8-byte strong write or atomic replaces as one. -/
def State.performBytes (s : State) (w : Writer) (ms : Bool) (pa n v : Nat) : State :=
  if n ≤ 4 then s.performWord w ms pa n v
  else (s.performWord w ms pa 4 v).performWord w ms (pa + 4) (n - 4) (v / 2 ^ 32)

/-! ## The directory and the keel staging caches (R387, R388) -/

/-- The directory entry of a line; Invalid when there is none. -/
def MemSys.dirOf (m : MemSys) (line : Nat) : Option DirEntry := m.dir.find? fun d => decide (d.line = line)

/-- The directory entry of a line, or an Invalid one. -/
def MemSys.dirEntry (m : MemSys) (line : Nat) : DirEntry := (m.dirOf line).getD { line := line, owner := none, sharers := [] }

/-- An agent no longer holds the line (R387). -/
def DirEntry.leave (d : DirEntry) (agent : Nat) : DirEntry :=
  { d with sharers := d.sharers.filter (fun a => decide (a ≠ agent)), owner := if d.owner = some agent then none else d.owner }

/-- Writes a directory entry; an entry without owner and sharers is Invalid. -/
def MemSys.setDir (m : MemSys) (d : DirEntry) : MemSys :=
  let rest := m.dir.filter fun x => decide (x.line ≠ d.line)
  { m with dir := if d.owner = none ∧ d.sharers = [] then rest else rest ++ [d] }

/-- The line of a keel staging cache. -/
def MemSys.keelLine (m : MemSys) (cache line : Nat) : Option KeelLine :=
  m.keel.find? fun k => decide (k.cache = cache) && decide (k.line = line)

/-- Writes a line of a keel staging cache. -/
def MemSys.setKeel (m : MemSys) (k : KeelLine) : MemSys :=
  { m with keel := (m.keel.filter fun x => !(decide (x.cache = k.cache) && decide (x.line = k.line))) ++ [k] }

/-- A line leaves a keel staging cache. -/
def MemSys.dropKeel (m : MemSys) (cache line : Nat) : MemSys :=
  { m with keel := m.keel.filter fun x => !(decide (x.cache = cache) && decide (x.line = line)) }

/-- A write of a path is about to perform at the pool's home agent: the pool memory has not completed it, and keeps the old bytes until it has (R392). -/
def State.newPool (s : State) (path pa n gid log : Nat) (lanes : W32) (c : BitVec 12) (j : BitVec 8) : State :=
  if tierOf pa ≠ some .pool then s
  else { s with seq := s.seq + 1, fab := { s.fab with poolWrites := s.fab.poolWrites ++
    [{ rid := s.seq + 1, pa := pa, size := n, old := s.m.homeRead pa n, path := path, gid := gid, log := log, lanes := lanes, ctx := c, inc := j, since := s.dev.time }] } }

/-- A byte of the pool as its memory holds it: what the home agent serves, but for the writes the memory has not completed (R392). -/
def State.poolByte (s : State) (a : Nat) : Byte :=
  match s.fab.poolWrites.find? fun p => decide (p.pa ≤ a) && decide (a < p.pa + p.size) with
  | some p => byteOf p.old (a - p.pa)
  | none => s.m.homeByte a

/-- Two pool writes meet. -/
def PoolWrite.meets (p q : PoolWrite) : Bool := decide (p.pa < q.pa + q.size) && decide (q.pa < p.pa + p.size)

/-- Who a dirty word writes as: the rank and stamp of its last write, in a write-back with a name (R388). -/
def DirtyWord.writer (d : DirtyWord) (log : Nat) : Writer :=
  { gid := d.gid, log := log, core := d.core, slot := d.slot, lane := 32, ostamp := d.ostamp, always := false }

/-- The dirty words of a staging-cache line perform at the home with the rank and stamp the cache kept (R388); a write-back of a whole sector clears its poison. -/
def State.performKeel (s : State) (k : KeelLine) : State :=
  let s1 := k.dirty.foldl (fun s d =>
    ((s.newPool 2 (4 * d.word) 4 d.gid 0 (BitVec.allOnes 32) d.ctx d.inc).logWrite d.ctx (4 * d.word) 4).performWord (d.writer (gleanName k.cache k.line)) k.ms
      (4 * d.word) 4 (Store.getLE k.data (4 * d.word % 128) 4)) s
  { s1 with m := { s1.m with covers := s1.m.covers.filter fun c => decide (c.log ≠ gleanName k.cache k.line),
                             waiting := s1.m.waiting.filter fun w => decide (w.who ≠ gleanName k.cache k.line) } }

/-- The write-back of the line that a keel staging cache owns: it performs, and the cache keeps the line clean (`keep`) or loses it. -/
def State.writeBack (s : State) (cache line : Nat) (keep : Bool) : State :=
  match s.m.keelLine cache line with
  | none => s
  | some k =>
    let s1 := s.performKeel k
    { s1 with m := if keep then s1.m.setKeel { k with dirty := [] } else s1.m.dropKeel cache line }

/-- A write at the home, or a memory-side operation: an owner is recalled and its write-back performs; sharers are invalidated; the
entry becomes Invalid (R387, R279). -/
def State.recall (s : State) (line : Nat) : State :=
  match s.m.dirOf line with
  | none => s
  | some d =>
    let s1 := match d.owner with
      | some a => s.writeBack (a - 32) line false
      | none => s
    { s1 with m := { s1.m.setDir { line := line, owner := none, sharers := [] } with
        keel := s1.m.keel.filter fun k => decide (k.line ≠ line) } }

/-- A memory-side operation: an owner is recalled and its write-back performs; a cache that holds the line clean keeps its copy (R279). -/
def State.recallOwner (s : State) (line : Nat) : State :=
  match s.m.dirOf line with
  | none => s
  | some d =>
    match d.owner with
    | none => s
    | some a =>
      let s1 := s.writeBack (a - 32) line false
      { s1 with m := s1.m.setDir { line := line, owner := none, sharers := [] } }

/-- The request is a write that has arrived at the home of a line and not performed. -/
def Req.waitsAt (q : Req) (line : Nat) : Bool :=
  decide (q.kind ≠ .load) && decide (q.arrived ≠ 0) && !q.performed && decide (q.space = .vm) && decide (lineOf q.key = line)

/-- When `who` arrived at the home of a line; 0 if it has not. -/
def MemSys.arrivalOf (m : MemSys) (line who : Nat) : Nat :=
  match m.reqs.find? fun q => decide (q.rid = who) && q.waitsAt line with
  | some q => q.arrived
  | none => match m.waiting.find? fun w => decide (w.line = line) && decide (w.who = who) with | some w => w.turn | none => 0

/-- Every earlier request for a line has been handled by its home: no write that arrived before that of `who` still waits there (R388); one that has not arrived
yet, or has no name (0), comes after all. -/
def State.lineTurn (s : State) (line who : Nat) : Bool :=
  let n := s.m.arrivalOf line who
  (s.m.reqs.all fun q => !q.waitsAt line || decide (q.rid = who) || (decide (n ≠ 0) && decide (n ≤ q.arrived))) &&
    s.m.waiting.all fun w => decide (w.line ≠ line) || decide (w.who = who) || decide (2 ^ 64 ≤ w.who) || (decide (n ≠ 0) && decide (n ≤ w.turn))

/-! ## A write at its home (R182, R183, R387, R424) -/

/-- A stack in self-refresh holds the requests to it (R298). -/
def State.stackHeld (s : State) (pa : Nat) : Bool :=
  decide (tierOf pa = some .hbm) && s.eng.selfRefresh.any fun k => decide (k = stackAt pa)

/-- The pseudo-channel of a physical address. -/
def pcOf (pa : Nat) : Nat := Config.pseudoChannelOf (pa / 0x200000)

/-- The sequence has begun (R290). -/
def NbSeq.started (q : NbSeq) : Bool := decide (q.t ≠ 0) || decide (q.idx ≠ 0) || decide (q.ops ≠ 0)

/-- An access to DRAM waits at its pseudo-channel for the next yield of the sequence that runs there (R291, R292). DESIGN CHOICE (log 87): those of the groups
do; a walk, a fetch or an engine's access is served at any row boundary. -/
def State.nbBusy (s : State) (pa : Nat) : Bool :=
  !s.eng.nb.isEmpty && decide (tierOf pa = some .hbm) && (s.m.l2Line (lineOf pa)).isNone &&
    (match s.eng.nb.find? fun q => decide (q.pc = pcOf pa) with | some q => q.started && !q.serving | none => false)

/-- The log has room for the write of a context, or has its line already (R424). -/
def State.logRoom (s : State) (c : BitVec 12) (pa : Nat) : Bool :=
  !logged pa || !s.logFull c || (match s.ctx c with | some x => s.hasLog c x.opened (lineOf pa) | none => true)

/-- The leases of the line are over, its stack is awake, the log has room (R164, R298, R424). -/
def State.homeClear (s : State) (c : BitVec 12) (pa : Nat) : Bool := s.leaseOver (lineOf pa) && !s.stackHeld pa && s.logRoom c pa

/-- Nothing but the order of its own split holds a write back: the home is clear, and no BISnp is ahead (R391). -/
def State.homeReady (s : State) (c : BitVec 12) (pa : Nat) : Bool := s.homeClear c pa && !s.snooped (lineOf pa)

/-- The dirty words of a staging-cache line can perform now for `who`: the leases are over, its stack is awake, the log has room, and it is the line's turn. -/
def State.lineReady (s : State) (who : Nat) (k : KeelLine) : Bool := (k.dirty.all fun d => s.homeReady d.ctx (4 * d.word)) && s.lineTurn k.line who

/-- The directory's agent number of a keel staging cache. -/
def agentOf (cache : Nat) : Nat := cache + 32

/-- The cache that owns a line holds words whose write-back cannot perform yet: a request at the home waits for its recall (R387). -/
def State.ownerHeld (s : State) (line : Nat) : Bool :=
  match (s.m.dirOf line).bind fun d => d.owner with
  | none => false
  | some a => (match s.m.keelLine (a - 32) line with | some k => k.dirty.any fun d => !s.homeReady d.ctx (4 * d.word) | none => false)

/-- A write of `who` can perform at its home now: nothing at the place holds it back, it is the line's turn, and an owner can be recalled (R164, R387, R388). -/
def State.homeFree (s : State) (who : Nat) (c : BitVec 12) (pa : Nat) : Bool :=
  s.homeReady c pa && s.lineTurn (lineOf pa) who && !s.ownerHeld (lineOf pa)

/-- A fill of a line, or a request for its ownership, by the agent `me` waits at the home: behind a BISnp (R391), behind what arrived before it, and for the recall of
another owner (R387, R388). DESIGN CHOICE (log 104): reads that no directory follows, those of R164, pass a write that waits, and a fill that waits holds no place. -/
def State.fillWaits (s : State) (who me line : Nat) : Bool :=
  s.snooped line || !s.lineTurn line who || (decide ((s.m.dirEntry line).owner ≠ some me) && s.ownerHeld line)

/-- An owner other than `me` writes its dirty words back and keeps the line clean, as a sharer. -/
def State.demote (s : State) (me line : Nat) : State :=
  let d := s.m.dirEntry line
  match d.owner with
  | none => s
  | some a =>
    if a = me then s
    else
      let s1 := s.writeBack (a - 32) line true
      { s1 with m := s1.m.setDir { d with owner := none, sharers := d.sharers ++ [a] } }

/-- An agent takes a clean copy of a line: it is listed as a sharer (R387). -/
def State.shareLine (s : State) (agent line : Nat) : State :=
  let s1 := s.demote agent line
  let d := s1.m.dirEntry line
  if d.sharers.any (fun x => decide (x = agent)) || decide (d.owner = some agent) then s1
  else { s1 with m := s1.m.setDir { d with sharers := d.sharers ++ [agent] } }

/-- A write performs at its home in memory, once no other copy stands against it: the old value is logged, poison is cleared. -/
def State.performAt (s : State) (c : BitVec 12) (w : Writer) (ms : Bool) (pa n v : Nat) : State :=
  if inStore pa then s else (s.logWrite c pa n).performBytes w ms pa n v

/-- A write of any path performs at its home: an owner's words perform first, every sharer loses its copy (R387). -/
def State.performWrite (s : State) (c : BitVec 12) (w : Writer) (ms : Bool) (pa n v : Nat) : State :=
  (s.recall (lineOf pa)).performAt c w ms pa n v

/-- A memory-side operation performs at the base die: an owner's words perform first, a clean copy stays (R279). -/
def State.performSide (s : State) (c : BitVec 12) (w : Writer) (pa n v : Nat) : State :=
  (s.recallOwner (lineOf pa)).performAt c w true pa n v

/-! ## Page tables (R324–R332) -/

/-- The kind of an access (R329). -/
inductive Acc where
  | read
  | write
  | exec
  | atomic
  deriving DecidableEq, Repr

/-- The page fault of an access (R329). -/
def Acc.fault : Acc → Nat
  | .read => 0x06
  | .write => 0x07
  | .exec => 0x08
  | .atomic => 0x07

/-- The PPN of an entry as a physical address (R325). -/
def ptePa (p : W64) : Nat := (p.extractLsb' 12 40).toNat * 4096

/-- The tier of a leaf (R325). -/
def pteTier (p : W64) : Tier :=
  match (p.extractLsb' 52 2).toNat with
  | 0 => .hbm
  | 1 => .lpd
  | 2 => .flash
  | _ => .pool

/-- The bytes a leaf maps at a level (R324). -/
def pageBytes (level : Nat) : Nat := 2 ^ (12 + 9 * (level - 1))

/-- An entry at a level is a leaf (R325). -/
def pteLeaf (level : Nat) (p : W64) : Bool := decide (level = 1) || p.getLsbD 55

/-- The rule that makes an entry with V = 1 malformed, as WDET numbers it; 0 for none (R327, R345). DESIGN CHOICE (log 103): CONT set on a leaf of level 2 or 3, which R325
gives no meaning, counts as a reserved bit. -/
def pteRule (level : Nat) (p : W64) : Nat :=
  let leaf := pteLeaf level p
  if p.extractLsb' 57 7 ≠ 0#7 then 1
  else if leaf = false ∧ (p.extractLsb' 52 3 ≠ 0#3 ∨ p.extractLsb' 1 11 ≠ 0#11 ∨ p.getLsbD 56) then 1
  else if leaf = true ∧ p.getLsbD 54 ∧ level ≠ 1 then 1
  else if (4 ≤ level ∧ p.getLsbD 55) ∨ (level = 1 ∧ p.getLsbD 55 = false) then 2
  else if leaf = true ∧ ptePa p % pageBytes level ≠ 0 then 3
  else if leaf = false ∧ ¬(tierOf (ptePa p) = some .hbm ∨ tierOf (ptePa p) = some .lpd) then 4
  else if leaf = true ∧ tierOf (ptePa p) ≠ some (pteTier p) then 5
  else if leaf = true ∧ (p.getLsbD 9 ∨ p.getLsbD 10) ∧ pteTier p ≠ .hbm then 6
  else if leaf = true ∧ p.getLsbD 11 ∧ (pteTier p ≠ .flash ∨ p.extractLsb' 1 3 ≠ 0#3) then 7
  else if leaf = true ∧ p.getLsbD 56 ∧ (pteTier p ≠ .lpd ∨ level ≠ 1) then 8
  else 0

/-- A leaf found for an address: the entry, its level, and where it lies. -/
structure Leaf where
  pte : W64
  level : Nat
  slot : Nat
  deriving DecidableEq, Repr

/-- The outcome of a walk: a leaf, the level and the rule of a fault (0 for V = 0), or an entry whose data is poisoned (R433). -/
inductive Walk where
  | leaf (l : Leaf)
  | bad (level rule : Nat)
  | poison
  deriving DecidableEq, Repr

/-- The address of the entry of a virtual address in a table at a level (R324). -/
def pteSlot (table level : Nat) (va : W64) : Nat := table + 8 * bits va.toNat (12 + 9 * level - 1) (12 + 9 * (level - 1))

/-- The walk from a table at a level down, reading entries at their homes (R324–R330). -/
def MemSys.walk (m : MemSys) (va : W64) : Nat → Nat → Walk
  | 0, _ => .bad 1 2
  | n + 1, table =>
    let slot := pteSlot table (n + 1) va
    let p := BitVec.ofNat 64 (m.homeRead slot 8)
    if m.poisoned slot 8 then .poison
    else if p.getLsbD 0 = false then .bad (n + 1) 0
    else if pteRule (n + 1) p ≠ 0 then .bad (n + 1) (pteRule (n + 1) p)
    else if pteLeaf (n + 1) p then .leaf { pte := p, level := n + 1, slot := slot }
    else MemSys.walk m va n (ptePa p)

/-- The leaves below a table at a level whose entries a test admits. -/
def MemSys.leavesOf (m : MemSys) (p : W64 → Bool) : Nat → Nat → List Leaf
  | 0, _ => []
  | n + 1, table => (List.range 512).flatMap fun k =>
    let e := BitVec.ofNat 64 (m.homeRead (table + 8 * k) 8)
    if e.getLsbD 0 = false ∨ pteRule (n + 1) e ≠ 0 then []
    else if pteLeaf (n + 1) e then (if p e then [{ pte := e, level := n + 1, slot := table + 8 * k }] else [])
    else MemSys.leavesOf m p n (ptePa e)

/-- The bits of a leaf other than A and D. -/
def pteCore (p : W64) : W64 := p &&& ~~~0xC0#64

/-- The 16 entries of an aligned 64 KiB group (R326), the first at `base`. -/
def MemSys.contGroup (m : MemSys) (base : Nat) : List W64 :=
  (List.range 16).map fun k => BitVec.ofNat 64 (m.homeRead (base + 8 * k) 8)

/-- A CONT group as system software must write it (R326). -/
def contOk (es : List W64) : Bool :=
  let first := es.headD 0#64
  decide (ptePa first % 0x10000 = 0) &&
    (List.range 16).all fun k => decide (pteCore (es.getD k 0#64) = pteCore first + BitVec.ofNat 64 (4096 * k))

/-- The level-1 slot of an address where the tables above it lead there, from a table at a level down. -/
def MemSys.slotAt1 (m : MemSys) (va : W64) : Nat → Nat → Option Nat
  | 0, _ => none
  | n + 1, table =>
    let slot := pteSlot table (n + 1) va
    let p := BitVec.ofNat 64 (m.homeRead slot 8)
    if n = 0 then some slot
    else if p.getLsbD 0 = false ∨ pteRule (n + 1) p ≠ 0 ∨ pteLeaf (n + 1) p then none
    else MemSys.slotAt1 m va n (ptePa p)

/-- The entry asks the TLB to hold its group of 16 (R326). -/
def asksCont (p : W64) : Bool := p.getLsbD 0 && p.getLsbD 54 && decide (pteRule 1 p = 0)

/-- What a walk to a level-1 slot gives where some entry of its group asks for CONT: the page's own entry, or where the group breaks R326 possibly that of another
of the 16, offset to the page, with the A and D bits of its own (R326). -/
def State.contWalk (s : State) (va : W64) (slot : Nat) (own : Walk) : Walk :=
  let base := slot / 128 * 128
  let es := s.m.contGroup base
  let k := Config.choose s.fresh va.toNat % 17
  let p := es.getD k 0#64
  let n := (slot - base) / 8
  if !es.any asksCont || contOk es || decide (k = 16) || !p.getLsbD 0 || decide (pteRule 1 p ≠ 0) then own
  else .leaf { pte := (pteCore p + BitVec.ofNat 64 (4096 * n) - BitVec.ofNat 64 (4096 * k)) ||| (es.getD n 0#64 &&& 0xC0#64), level := 1, slot := slot }

/-- The level-5 table of a context (R359). -/
def State.rootOf (s : State) (c : BitVec 12) : Nat := match s.ctx c with | some x => x.root | none => 0

/-- The walk of an address from a table at a level down, as its entries stand now (R324–R330). -/
def State.walkBelow (s : State) (va : W64) (level table : Nat) : Walk :=
  let own := s.m.walk va level table
  match s.m.slotAt1 va level table with
  | none => own
  | some slot => s.contWalk va slot own

/-- The walk of an address from its context's level-5 table. -/
def State.walkNow (s : State) (c : BitVec 12) (va : W64) : Walk := s.walkBelow va 5 (s.rootOf c)

/-- The virtual page number that a TLB entry at a level holds. -/
def vpnOf (va : W64) (level : Nat) : Nat := va.toNat / pageBytes level

/-- A TLB entry maps the address: its own page, or with CONT the aligned 64 KiB (R326). -/
def TlbEntry.maps (t : TlbEntry) (va : W64) : Bool :=
  decide (t.vpn = vpnOf va t.level) || (decide (t.level = 1) && t.pte.getLsbD 54 && decide (t.vpn / 16 = vpnOf va 1 / 16))

/-- The leaf that a TLB entry gives: for another page of its 64 KiB, offset to it and with A and D not known to be set (R326). -/
def TlbEntry.leaf (t : TlbEntry) (va : W64) : Leaf :=
  let n := vpnOf va t.level
  if n = t.vpn then { pte := t.pte, level := t.level, slot := t.slot }
  else { pte := pteCore t.pte + BitVec.ofNat 64 (4096 * n) - BitVec.ofNat 64 (4096 * t.vpn), level := t.level, slot := t.slot + 8 * n - 8 * t.vpn }

/-- Who asks for a translation: the core whose TLB serves it, the name under which it waits, its tag, and whether it has APP rights only. -/
structure Asker where
  core : Nat
  who : Nat
  ctx : BitVec 12
  inc : BitVec 8
  app : Bool
  deriving DecidableEq, Repr

/-- A group asks. -/
def Group.asker (g : Group) : Asker := { core := g.core, who := g.gid, ctx := g.ctx, inc := g.inc, app := decide (g.level = 0) }

/-- The cached translations that serve a request (R331). -/
def MemSys.tlbHits (m : MemSys) (a : Asker) (va : W64) : List TlbEntry :=
  m.tlb.filter fun t => decide (t.core = a.core) && (t.glob || (decide (t.ctx = a.ctx) && decide (t.inc = a.inc))) && t.maps va

/-- A cached leaf gives what the present entry does not: other bits, another level, or an A or D bit that is clear now (R332). -/
def Leaf.stale (l : Leaf) : Walk → Bool
  | .leaf n => decide (pteCore l.pte ≠ pteCore n.pte) || decide (l.level ≠ n.level) || decide (l.pte &&& ~~~n.pte ≠ 0#64)
  | .bad _ _ => true
  | .poison => true

/-- The table entries that walks of the address have cached (R331). -/
def MemSys.tableHits (m : MemSys) (a : Asker) (va : W64) : List TableEntry :=
  m.tables.filter fun t => decide (t.core = a.core) && decide (t.ctx = a.ctx) && decide (t.inc = a.inc) && decide (t.vpn = vpnOf va t.level)

/-- What the caches offer for an address beside the present walk: cached leaves that differ from it, and walks on from cached table entries (R332). -/
def State.oldWalks (s : State) (a : Asker) (va : W64) (now : Walk) : List Walk :=
  (((s.m.tlbHits a va).map fun t => t.leaf va).filter fun l => l.stale now).map Walk.leaf ++
    ((s.m.tableHits a va).map fun t => s.walkBelow va (t.level - 1) (ptePa t.pte)).filter fun w => decide (w ≠ now)

/-- The walk an access uses: the present one, or where the caches offer another either of them (R332, log 12). A TLB that holds the leaf reads no poisoned entry. -/
def State.leafFor (s : State) (a : Asker) (va : W64) : Walk :=
  let now := s.walkNow a.ctx va
  match s.oldWalks a va now with
  | [] => now
  | w :: t => if now = .poison ∨ Config.stalePick s.fresh va then (w :: t).getD (Config.choose s.fresh va.toNat % (t.length + 1)) w else now

/-- The outcome of a translation: an address with its leaf, a fault with its cause and WDET, a wait for the home of the leaf, whose A or D bit cannot be set yet (R330,
R164), or the end of the context's work: its walk has read poison and it rolls back (R433). -/
inductive Xlate where
  | ok (pa : Nat) (pte : W64)
  | fault (cause : Nat) (wdet : W64)
  | wait
  | over
  deriving DecidableEq, Repr

/-- R329's checks of a leaf for a group access; 0 when all pass. -/
def leafCause (app : Bool) (k : Acc) (p : W64) : Nat :=
  let wr := p.getLsbD 2 && decide (pteTier p ≠ .flash)
  if p.getLsbD 4 && app then 0x09
  else if p.getLsbD 11 then 0x09
  else
    match k with
    | .read => if p.getLsbD 1 then 0 else 0x06
    | .write => if wr then 0 else 0x07
    | .exec => if p.getLsbD 3 then 0 else 0x08
    | .atomic => if p.getLsbD 1 && wr then 0 else 0x07

/-- The A and D bits that the access must find set (R330). D is never set on a flash leaf. -/
def needBits (k : Acc) (p : W64) : W64 :=
  match k with
  | .read | .exec => 0x40#64
  | .write | .atomic => if pteTier p = .flash then 0x40#64 else 0xC0#64

/-- WDET of a fault (R345). -/
def wdetOf (level rule : Nat) : W64 := BitVec.ofNat 64 (16 * level + rule)

/-- A TLB keeps a leaf (R331); one that differs from it only in A and D is replaced, any other stays beside it (R332). -/
def MemSys.cache (m : MemSys) (a : Asker) (va : W64) (l : Leaf) : MemSys :=
  let e : TlbEntry := { core := a.core, ctx := a.ctx, inc := a.inc, glob := l.pte.getLsbD 5, level := l.level, slot := l.slot, vpn := vpnOf va l.level, pte := l.pte }
  if m.tlb.any fun t => decide (t = e) then m
  else { m with tlb := (m.tlb.filter fun t => decide ({ t with pte := pteCore t.pte } ≠ { e with pte := pteCore e.pte })) ++ [e] }

/-- The line at the L2 is counted (R166). -/
def MemSys.countedLine (m : MemSys) (line : Nat) : Bool := match m.l2Line line with | some x => decide (x.count ≠ 0) | none => false

/-- The table entries on a walk, from a table at a level down. -/
def MemSys.tablesOn (m : MemSys) (a : Asker) (va : W64) : Nat → Nat → List TableEntry
  | 0, _ => []
  | n + 1, table =>
    let p := BitVec.ofNat 64 (m.homeRead (pteSlot table (n + 1) va) 8)
    if p.getLsbD 0 = false ∨ pteRule (n + 1) p ≠ 0 ∨ pteLeaf (n + 1) p then []
    else { core := a.core, ctx := a.ctx, inc := a.inc, level := n + 1, vpn := vpnOf va (n + 1), pte := p } :: MemSys.tablesOn m a va n (ptePa p)

/-- A walk leaves the table entries it read in the walk caches (R331, R365). -/
def State.cacheTables (s : State) (a : Asker) (va : W64) : State :=
  let seen := (s.m.tablesOn a va 5 (s.rootOf a.ctx)).filter fun t => !s.m.tables.contains t
  { s with m := { s.m with tables := s.m.tables ++ seen } }

/-- The slots that a walk reads, from a table at a level down. -/
def MemSys.walkSlots (m : MemSys) (va : W64) : Nat → Nat → List Nat
  | 0, _ => []
  | n + 1, table =>
    let slot := pteSlot table (n + 1) va
    let p := BitVec.ofNat 64 (m.homeRead slot 8)
    slot :: (if p.getLsbD 0 = false ∨ pteRule (n + 1) p ≠ 0 ∨ pteLeaf (n + 1) p then [] else MemSys.walkSlots m va n (ptePa p))

/-- A translation that no TLB holds walks: each of its reads at the home lowers the count of a counted line (R166, R330). -/
def State.walkReads (s : State) (a : Asker) (va : W64) : State :=
  if (s.m.l2.all fun x => decide (x.count = 0)) || !(s.m.tlbHits a va).isEmpty then s
  else { s with m := (s.m.walkSlots va 5 (s.rootOf a.ctx)).foldl (fun m k => if m.countedLine (lineOf k) then m.readL2 (lineOf k) 0 else m) s.m }

/-- A bit of a leaf can be set now: leases over, no write ahead of it at the home, no owner to wait for (R164, R387, R388). -/
def State.leafReady (s : State) (slot : Nat) : Bool :=
  s.leaseOver (lineOf slot) && s.lineTurn (lineOf slot) 0 && !s.ownerHeld (lineOf slot)

/-- The entry at a slot is no longer the one a leaf was taken from (R330). -/
def MemSys.leafGone (m : MemSys) (l : Leaf) : Bool :=
  let p := BitVec.ofNat 64 (m.homeRead l.slot 8)
  !p.getLsbD 0 || decide (ptePa p ≠ ptePa l.pte)

/-- The atomic OR of A and D bits into an entry at its home, if V is still set; no race record is left (R330). -/
def State.setLeafBits (s : State) (slot : Nat) (nd : W64) : State :=
  let p := BitVec.ofNat 64 (s.m.homeRead slot 8)
  if !p.getLsbD 0 then s
  else
    let s1 := s.recall (lineOf slot)
    { s1 with m := (s1.m.putHome false slot 8 (p ||| nd).toNat).initial slot 8 }

/-- The memory system after an access to an address: that of a tensor is its latest (R337). -/
def State.touch (s : State) (c : BitVec 12) (va : W64) : MemSys :=
  match s.fl.handles.find? fun h => h.live && decide (h.ctx = c) && decide (h.base ≤ va) && decide (va.toNat < h.base.toNat + 4096 * h.pages) with
  | none => s.m
  | some h =>
    { s.m with uses := (s.m.uses.filter fun u => !(decide (u.ctx = c) && decide (u.idx = h.idx))) ++ [{ ctx := c, idx := h.idx, gen := h.gen, time := s.dev.time }] }

/-- The present state of a context says that it has consumed poison since its last commit. -/
def State.tainted (s : State) (c : BitVec 12) : Bool := match s.ctx c with | some x => x.poisoned | none => false

/-- The page is memory-side (R278). -/
def pteMs (p : W64) : Bool := p.getLsbD 9

/-- L2 holds no line of a page with MS: one that it holds from before the page had MS leaves when an access finds the page so (R207, R278). -/
def MemSys.leaveMs (m : MemSys) (p : W64) (pa : Nat) : MemSys := if pteMs p then m.evictL2 (lineOf pa) else m

/-- A translation through a walk or a cached leaf: permission, the A and D bits, the address (R329–R331). A walk that reads poison ends the context's work, or is
poison consumed again (R433). -/
def State.useLeaf (s : State) (a : Asker) (k : Acc) (va : W64) : Walk → State × Xlate
  | .bad v r => (s, .fault k.fault (wdetOf v r))
  | .poison => (s, if s.tainted a.ctx then .fault 0x10 0 else .over)
  | .leaf l =>
    if leafCause a.app k l.pte ≠ 0 then (s, .fault (leafCause a.app k l.pte) 0)
    else
      let pa := ptePa l.pte + va.toNat % pageBytes l.level
      let nd := needBits k l.pte
      let s0 := s.forgetAt (walkName a.who) l.slot
      if l.pte &&& nd = nd then ({ s0 with m := ((s0.touch a.ctx va).cache a va l).leaveMs l.pte pa }, .ok pa l.pte)
      else if !s.leafReady l.slot then (s.await (walkName a.who) l.slot, .wait)
      else
        let s1 := s0.setLeafBits l.slot nd
        ({ s1 with m := ((s1.touch a.ctx va).cache a va { l with pte := l.pte ||| nd }).leaveMs l.pte pa }, .ok pa (l.pte ||| nd))

/-- The walk an access uses: where a bit must be set and the entry of a cached leaf has changed, it starts again (R330). -/
def State.walkFor (s : State) (a : Asker) (k : Acc) (va : W64) : Walk :=
  match s.leafFor a va with
  | .leaf l =>
    if leafCause a.app k l.pte = 0 ∧ l.pte &&& needBits k l.pte ≠ needBits k l.pte ∧ s.m.leafGone l then s.walkNow a.ctx va else .leaf l
  | w => w

/-- The access lies on a flash page. -/
def State.onFlash (s : State) (a : Asker) (k : Acc) (va : W64) : Bool :=
  match s.walkFor a k va with
  | .leaf l => decide (pteTier l.pte = .flash)
  | _ => false

/-- The address lies in a tensor whose move is in its switch phase: accesses park or are delayed (R338). -/
def State.switching (s : State) (c : BitVec 12) (va : W64) : Bool :=
  s.fl.moves.any fun v => v.switching.isSome && decide (v.ctx = c) && s.fl.handles.any fun h =>
    decide (h.ctx = c) && decide (h.idx = v.idx) && decide (h.base ≤ va) && decide (va.toNat < h.base.toNat + 4096 * h.pages)

/-- Translates an access, sets A and D and caches the leaf and the table entries on the way to it (R324–R332). -/
def State.translate (s : State) (a : Asker) (k : Acc) (va : W64) : State × Xlate :=
  if !canonical va then (s, .fault 0x09 0)
  else if s.switching a.ctx va then (s, .wait)
  else ((s.walkReads a va).cacheTables a va).useLeaf a k va (s.walkFor a k va)

/-- The entries of a table that some copy of memory lists. -/
def MemSys.listed (m : MemSys) (table : Nat) : List Nat :=
  ((Store.slice m.mem table 4096).map fun c => c.1 / 8) ++
    (m.l2.filter fun x => decide (128 * x.line / 4096 = table / 4096)).flatMap fun x => (List.range 16).map fun j => 128 * x.line % 4096 / 8 + j

/-- The level of the table that holds a slot, from a table at a level down. -/
def MemSys.levelBelow (m : MemSys) (slot : Nat) : Nat → Nat → Option Nat
  | 0, _ => none
  | n + 1, table =>
    if table ≤ slot ∧ slot < table + 4096 then some (n + 1)
    else (m.listed table).findSome? fun k =>
      let p := BitVec.ofNat 64 (m.homeRead (table + 8 * k) 8)
      if p.getLsbD 0 = false ∨ pteRule (n + 1) p ≠ 0 ∨ pteLeaf (n + 1) p then none else MemSys.levelBelow m slot n (ptePa p)

/-- The level of a leaf by its physical address: that of the table of some context that holds it; 1 where none does. -/
def State.leafLevel (s : State) (slot : Nat) : Nat := (s.ctxs.findSome? fun x => s.m.levelBelow slot 5 x.root).getD 1

/-- Some leaf with MS below a table at a level maps the line. -/
def MemSys.msBelow (m : MemSys) (line : Nat) : Nat → Nat → Bool
  | 0, _ => false
  | n + 1, table => (m.listed table).any fun k =>
    let p := BitVec.ofNat 64 (m.homeRead (table + 8 * k) 8)
    if p.getLsbD 0 = false ∨ pteRule (n + 1) p ≠ 0 then false
    else if pteLeaf (n + 1) p then pteMs p && decide (ptePa p / 128 ≤ line) && decide (line < (ptePa p + pageBytes (n + 1)) / 128)
    else MemSys.msBelow m line n (ptePa p)

/-! ## On-chip spaces (R152–R161) -/

/-- A team by its name. -/
def State.team (s : State) (tid : Nat) : Option Team := s.teams.find? fun t => decide (t.tid = tid)

/-- Changes a team. -/
def State.onTeam (s : State) (tid : Nat) (f : Team → Team) : State :=
  { s with teams := s.teams.map fun t => if t.tid = tid then f t else t }

/-- What the module keeps of a core position. -/
def State.coreRec (s : State) (core : Nat) : CoreRec :=
  (s.ck.cores.find? fun k => decide (k.core = core)).getD
    { core := core, epoch := 0, opened := false, commitAt := 0, lapsed := false, resumedAt := none, closed := false, failed := false,
      scan := none, passAt := none, ranSince := [], drained := 0, drainer := none, counts := [] }

/-- Changes the record of a core position. -/
def State.onCore (s : State) (core : Nat) (f : CoreRec → CoreRec) : State :=
  let r := f (s.coreRec core)
  { s with ck := { s.ck with cores := (s.ck.cores.filter fun k => decide (k.core ≠ core)) ++ [r] } }

/-- The tile of a core has no power (R412). What has not been placed again after a rollback stands on no core. -/
def State.lapsed (s : State) (core : Nat) : Bool := decide (1023 ≤ core) || (s.coreRec core).lapsed

/-- The key of a byte of a core's scratchpad. -/
def scratchKey (core b : Nat) : Nat := 0x40000 * core + b
/-- The key of a byte of a core's column memory. -/
def columnKey (core b : Nat) : Nat := 0x800000 * core + b
/-- The key of a byte of a quarter's chip scratchpad. -/
def chipKey (q b : Nat) : Nat := 0x2000000 * q + b

/-- The column window of a context on a core: base and size in bytes (R156, R359). -/
def State.columnWin (s : State) (c : BitVec 12) (core : Nat) : Nat × Nat :=
  match s.ctx c with
  | none => (0, 0)
  | some x =>
    let w := (Store.get x.columns core).toNat
    (bits w 6 0 * 0x10000, bits w 23 16 * 0x10000)

/-- The chip-scratchpad window of a context in a quarter: base and size in bytes (R160, R359). -/
def State.chipWin (s : State) (c : BitVec 12) (q : Nat) : Nat × Nat :=
  match s.ctx c with
  | none => (0, 0)
  | some x =>
    let w := (x.chips.getD q 0#32).toNat
    (bits w 8 0 * 0x10000, bits w 25 16 * 0x10000)

/-- A byte of a column memory as any read sees it: the write buffer holds what has not drained (R419). -/
def OnChip.columnByte (o : OnChip) (k : Nat) : Byte :=
  match o.colbuf.reverse.find? fun u => decide (u.core = k / 0x800000) && decide (u.unit = k % 0x800000 / 16) with
  | some u => Store.get u.data (k % 16)
  | none => Store.get o.column k

/-- A write of one byte of column memory enters the write buffer, in the unit's entry or a new one (R419). -/
def OnChip.putColumn (o : OnChip) (k : Nat) (v : Byte) : OnChip :=
  let core := k / 0x800000
  let unit := k % 0x800000 / 16
  if o.colbuf.any fun u => decide (u.core = core) && decide (u.unit = unit) then
    { o with colbuf := o.colbuf.map fun u =>
        if u.core = core ∧ u.unit = unit then { u with data := Store.put u.data (k % 16) v } else u }
  else
    { o with colbuf := o.colbuf ++ [{ core := core, unit := unit, data := Store.put (Store.slice o.column (k / 16 * 16) 16) (k % 16) v }] }

/-- The entries of a column write buffer (R419). -/
def columnUnits : Nat := 64

/-- The write buffer has room for `n` bytes of column memory at a key: their units are in it, or it takes them; a full buffer stalls the writer (R419). -/
def OnChip.columnRoom (o : OnChip) (k n : Nat) : Bool :=
  let mine := o.colbuf.filter fun u => decide (u.core = k / 0x800000)
  let first := k % 0x800000 / 16
  let units := (List.range ((k % 0x800000 + n - 1) / 16 + 1 - first)).map (first + ·)
  decide (mine.length + (units.filter fun x => mine.all fun u => decide (u.unit ≠ x)).length ≤ columnUnits)

/-- The oldest entry of a core's write buffer drains into the array (R419). -/
def OnChip.drainColumn (o : OnChip) (core : Nat) : OnChip :=
  match o.colbuf.find? fun u => decide (u.core = core) with
  | none => o
  | some u =>
    { o with colbuf := o.colbuf.erase u, column := Store.replace o.column (columnKey core (16 * u.unit)) 16 u.data }

/-- Every entry of a core's write buffer drains. -/
def OnChip.drainAll (o : OnChip) (core : Nat) : OnChip :=
  (o.colbuf.filter fun u => decide (u.core = core)).foldl (fun o _ => o.drainColumn core) o

/-- A byte of an on-chip space by its key. -/
def OnChip.byte (o : OnChip) : Space → Nat → Byte
  | .vm, _ => 0#8
  | .scratch, k => Store.get o.scratch k
  | .column, k => o.columnByte k
  | .chip, k => Store.get o.chip k

/-- Writes bytes of an on-chip space. -/
def OnChip.putLE (o : OnChip) (sp : Space) (k : Nat) : Nat → Nat → OnChip
  | 0, _ => o
  | n + 1, v =>
    let o1 := match sp with
      | .vm => o
      | .scratch => { o with scratch := Store.put o.scratch k (BitVec.ofNat 8 v) }
      | .column => o.putColumn k (BitVec.ofNat 8 v)
      | .chip => { o with chip := Store.put o.chip k (BitVec.ofNat 8 v) }
    OnChip.putLE o1 sp (k + 1) n (v / 256)

/-- The core whose array holds a key of a space; none for memory and the chip scratchpad. -/
def Space.core : Space → Nat → Option Nat
  | .scratch, k => some (k / 0x40000)
  | .column, k => some (k / 0x800000)
  | _, _ => none

/-- The virtual address of byte `b` of a lane's private slice (R161): word 4i + b of lane l at SB + g × 32 × S + (32 i + l) × 4 + b. -/
def sliceAddr (sb : W64) (grp size l off : Nat) : W64 :=
  sb + BitVec.ofNat 64 (grp * 32 * size + (32 * (off / 4) + l) * 4 + off % 4)

end Sys2Proof.Machine
end

