-- ==== Sys2Proof/Machine/OnChip.lean ====
section
/-!
DEFINITION. Sys2Proof/Machine/OnChip.lean: the operations on scratchpad words of a team, full/empty tags and their queues (R167–R171) and
transaction barriers (R173–R179, R229), which several instructions and events share.
-/

namespace Sys2Proof.Machine

open Sys2Proof

/-! ## The words of a team's allocation -/

/-- A word at an offset of a team's allocation, in the scratchpad or, for a swapped-out team, in its image (R179, R247). -/
def State.teamWord (s : State) (t : Team) (off : Nat) : W32 :=
  BitVec.ofNat 32 (if t.swapped then Store.getLE t.image off 4 else Store.getLE s.onchip.scratch (scratchKey t.core (t.base + off)) 4)

/-- Writes bytes at an offset of a team's allocation. -/
def State.putTeam (s : State) (t : Team) (off n v : Nat) : State :=
  if t.swapped then s.onTeam t.tid fun x => { x with image := Store.putLE x.image off n v }
  else { s with onchip := { s.onchip with scratch := Store.putLE s.onchip.scratch (scratchKey t.core (t.base + off)) n v } }

/-- Writes a word at an offset of a team's allocation. -/
def State.setTeamWord (s : State) (t : Team) (off : Nat) (v : W32) : State := s.putTeam t off 4 v.toNat

/-! ## The operand log -/

/-- The operand-log entry of an instruction by its name. -/
def Group.entryOf (g : Group) (id : Nat) : Option LogEntry := g.log.find? fun x => decide (x.seq = id)

/-- The lanes of a mask are complete; an entry without pending lanes is free (R206). -/
def Group.doneLanes (g : Group) (id : Nat) (m : W32) : Group :=
  let cut := g.log.map fun x => if x.seq = id then { x with pend := x.pend &&& ~~~m, flight := x.flight &&& ~~~m } else x
  { g with log := cut.filter fun x => decide (x.pend ≠ 0#32) }

/-- An entry is free, whatever is pending. -/
def Group.freeLog (g : Group) (id : Nat) : Group := { g with log := g.log.filter fun x => decide (x.seq ≠ id) }

/-- The lowest free number of the eight operand-log entries (R36). -/
def Group.freeEntry (g : Group) : Option Nat := (List.range 8).find? fun k => g.log.all fun x => decide (x.id ≠ k)

/-- An acquire below gang scope completes: the order stamp (R186). A stamp never decreases. -/
def Group.stampO (g : Group) (t : W64) : Group := { g with ostamp := if g.ostamp ≤ t then t else g.ostamp }

/-- The fresh stamp alone rises: no load of the group may hit an L1 line granted before (R186, R198; log 79). -/
def Group.raiseF (g : Group) (t : W64) : Group := { g with fstamp := if g.fstamp ≤ t then t else g.fstamp }

/-- An acquire at gang scope or wider completes: both stamps (R186). -/
def Group.stampF (g : Group) (t : W64) : Group := (g.stampO t).raiseF t

/-! ## Traps that are found while the group runs on -/

/-- The lowest lane that a report names. -/
def TrapReport.lane (t : TrapReport) : Nat := (lowest t.fmask).getD 32

/-- One report of two of the same access with the same cause: every lane that failed, the value of the lowest (R205). -/
def TrapReport.join (t u : TrapReport) : TrapReport :=
  { t with fmask := t.fmask ||| u.fmask, val := if u.lane < t.lane then u.val else t.val }

/-- A report of another group than the one in focus waits for its trap entry; the first one found stays, and takes in the lanes of the same access that fail with
the same cause before the entry (R205, R352). -/
def Group.found (g : Group) (t : TrapReport) : Group :=
  match g.trap with
  | none => { g with trap := some t }
  | some u => if u.logged = t.logged ∧ u.logged.isSome ∧ u.cause = t.cause then { g with trap := some (u.join t) } else g

/-- The report of a lane of a logged access that meets an armed slot (R174). -/
def armedReport (e : LogEntry) (lane slot : Nat) : TrapReport :=
  { cause := 0x11, async := false, val := BitVec.ofNat 64 slot, ins := encode e.i, fmask := laneBit lane, wdet := 0, logged := some e.id, entry := e.entry }

/-! ## Transaction barriers (R173–R179) -/

/-- The armed slot at an offset of a team's allocation (R174). -/
def State.armedAt (s : State) (tid off : Nat) : Option Armed :=
  s.onchip.armed.find? fun a => decide (a.tid = tid) && decide (a.slot = off)

/-- Some armed slot of the team meets the bytes from `off` on; its offset (R174, R213). -/
def State.armedIn (s : State) (tid off n : Nat) : Option Nat :=
  (s.onchip.armed.find? fun a => decide (a.tid = tid) && decide (a.slot < off + n) && decide (off < a.slot + 16)).map (·.slot)

/-- Changes an armed-slot entry. -/
def State.onArmed (s : State) (tid off : Nat) (f : Armed → Armed) : State :=
  { s with onchip := { s.onchip with armed := s.onchip.armed.map fun a => if a.tid = tid ∧ a.slot = off then f a else a } }

/-- The result word of TBWAIT (R229). -/
def waitWord (fault flipped : Bool) (code delivered : Nat) : W32 :=
  BitVec.ofNat 32 ((if fault then 0x80000000 else 0) + (if flipped then 0x40000000 else 0) + code % 64 * 0x1000000 + delivered % 0x1000000)

/-- A split waiting in TBWAIT is released with a result word: its register is written and it is ready; a flip acts as an acquire at
team scope (R229, R230). -/
def State.releaseBar (s : State) (w : BarWaiter) (word : W32) (acq : Bool) : State :=
  s.onGroup w.gid fun g =>
    match g.log.find? fun x => decide (x.entry = w.entry) && (match x.i with | .tbwait .. => true | _ => false) with
    | none => g
    | some e =>
      let g1 := (lanesOf e.pend).foldl (fun g l => g.deliverDst e.seq e.dst l (word.setWidth 64)) g
      let g2 := (g1.freeLog e.seq).onSplit w.entry fun x => { x with wait := .none }
      if acq then g2.stampO s.dev.time else g2

/-- Every waiter of a slot is released by one event (R229). -/
def State.releaseAll (s : State) (tid off : Nat) (word : W32) (acq : Bool) : State :=
  let mine := s.onchip.barWaits.filter fun w => decide (w.tid = tid) && decide (w.slot = off)
  let s1 := { s with onchip := { s.onchip with barWaits := s.onchip.barWaits.filter fun w => !(decide (w.tid = tid) && decide (w.slot = off)) } }
  mine.foldl (fun s w => s.releaseBar w word acq) s1

/-- The flip test (R175): arrived = quota, balance = 0, fault = 0. -/
def State.flipTest (s : State) (t : Team) (off : Nat) : State :=
  let w0 := (s.teamWord t off).toNat
  let w1 := s.teamWord t (off + 4)
  let w2 := (s.teamWord t (off + 8)).toNat
  if bits w0 15 0 = bits w0 30 16 ∧ w1 = 0#32 ∧ bits w2 31 31 = 0 then
    let last := BitVec.ofNat 24 (bits w2 23 0)
    let s1 := s.onArmed t.tid off fun a => { a with last := last, posted := 0 }
    let s2 := (s1.setTeamWord t off (BitVec.ofNat 32 ((1 - bits w0 31 31) * 0x80000000 + bits w0 30 16 * 0x10000))).setTeamWord t (off + 8) 0
    s2.releaseAll t.tid off (waitWord false true 0 last.toNat) true
  else s

/-- An arrival promising `b` bytes: balance −= b, then arrived += 1, then the flip test (R175). -/
def State.arrive (s : State) (t : Team) (off : Nat) (b : W32) : State :=
  let s1 := s.setTeamWord t (off + 4) (s.teamWord t (off + 4) - b)
  let w0 := s1.teamWord t off
  (s1.setTeamWord t off (w0 + 1#32)).flipTest t off

/-- A bound posting of `n` bytes: balance += n, delivered updated, then the flip test (R175). -/
def State.post (s : State) (tid off n : Nat) : State :=
  match s.team tid, s.armedAt tid off with
  | some t, some a =>
    let s1 := s.setTeamWord t (off + 4) (s.teamWord t (off + 4) + BitVec.ofNat 32 n)
    let s2 := s1.onArmed tid off fun x => { x with posted := a.posted + n }
    let w2 := (s2.teamWord t (off + 8)).toNat
    (s2.setTeamWord t (off + 8) (BitVec.ofNat 32 (w2 / 0x1000000 * 0x1000000 + min ((a.posted + n) / 64) 0xFFFFFF))).flipTest t off
  | _, _ => s

/-- A bound command is held by a restartable fault: stalled, with the code (R175). -/
def State.stallBar (s : State) (tid off code : Nat) : State :=
  match s.team tid, s.armedAt tid off with
  | some t, some _ =>
    let w2 := (s.teamWord t (off + 8)).toNat
    s.setTeamWord t (off + 8) (BitVec.ofNat 32 (bits w2 31 31 * 0x80000000 + 0x40000000 + code % 64 * 0x1000000 + bits w2 23 0))
  | _, _ => s

/-- ERES resumes the held command: stalled := 0 (R175). -/
def State.unstallBar (s : State) (tid off : Nat) : State :=
  match s.team tid, s.armedAt tid off with
  | some t, some _ =>
    let w2 := (s.teamWord t (off + 8)).toNat
    s.setTeamWord t (off + 8) (BitVec.ofNat 32 (bits w2 31 31 * 0x80000000 + bits w2 29 0))
  | _, _ => s

/-- A bound command ends with a fault, or its context is killed: fault := 1, stalled := 0, the code; the waiters are released (R175, R229). -/
def State.faultBar (s : State) (tid off code : Nat) : State :=
  match s.team tid, s.armedAt tid off with
  | some t, some _ =>
    let w2 := (s.teamWord t (off + 8)).toNat
    let s1 := s.setTeamWord t (off + 8) (BitVec.ofNat 32 (0x80000000 + code % 64 * 0x1000000 + bits w2 23 0))
    s1.releaseAll tid off (waitWord true false code (bits w2 23 0)) false
  | _, _ => s

/-- The words of a slot when it is armed (R173, R175). -/
def State.arm (s : State) (t : Team) (off quota index : Nat) : State :=
  let s1 := (s.setTeamWord t off (BitVec.ofNat 32 (quota * 0x10000))).setTeamWord t (off + 4) 0
  let s2 := (s1.setTeamWord t (off + 8) 0).setTeamWord t (off + 12)
    (BitVec.ofNat 32 (0xBA000000 + index * 0x10000 + off / 16))
  { s2 with onchip := { s2.onchip with armed := s2.onchip.armed ++
      [{ core := t.core, index := index, tid := t.tid, slot := off, last := 0, posted := 0 }] } }

/-- A slot is retired: its table entry is freed and word 3 becomes 0 (R175). -/
def State.retireBar (s : State) (t : Team) (off : Nat) : State :=
  let s1 := s.setTeamWord t (off + 12) 0
  { s1 with onchip := { s1.onchip with armed := s1.onchip.armed.filter fun a => !(decide (a.tid = t.tid) && decide (a.slot = off)) } }

/-- The lowest free entry of a core's armed-slot table (R174). -/
def State.freeArmed (s : State) (core : Nat) : Option Nat :=
  (List.range 64).find? fun k => s.onchip.armed.all fun a => !(decide (a.core = core) && decide (a.index = k))

/-! ## Tagged words (R167–R171) -/

/-- The operations of R167. -/
inductive TagOp where
  | ldfe
  | ldfeE
  | stfe
  | fesetE
  | fesetF
  | feq
  deriving DecidableEq, Repr

/-- The tagged operation of an instruction. -/
def tagOp : Instr → Option TagOp
  | .ldfe .. => some .ldfe
  | .ldfeE .. => some .ldfeE
  | .stfe .. => some .stfe
  | .fesetE .. => some .fesetE
  | .fesetF .. => some .fesetF
  | .feq .. => some .feq
  | _ => none

/-- The key of the tag of a word of a core's scratchpad. -/
def tagKey (core word : Nat) : Nat := 0x10000 * core + word

/-- A word's tag is full. -/
def State.full (s : State) (core word : Nat) : Bool := decide (Store.get s.onchip.empty (tagKey core word) = 0#1)

/-- Writes a tag. -/
def State.setFull (s : State) (core word : Nat) (f : Bool) : State :=
  { s with onchip := { s.onchip with empty := Store.put s.onchip.empty (tagKey core word) (if f then 0#1 else 1#1) } }

/-- The data of a word. -/
def State.wordAt (s : State) (core word : Nat) : W32 := BitVec.ofNat 32 (Store.getLE s.onchip.scratch (scratchKey core (4 * word)) 4)

/-- Writes the data of a word. -/
def State.setWordAt (s : State) (core word : Nat) (v : W32) : State :=
  { s with onchip := { s.onchip with scratch := Store.putLE s.onchip.scratch (scratchKey core (4 * word)) 4 v.toNat } }

/-- One lane's operation on a word (R167), with the data of STFE: the state, the value read if any, whether the tag changed; none when
it must wait. -/
def State.tagApply (s : State) (op : TagOp) (core word : Nat) (data : W32) : Option (State × Option W32 × Bool) :=
  let f := s.full core word
  match op with
  | .ldfe => if f then some (s, some (s.wordAt core word), false) else none
  | .ldfeE => if f then some (s.setFull core word false, some (s.wordAt core word), true) else none
  | .stfe => if f then none else some ((s.setWordAt core word data).setFull core word true, none, true)
  | .fesetF => some (s.setFull core word true, none, !f)
  | .fesetE => some (s.setFull core word false, none, f)
  | .feq => some (s, some (if f then 1#32 else 0#32), false)

/-- What the part does next while it serves tagged words: try the next lane of a split, or serve a word's queue. -/
inductive TagTask where
  | next (gid entry : Nat)
  | serve (core word : Nat)
  deriving DecidableEq, Repr

/-- The tagged instruction a split waits in. -/
def Group.tagged (g : Group) (entry : Nat) : Option (LogEntry × TagOp) :=
  (g.log.find? fun x => decide (x.entry = entry) && (tagOp x.i).isSome).bind fun x => (tagOp x.i).map fun o => (x, o)

/-- The word of the scratchpad that a lane of a tagged instruction names: the offset in its team's allocation (R154). -/
def State.tagWord (s : State) (g : Group) (e : LogEntry) (l : Nat) : Nat :=
  match s.team g.tid with
  | some t => (t.base + (Store.get e.addr l).toNat) / 4
  | none => 0

/-- A lane of a tagged instruction has been served (R168): its value is delivered; with the last lane the split is ready. -/
def State.tagDone (s : State) (gid entry : Nat) (e : LogEntry) (l : Nat) (v : Option W32) (acq : Bool) : State :=
  s.onGroup gid fun g =>
    let g1 := match v with
      | some x => g.deliverDst e.seq e.dst l (x.setWidth 64)
      | none => g
    let g2 := (if acq then g1.stampO s.dev.time else g1).doneLanes e.seq (laneBit l)
    if (g2.entryOf e.seq).isNone then g2.onSplit entry fun x => { x with wait := .none } else g2

/-- The operation is a group store, which may not touch an armed slot (R174). -/
def TagOp.stores : TagOp → Bool
  | .stfe => true
  | .fesetE => true
  | .fesetF => true
  | _ => false

/-- The armed slot that a lane of a tagged store meets when its turn comes (R174). -/
def State.tagArmed (s : State) (g : Group) (e : LogEntry) (o : TagOp) (l : Nat) : Option Nat :=
  if o.stores then s.armedIn g.tid (Store.get e.addr l).toNat 4 else none

/-- A lane of a tagged store meets a slot that was armed while it waited: it stays pending and its group traps. DESIGN CHOICE (log 97): the lanes served before it
have performed. -/
def State.tagStop (s : State) (gid : Nat) (e : LogEntry) (l slot : Nat) : State := s.onGroup gid fun g => g.found (armedReport e l slot)

/-- LDFE and LDFE.e act as acquires (R226). -/
def TagOp.acquires : TagOp → Bool
  | .ldfe => true
  | .ldfeE => true
  | _ => false

/-- A lane joins the tail of its word's queue; without a free entry of the core's 64 the split is retry-parked, or stays so in
its age (R169). -/
def State.enqueue (s : State) (core word : Nat) (w : Waiter) : State :=
  let q := s.onchip.waits
  if q.any fun x => decide (x.core = core) && decide (x.word = word) then
    let q1 := q.map fun (x : WaitEntry) => if x.core = core ∧ x.word = word then { x with queue := x.queue ++ [w] } else x
    ({ s with onchip := { s.onchip with waits := q1 } } : State).onGroup w.gid fun g => g.onSplit w.entry fun x => { x with wait := .queued }
  else if (q.filter fun x => decide (x.core = core)).length < 64 then
    ({ s with onchip := { s.onchip with waits := q ++ [{ core := core, word := word, queue := [w] }] } } : State).onGroup w.gid
      fun g => g.onSplit w.entry fun x => { x with wait := .queued }
  else s.onGroup w.gid fun g => g.onSplit w.entry fun x =>
    { x with wait := match x.wait with | .retryParked n => .retryParked n | _ => .retryParked s.seq }

/-- A waiter leaves a word's queue; an empty queue frees its entry. -/
def State.dequeue (s : State) (core word : Nat) (w : Waiter) : State :=
  let q1 := s.onchip.waits.map fun (x : WaitEntry) => if x.core = core ∧ x.word = word then { x with queue := x.queue.erase w } else x
  { s with onchip := { s.onchip with waits := q1.filter fun x => !x.queue.isEmpty } }

/-- The queue of a word. -/
def State.queueOf (s : State) (core word : Nat) : List Waiter :=
  match s.onchip.waits.find? fun x => decide (x.core = core) && decide (x.word = word) with
  | some x => x.queue
  | none => []

/-- The first waiter of a word that its tag lets go on: a full-waiter when full, an STFE when empty (R170). -/
def State.eligible (s : State) (core word : Nat) : Option (Waiter × Group × LogEntry × TagOp) :=
  (s.queueOf core word).findSome? fun w =>
    match s.find w.gid with
    | none => none
    | some g =>
      match g.tagged w.entry with
      | none => none
      | some (e, o) => if (s.tagApply o core word 0#32).isSome then some (w, g, e, o) else none

/-- Serves tagged words until nothing more can be served (R168, R170). Each round marks a lane done or ends a task. -/
def State.serveTags : Nat → List TagTask → State → State
  | 0, _, s => s
  | _, [], s => s
  | n + 1, .next gid entry :: rest, s =>
    match s.find gid with
    | none => State.serveTags n rest s
    | some g =>
      match g.tagged entry with
      | none => State.serveTags n rest s
      | some (e, o) =>
        match lowest e.pend with
        | none => State.serveTags n rest s
        | some l =>
          let word := s.tagWord g e l
          match s.tagArmed g e o l, s.tagApply o g.core word ((Store.get e.val l).setWidth 32) with
          | some slot, _ => State.serveTags n rest (s.tagStop gid e l slot)
          | none, none => State.serveTags n rest (s.enqueue g.core word { gid := gid, entry := entry, lane := l })
          | none, some (s1, v, changed) =>
            State.serveTags n ((if changed then [.serve g.core word] else []) ++ .next gid entry :: rest)
              (s1.tagDone gid entry e l v o.acquires)
  | n + 1, .serve core word :: rest, s =>
    match s.eligible core word with
    | none => State.serveTags n rest s
    | some (w, g, e, o) =>
      match s.tagArmed g e o w.lane, s.tagApply o core word ((Store.get e.val w.lane).setWidth 32) with
      | some slot, _ => State.serveTags n (.serve core word :: rest) ((s.dequeue core word w).tagStop w.gid e w.lane slot)
      | none, none => State.serveTags n rest s
      | none, some (s1, v, _) =>
        State.serveTags n (.serve core word :: .next w.gid w.entry :: rest)
          ((s1.dequeue core word w).tagDone w.gid w.entry e w.lane v o.acquires)

/-- Enough rounds for every lane that waits anywhere. -/
def State.tagFuel (s : State) : Nat :=
  200 + 200 * (s.groups.foldl (fun n g => n + g.log.length) 0)

/-- Runs the tagged instruction that a split has issued (R168–R170). -/
def State.runTagged (s : State) (gid entry : Nat) : State := State.serveTags s.tagFuel [.next gid entry] s

/-- The splits of a group leave the queues of tagged words, barriers and XACQ (R143, R171, R229). -/
def State.leaveQueues (s : State) (gid : Nat) : State :=
  let q1 := s.onchip.waits.map fun (x : WaitEntry) => { x with queue := x.queue.filter fun w => decide (w.gid ≠ gid) }
  let mine := fun (q : List XWait) => q.filter fun w => decide (w.gid ≠ gid)
  { s with teams := s.teams.map fun t => { t with queueR := mine t.queueR, queueT := mine t.queueT }, onchip := { s.onchip with
      waits := q1.filter fun x => !x.queue.isEmpty,
      barWaits := s.onchip.barWaits.filter fun w => decide (w.gid ≠ gid) } }

end Sys2Proof.Machine
end

