-- ==== Sys2Proof/Machine/Kill.lean ====
section
/-!
DEFINITION. Sys2Proof/Machine/Kill.lean: launch packets and the launch table (R306–R310), weight-set pins (R378–R381), the end of a group
and of a team (R119, R179, R257), and the removal of a context's work at a kill point (R360–R363).
-/

namespace Sys2Proof.Machine

open Sys2Proof

/-! ## Launch packets (R306) -/

/-- The 32-bit word at a byte of a launch packet. -/
def pktWord (p : Store 8) (b : Nat) : Nat := Store.getLE p b 4
/-- The 64-bit field at a byte of a launch packet. -/
def pktLong (p : Store 8) (b : Nat) : Nat := Store.getLE p b 8

def pktEntry (p : Store 8) : W64 := BitVec.ofNat 64 (pktLong p 0)
def pktTeams (p : Store 8) : Nat := bits (pktWord p 8) 23 0
def pktPrecise (p : Store 8) : Bool := decide (bits (pktWord p 12) 31 31 = 1)
def pktPrio (p : Store 8) : Nat := bits (pktWord p 12) 30 29
def pktGang (p : Store 8) : Nat := bits (pktWord p 12) 26 25 + 1
def pktSize (p : Store 8) : Nat := bits (pktWord p 12) 24 20 + 1
def pktProducer (p : Store 8) : Nat := bits (pktWord p 12) 19 15
/-- Base registers: 64 + 32 × the field. -/
def pktRegs (p : Store 8) : Nat := 64 + 32 * bits (pktWord p 12) 14 12
def pktControl (p : Store 8) : Bool := decide (bits (pktWord p 12) 11 11 = 1)
/-- Scratchpad bytes of a team. -/
def pktScratch (p : Store 8) : Nat := 16 * bits (pktWord p 16) 14 0
def pktXregs (p : Store 8) : Nat := (Store.get p 20).toNat
def pktXtiles (p : Store 8) : Nat := bits (Store.get p 21).toNat 5 0
/-- Bytes of a lane-private slice. -/
def pktSlice (p : Store 8) : Nat := 64 * (Store.get p 22).toNat
def pktLast (p : Store 8) : Nat := bits (Store.get p 23).toNat 5 0
def pktSliceBase (p : Store 8) : W64 := BitVec.ofNat 64 (pktLong p 24)
def pktArgs (p : Store 8) : W64 := BitVec.ofNat 64 (pktLong p 32)
def pktDone (p : Store 8) : W64 := BitVec.ofNat 64 (pktLong p 40)
def pktDep (p : Store 8) (k : Nat) : Nat := pktWord p (48 + 4 * k)
def pktWset (p : Store 8) : Nat := pktWord p 64
def pktIters (p : Store 8) : Nat := pktWord p 68
def pktPerTile (p : Store 8) : Nat := bits (pktWord p 72) 14 0
def pktFixup (p : Store 8) : W64 := BitVec.ofNat 64 (pktLong p 80)

/-! ## The launch table (R309, R310) -/

/-- The launch that holds a slot. -/
def State.slot (s : State) (k : Nat) : Option Launch := s.launches.find? fun l => decide (l.slot = k)

/-- Changes a slot. -/
def State.onSlot (s : State) (k : Nat) (f : Launch → Launch) : State :=
  { s with launches := s.launches.map fun l => if l.slot = k then f l else l }

/-- The launch of a group. -/
def State.launchOf (s : State) (g : Group) : Option Launch := s.slot g.lslot.toNat

/-- The packet of a group's launch. -/
def State.packetOf (s : State) (g : Group) : Store 8 := match s.launchOf g with | some l => l.packet | none => []

/-- Every interval of the context up to `n` is Committed or Discarded (R310, R425). -/
def State.resolved (s : State) (c : BitVec 12) (n : Nat) : Bool :=
  (match s.ctx c with | some x => decide (n < x.opened) | none => true) &&
    s.ck.intervals.all fun i => !(decide (i.c = c) && decide (i.n ≤ n) && decide (i.st = .closed))

/-- A slot counts as Free for allocation (R309, R310). -/
def State.slotFree (s : State) (k : Nat) : Bool :=
  match s.slot k with
  | none => true
  | some l => decide (l.st = .ended) && (l.free || s.resolved l.ctx l.endedIn)

/-- Teams of a launch not yet ended (R312). -/
def Launch.left (l : Launch) : Nat := pktTeams l.packet - l.ended

/-- What a launch handle names (R309). -/
inductive Handle where
  | unknown
  | retired
  | current (l : Launch)
  deriving DecidableEq, Repr

/-- The launch a handle names. A handle without a sequence, with a reserved bit, or above its slot's sequence is unknown. -/
def State.handle (s : State) (h : W32) : Handle :=
  let q := bits h.toNat 23 8
  match s.slot (bits h.toNat 7 0) with
  | none => .unknown
  | some l => if bits h.toNat 31 24 ≠ 0 ∨ q = 0 ∨ l.sequ.toNat < q then .unknown else if q < l.sequ.toNat then .retired else .current l

/-- The number of a launch's state in the status word. -/
def LState.code : LState → Nat
  | .waiting => 0
  | .queued => 1
  | .running => 2
  | .ended => 3

/-- The status word of a launch with an outcome (R312). -/
def Launch.word (l : Launch) (st : LState) (fault : Bool) : W32 :=
  BitVec.ofNat 32 ((if st = .ended then 0x80000000 + (if fault then 0x40000000 else 0) else 0) + st.code * 0x10000000 + min l.left 0xFFFFFF)

/-- The status word of a handle (R312). -/
def State.launchStatus (s : State) (h : W32) : W32 :=
  match s.handle h with
  | .unknown => 0x88000000#32
  | .retired => 0xB8000000#32
  | .current l => l.word l.st l.fault

/-- The handle of an LWAIT in the log, while it waits (R312, R404). -/
def LogEntry.lwaits (x : LogEntry) : Option W32 :=
  match x.i with
  | .lwait .. => if x.flight = 0#32 then none else some ((Store.get x.val 0).setWidth 32)
  | _ => none

/-- The result of an instruction that waits in the log is written, and its entry is free. -/
def Group.logResult (g : Group) (e : LogEntry) (v : W32) : Group :=
  ((lanesOf e.pend).foldl (fun g l => g.deliverDst e.seq e.dst l (v.setWidth 64)) g).freeLog e.seq

/-- The LWAITs whose launch has Ended write their status (R312): a completion point, which orders the launch's accesses before what follows as an acquire would
(R198; DEDUCED, log 79). -/
def State.settleLwaits (s : State) : State :=
  let one := fun (g : Group) (e : LogEntry) =>
    match e.lwaits with
    | some h => let v := s.launchStatus h; if v.getLsbD 31 then (g.logResult e v).raiseF s.dev.time else g
    | none => g
  s.mapGroups Group.present fun g => g.log.foldl one g

/-! ## Weight-set pins (R378–R381) -/

/-- Changes the record of a generation of a weight set. -/
def State.onRec (s : State) (ws gen : Nat) (f : WSet → GenRec → GenRec) : State :=
  { s with fl := { s.fl with sets := s.fl.sets.map fun w =>
      if w.ws = ws then { w with recs := w.recs.map fun r => if r.gen = gen then f w r else r } else w } }

/-- One pin of a generation is released; a record that is not current remembers the context and its open interval (R382). -/
def State.unpin (s : State) (ws gen : Nat) (launch : Bool) (c : BitVec 12) : State :=
  let n := match s.ctx c with | some x => x.opened | none => 0
  s.onRec ws gen fun w r =>
    let r1 := if launch then { r with lpins := r.lpins - 1 } else { r with gpins := r.gpins - 1 }
    if w.cur = gen then r1 else { r1 with released := r1.released ++ [(c, n)] }

/-- A group's remaining pins are released (R381). -/
def State.unpinAll (s : State) (g : Group) : State := g.pins.foldl (fun s p => s.unpin p.ws p.gen false g.ctx) s

/-- A launch reaches Ended; its generation's launch pin goes (R310, R378). -/
def State.endLaunch (s : State) (k : Nat) (fault free : Bool) : State :=
  match s.slot k with
  | none => s
  | some l =>
    let n := match s.ctx l.ctx with | some x => x.opened | none => 0
    let s1 := if l.wgen = 0 then s else s.unpin (bits (pktWset l.packet) 5 0) l.wgen true l.ctx
    let end_ := fun (x : Launch) => { x with st := .ended, fault := fault, free := free, endedIn := n, wgen := 0, victims := [], vcores := [] }
    (s1.onSlot k end_).settleLwaits

/-! ## The end of groups and teams -/

/-- The groups of a team that have not ended. -/
def State.teamGroups (s : State) (tid : Nat) : List Group := s.groups.filter fun g => g.present && decide (g.tid = tid)

/-- A team ends: its armed slots are retired, its reservations end, its image run is freed (R179, R257, R414). -/
def State.endTeam (s : State) (tid : Nat) : State :=
  match s.team tid with
  | none => s
  | some t =>
    let s1 := (s.onchip.armed.filter fun a => decide (a.tid = tid)).foldl (fun s a => s.retireBar t a.slot) s
    { s1 with
      teams := s1.teams.filter fun x => decide (x.tid ≠ tid),
      onchip := { s1.onchip with reservs := s1.onchip.reservs.filter fun r => decide (r.tid ≠ tid),
                                 barWaits := s1.onchip.barWaits.filter fun w => decide (w.tid ≠ tid) },
      ck := { s1.ck with images := s1.ck.images.filter fun i => !(i.team && decide (i.owner = tid)) } }

/-- The extended units of a group return to its team's pool (R119, R141). -/
def State.returnUnits (s : State) (g : Group) : State :=
  s.onTeam g.tid fun t => { t with xregs := t.xregs + (g.nregs - g.base) / 32, xtiles := t.xtiles + (g.ntiles - 1) }

/-- System software has ended the group: its handler's lanes have exited, those of the interrupted program have not (R310; DESIGN CHOICE, log 78). -/
def Group.cutShort (g : Group) : Bool := decide (2 ≤ g.bank)

/-- A group ends: its pins are released, its extended units return to its team and its image run is freed; with its last group the team ends and its
launch counts it (R119, R381, R414, R310). -/
def State.removeGroup (s : State) (g : Group) : State :=
  let s1 := (((s.unpinAll g).leaveQueues g.gid).returnUnits g).forgetName g.gid
  let s2 := s1.dropGroups fun x => decide (x.gid = g.gid)
  let s3 := { s2 with ck := { s2.ck with images := s2.ck.images.filter fun i => i.team || decide (i.owner ≠ g.gid) } }
  if (s3.teamGroups g.tid).isEmpty then
    (s3.endTeam g.tid).onSlot g.lslot.toNat fun l => if l.st = .running then { l with ended := l.ended + 1, fault := l.fault || g.cutShort } else l
  else s3.onSlot g.lslot.toNat fun l => { l with fault := l.fault || g.cutShort }

/-! ## A kill point passes (R360–R363) -/

/-- The armed barriers of a context's teams. -/
def State.armedOf (s : State) (c : BitVec 12) : List Armed :=
  s.onchip.armed.filter fun a => match s.team a.tid with | some t => decide (t.ctx = c) | none => false

/-- The engine commands of a context end with code 0x09 and the barriers of its teams are marked faulted, before the groups go (R179, R247). -/
def State.killCommands (s : State) (c : BitVec 12) : State :=
  let s1 := (s.armedOf c).foldl (fun s a => s.faultBar a.tid a.slot 0x09) s
  { s1 with eng := { s1.eng with cmds := s1.eng.cmds.filter fun k => decide (k.ctx ≠ c) } }

/-- An APPEND whose source has not been read yet: entry 1 of `val` marks the read (R372). -/
def LogEntry.unread (x : LogEntry) : Bool := match x.i with | .append .. => decide (Store.get x.val 1 = 0#64) | _ => false

/-- An APPEND whose block is on its way to the storage processor: the context's end makes it stale (R360, R376). -/
def LogEntry.onItsWay (x : LogEntry) : Bool :=
  match x.i with | .append .. => decide (x.flight ≠ 0#32) && decide (Store.get x.val 1 ≠ 0#64) | _ => false

/-- The APPENDs of a group that the end of its context finds on their way: each is stale where its block has not arrived, or its response is (R360, R450; log 62). -/
def State.strayAppends (s : State) (g : Group) : State :=
  let (gone, late) := (g.log.filter LogEntry.onItsWay).partition fun x => decide (Config.choose s.fresh x.seq % 2 = 0)
  { s with dev := { s.dev with dropc := s.dev.dropc + BitVec.ofNat 64 gone.length, orph := s.dev.orph + BitVec.ofNat 64 late.length } }

/-- The groups and teams of a context, wherever they are, are removed with their images, waiters and queues (R363, R171, R275). -/
def State.killGroups (s : State) (c : BitVec 12) : State :=
  let mine := s.groups.filter fun g => g.present && decide (g.ctx = c)
  let s0 := mine.foldl State.strayAppends s
  let s1 := mine.foldl (fun s g => (s.unpinAll g).leaveQueues g.gid) s0
  let s2 := s1.dropGroups fun g => decide (g.ctx = c)
  let s3 := mine.foldl (fun s g =>
    { s with ck := { s.ck with images := s.ck.images.filter fun i => i.team || decide (i.owner ≠ g.gid) } }) s2
  (s3.teams.filter fun t => decide (t.ctx = c)).foldl (fun s t => s.endTeam t.tid) s3

/-- The appends of uncommitted intervals of an owner are discarded; its Sealing streams are Open again (R370). -/
def discardAppends (c : BitVec 12) (x : Stream) : Stream :=
  if x.owner = c ∧ x.st ≠ .sealed then { x with st := .opened, accepted := x.durable, sealv := 0, leaves := [], closes := [] } else x

/-- The names under which the work of a context waits at a home (R164). -/
def State.namesOf (s : State) (c : BitVec 12) : List Nat :=
  ((s.groups.filter fun g => decide (g.ctx = c)).map fun g => g.gid) ++ ((s.eng.cmds.filter fun k => decide (k.ctx = c)).map fun k => k.seq) ++
    ((s.m.reqs.filter fun r => decide (r.ctx = c)).map fun r => r.rid) ++ ((s.groups.filter fun g => decide (g.ctx = c)).flatMap fun g => g.mqueue.map fun o => o.seq) ++
    ((s.launches.filter fun l => decide (l.ctx = c)).map fun l => l.order) ++ ((s.fl.moves.filter fun v => decide (v.ctx = c)).map fun v => moveName c v.idx) ++
    ((s.fl.streams.filter fun x => decide (x.owner = c)).map fun x => sealName x.base) ++ [closeName c]

/-- Nothing of the context waits at a home any more, but what its rollback restores. -/
def State.forgetCtx (s : State) (c : BitVec 12) : State :=
  let names := s.namesOf c
  s.forgetWaits fun n => names.contains n || names.any fun k => decide (walkName k = n)

/-- The work of a context is removed: commands, groups, landings, moves, streams' uncommitted appends (R363, R370, R427). -/
def State.killWork (s : State) (c : BitVec 12) : State :=
  let s1 := ((s.forgetCtx c).killCommands c).killGroups c
  { s1 with
    eng := { s1.eng with landings := s1.eng.landings.filter fun l => decide (l.ctx ≠ c) },
    fl := { s1.fl with
      streams := s1.fl.streams.map (discardAppends c),
      moves := s1.fl.moves.filter fun v => decide (v.ctx ≠ c) } }

/-- The launches of a killed context end with fault, their completion words are dropped, and their slots count as Free (R310, R313). -/
def State.killLaunches (s : State) (c : BitVec 12) : State :=
  let mine := s.launches.filter fun l => decide (l.ctx = c)
  mine.foldl (fun s l =>
    if l.st = .ended then s.onSlot l.slot fun x => { x with free := true } else s.endLaunch l.slot true true) s

/-- No translation of a context that is not global serves again: its incarnation is over (R331). -/
def State.dropTlb (s : State) (c : BitVec 12) : State := 
  { s with m := { s.m with tlb := s.m.tlb.filter fun t => t.glob || decide (t.ctx ≠ c), tables := s.m.tables.filter fun t => decide (t.ctx ≠ c) } }

/-- The incarnation of a context advances and its pair drains: every agent's kill point passes (R360, R361). -/
def State.advance (s : State) (c : BitVec 12) : State :=
  (s.dropTlb c).onCtx c fun x => { x with cur := x.cur + 1#8, live := false, draining := x.draining ++ [x.cur] }

/-- What a context's checkpoint intervals kept is freed with it (log 15). -/
def State.dropIntervals (s : State) (c : BitVec 12) : State :=
  { s with ck := { s.ck with
      intervals := s.ck.intervals.filter fun i => decide (i.c ≠ c),
      logs := s.ck.logs.filter fun r => decide (r.c ≠ c),
      bounds := s.ck.bounds.filter fun b => decide (b.c ≠ c),
      ran := s.ck.ran.filter fun r => decide (r.2 ≠ c) } }

/-- The CKCLOSEs that wait for an interval write its outcome (R429): committed, or discarded, also where a kill has dropped it (log 15). -/
def State.settleCk (s : State) : State :=
  let one := fun (g : Group) (e : LogEntry) =>
    match e.i with
    | .ckclose .. =>
      let c := (Store.get e.val 0).setWidth 12
      if e.flight = 0#32 then g
      else
        match s.ck.intervals.find? fun i => decide (i.c = c) && decide (i.n = e.aux) with
        | some i =>
          if i.st = .closed then g
          else g.logResult e (BitVec.ofNat 32 ((if i.st = .committed then 0xC0000000 else 0xA0000000) + e.aux % 0x1000000))
        | none => g.logResult e (BitVec.ofNat 32 (0xA0000000 + e.aux % 0x1000000))
    | _ => g
  s.mapGroups Group.present fun g => g.log.foldl one g

/-- The residency handles of a context vanish, and what its pins held back is free (R337, R382). -/
def State.killHandles (s : State) (c : BitVec 12) : State :=
  let lift := fun (r : GenRec) => { r with released := r.released.filter fun p => decide (p.1 ≠ c) }
  { s with fl := { s.fl with
      handles := s.fl.handles.map fun h => if h.ctx = c then { h with live := false } else h,
      sets := s.fl.sets.map fun w => { w with recs := w.recs.map lift } } }

/-- CTXKILL's effect on a Live context (R363). -/
def State.kill (s : State) (c : BitVec 12) : State :=
  (((((s.advance c).killWork c).killLaunches c).killHandles c).dropIntervals c).settleCk

/-- An error counter gains (R436). -/
def State.count (s : State) (n k : Nat) : State :=
  { s with dev := { s.dev with errs := Store.put s.dev.errs n (Store.get s.dev.errs n + BitVec.ofNat 64 k) } }

/-- A rollback begins: the incarnation advances, kill points pass and the context's work is removed; it ends when the old pair has
drained (R427). Every context's rollback is counted (R436). -/
def State.startRollback (s : State) (c : BitVec 12) : State :=
  match s.ctx c with
  | none => s
  | some x =>
    if !x.live then s
    else
      let s1 := ((s.advance c).killWork c).onCtx c fun y => { y with rolling := true }
      { s1 with dev := { s1.dev with errs := Store.put s1.dev.errs 0x429 (Store.get s1.dev.errs 0x429 + 1#64) } }

/-- A context consumes poison (R433): it is counted, and the first time since its last commit its rollback begins, which ends the access that consumed it (true); a
repeat is the access's own fault (false). -/
def State.eatPoison (s : State) (c : BitVec 12) : State × Bool :=
  let s1 := s.count 0x427 1
  if s.tainted c then (s1, false) else ((s1.onCtx c fun x => { x with poisoned := true }).startRollback c, true)

/-- A translation with what the poison its walk reads does: the context rolls back, or the access faults with cause 0x10 (R433). -/
def State.xlate (s : State) (a : Asker) (k : Acc) (va : W64) : State × Xlate :=
  match s.translate a k va with
  | (s1, .over) => ((s1.eatPoison a.ctx).1, .over)
  | (s1, .fault c w) => (if c = 0x10 then s1.count 0x427 1 else s1, .fault c w)
  | r => r

/-- Nothing of a pair (c, j) is left anywhere in the device (R364): a request, a command, a sequence, a landing, a packet, a pool write,
a dirty word of a staging cache. -/
def State.tagGone (s : State) (c : BitVec 12) (j : BitVec 8) : Bool :=
  (s.m.reqs.all fun r => !(decide (r.ctx = c) && decide (r.inc = j))) && (s.eng.cmds.all fun r => !(decide (r.ctx = c) && decide (r.inc = j))) &&
  (s.eng.nb.all fun r => !(decide (r.ctx = c) && decide (r.inc = j))) && (s.eng.ired.all fun r => !(decide (r.ctx = c) && decide (r.inc = j))) &&
  (s.eng.landings.all fun r => !(decide (r.ctx = c) && decide (r.inc = j))) && (s.eng.held.all fun r => !(decide (r.ctx = c) && decide (r.inc = j))) &&
  (s.fab.deliveries.all fun r => !(decide (r.ctx = c) && decide (r.inc = j))) && (s.fab.poolWrites.all fun r => !(decide (r.ctx = c) && decide (r.inc = j))) &&
  s.m.keel.all fun k => k.dirty.all fun r => !(decide (r.ctx = c) && decide (r.inc = j))

end Sys2Proof.Machine
end

