-- ==== Sys2Proof/Machine/Order.lean ====
section
/-!
DEFINITION. Sys2Proof/Machine/Order.lean: the orders that hold a request back (R183, R185, R193–R195, R218, R392): which earlier accesses of its
lanes are outstanding, and which FENCE, release or same-place access it waits for.
-/

namespace Sys2Proof.Machine

open Sys2Proof

/-! ## Orders a request waits for -/

/-- The instruction's accesses are of the class group read (R194, R195). -/
def readsMem : Instr → Bool
  | .ld .. | .ldStr .. | .ldAcq .. | .ldh .. | .lds .. | .ldc .. | .ldx .. | .ldl .. | .amo .. | .cas .. | .amos .. | .red .. | .ldfe ..
  | .ldfeE .. | .feq .. | .tbarr .. | .tbwait .. | .fixup .. => true
  | _ => false

/-- The instruction's accesses are of the class group write (R194, R195). -/
def writesMem : Instr → Bool
  | .st .. | .stStr .. | .stRel .. | .sts .. | .stc .. | .stx .. | .stl .. | .amo .. | .cas .. | .amos .. | .red .. | .stfe .. | .fesetE ..
  | .fesetF .. | .ldfeE .. | .tbinit .. | .tbarr .. | .tbret .. | .ired .. | .fixup .. => true
  | _ => false

/-- A write of a path to the pool that its memory has not completed counts as outstanding at pool and system scope (R392). -/
def State.poolPending (s : State) (path gid seq : Nat) (lanes : W32) : Bool :=
  s.fab.poolWrites.any fun p => decide (p.path = path) && decide (p.gid = gid) && decide (p.log < seq) && decide (p.lanes &&& lanes ≠ 0#32)

/-- A staging cache holds dirty words of the pool that a group's commands wrote: they are not globally performed either (R392). -/
def State.poolDirty (s : State) (gid : Nat) : Bool :=
  s.m.keel.any fun k => k.dirty.any fun d => decide (d.gid = gid) && decide (tierOf (4 * d.word) = some .pool)

/-- Some earlier group-path read of the lanes has not bound its value. -/
def State.readsPending (s : State) (g : Group) (seq : Nat) (lanes : W32) : Bool :=
  (g.log.any fun x => decide (x.seq < seq) && decide (x.lanes &&& lanes ≠ 0#32) && (x.unread || (readsMem x.i && decide (x.pend ≠ 0#32)))) ||
    s.m.reqs.any fun r => decide (r.gid = g.gid) && decide (r.log < seq) && decide (r.lanes &&& lanes ≠ 0#32) && decide (r.kind = .load)

/-- Some earlier group-path write of the lanes has not performed. -/
def State.writesPending (s : State) (g : Group) (seq : Nat) (lanes : W32) : Bool :=
  (g.log.any fun x => decide (x.seq < seq) && decide (x.lanes &&& lanes ≠ 0#32) && writesMem x.i && decide (x.pend ≠ 0#32)) ||
    s.m.reqs.any fun r => decide (r.gid = g.gid) && decide (r.log < seq) && decide (r.lanes &&& lanes ≠ 0#32) &&
      decide (r.kind ≠ .load) && !r.performed

/-- Engine commands of the lanes issued earlier that have not ended; the walker's are of the keel path. -/
def State.enginePending (s : State) (gid seq : Nat) (lanes : W32) (walk : Bool) : Bool :=
  s.eng.cmds.any fun c => decide (c.gid = gid) && decide (c.seq < seq) && decide (c.lanes &&& lanes ≠ 0#32) &&
    ((match c.i with | .walkExact .. | .walkFloor .. => true | _ => false) == walk)

/-- Queued matrix operations of the lanes issued earlier. -/
def Group.matrixPending (g : Group) (seq : Nat) (lanes : W32) : Bool :=
  g.mqueue.any fun o => decide (o.seq < seq) && decide (o.lanes &&& lanes ≠ 0#32)

/-- Some access that FENCE `f` waits for is outstanding (R195), at pool and system scope not globally performed (R392). DESIGN CHOICE (log 75): a WALK,
of the keel path, is in none of the six classes: no FENCE waits for it or holds it back. -/
def State.fenceWaits (s : State) (g : Group) (f : FenceRec) : Bool :=
  let pool := fun path => decide (7 ≤ f.scope) && s.poolPending path g.gid f.seq f.lanes
  (f.pred.getLsbD 0 && s.readsPending g f.seq f.lanes) ||
  (f.pred.getLsbD 1 && (s.writesPending g f.seq f.lanes || pool 0)) ||
  ((f.pred.getLsbD 2 || f.pred.getLsbD 3) && s.enginePending g.gid f.seq f.lanes false) || (f.pred.getLsbD 3 && (pool 2 || (decide (7 ≤ f.scope) && s.poolDirty g.gid))) ||
  ((f.pred.getLsbD 4 || f.pred.getLsbD 5) && g.matrixPending f.seq f.lanes) || (f.pred.getLsbD 5 && pool 4)

/-- A FENCE issued earlier by the lanes holds back an access of a class (R195). -/
def Group.fenced (g : Group) (seq : Nat) (lanes : W32) (cls : Nat) : Bool :=
  g.fences.any fun f => decide (f.seq < seq) && decide (f.lanes &&& lanes ≠ 0#32) && f.succ.getLsbD cls

/-- A request waits for a FENCE of its group. -/
def State.reqFenced (s : State) (r : Req) : Bool :=
  match s.find r.gid with
  | none => false
  | some g => (decide (r.kind ≠ .store) && g.fenced r.log r.lanes 0) || (decide (r.kind ≠ .load) && g.fenced r.log r.lanes 1)

/-- An access of a group of another team to the team's run of scratchpad is in flight (R159). -/
def State.runBusy (s : State) (t : Team) : Bool :=
  s.m.reqs.any fun r => decide (r.space = .scratch) && !r.performed && decide (scratchKey t.core t.base ≤ r.key) &&
    decide (r.key < scratchKey t.core (t.base + t.size)) && (match s.find r.gid with | some g => decide (g.tid ≠ t.tid) | none => true)

/-- Two requests touch a common byte. -/
def Req.meets (a b : Req) : Bool :=
  decide (a.space = b.space) && decide (a.key < b.key + b.size) && decide (b.key < a.key + a.size)

/-- Two requests touch a common location, an aligned 4-byte word (R180). -/
def Req.shares (a b : Req) : Bool :=
  decide (a.space = b.space) && decide (a.key / 4 ≤ (b.key + b.size - 1) / 4) && decide (b.key / 4 ≤ (a.key + a.size - 1) / 4)

/-- `q` is earlier than `r` in the program order of a lane (R185). -/
def Req.before (q r : Req) : Bool :=
  decide (q.gid = r.gid) && decide (q.log < r.log) && decide (q.lanes &&& r.lanes ≠ 0#32)

/-- An earlier access of the same lanes to the same location, or a lower lane of the same instruction, must come first (R183, R185, R218): the lanes of a store that
name one word of an on-chip array share its pass (R157), at other homes they race by rank. -/
def State.reqBlocked (s : State) (r : Req) : Bool :=
  s.m.reqs.any fun q => !q.performed && decide (q.rid ≠ r.rid) &&
    ((q.before r && q.shares r && (if r.kind = .load then decide (q.kind = .atomic) ||
        (decide (q.kind = .load) && decide (q.strength ≠ .weak) && decide (r.strength ≠ .weak)) else true)) ||
     (decide (q.gid = r.gid) && decide (q.log = r.log) && decide (q.lane < r.lane) && decide (q.kind = r.kind) &&
       ((decide (r.kind = .atomic) && decide (lineOf q.key = lineOf r.key)) || (decide (r.kind = .store) && r.ms && q.shares r))))

/-- A release waits for every earlier group-path access of its lanes (R193); at pool and system scope for global performance (R392). -/
def State.releaseWaits (s : State) (g : Group) (seq : Nat) (lanes : W32) (scope : Nat) : Bool :=
  s.readsPending g seq lanes || s.writesPending g seq lanes || (decide (7 ≤ scope) && s.poolPending 0 g.gid seq lanes)

/-- The flash page of a load is being relocated and L2 does not hold its line: the read is deferred (R333). -/
def State.deferred (s : State) (r : Req) : Bool :=
  decide (r.space = .vm) && decide (tierOf r.key = some .flash) && (s.fl.relocating.any fun p => decide (p = r.key / 4096)) &&
    (s.m.l2Line (lineOf r.key)).isNone

/-- A defer may still answer the read: it is one of a flash page, and L2 does not hold its line (R333). -/
def State.mayDefer (s : State) (r : Req) : Bool :=
  decide (r.space = .vm) && decide (tierOf r.key = some .flash) && (s.m.l2Line (lineOf r.key)).isNone

/-- A load that the pool memory itself serves: a strong or acquire load of a pool page at pool or system scope (R392). -/
def Req.ofPool (r : Req) : Bool :=
  decide (r.kind = .load) && decide (r.strength ≠ .weak) && decide (7 ≤ r.scope) && decide (r.space = .vm) && decide (tierOf r.key = some .pool)

/-- A load of the pool memory waits until it has completed the earlier writes of its lanes to the same location (R185, R392). -/
def State.poolFirst (s : State) (r : Req) : Bool :=
  r.ofPool && s.fab.poolWrites.any fun p => decide (p.gid = r.gid) && decide (p.path = 0) && decide (p.log < r.log) && decide (p.lanes &&& r.lanes ≠ 0#32) &&
    decide (p.pa < r.key + r.size) && decide (r.key < p.pa + p.size)

/-- The request may not begin at all yet: a FENCE holds it back (R195), a release waits for the accesses before it (R193), a write for the source reads of earlier
APPENDs (R372). -/
def State.reqHeld (s : State) (r : Req) : Bool :=
  s.reqFenced r ||
    (match s.find r.gid with
     | none => false
     | some g =>
       (decide (r.strength = .rel) && s.releaseWaits g r.log r.lanes r.scope) ||
       (decide (r.kind ≠ .load) && g.log.any fun x => x.unread && decide (x.seq < r.log) && decide (x.lanes &&& r.lanes ≠ 0#32)))

/-- The order a request waits for is not met yet: beside what holds it back, an acquire waits for earlier loads that have faulted, are parked or may be deferred
(R193, R333), a load of the pool memory for its own writes there (R392). -/
def State.reqWaits (s : State) (r : Req) : Bool :=
  s.reqHeld r || s.reqBlocked r || s.poolFirst r ||
    (match s.find r.gid with
     | none => false
     | some g =>
       (decide (r.strength = .acq) && ((g.log.any fun x => decide (x.seq < r.log) && decide (x.lanes &&& r.lanes ≠ 0#32) &&
         readsMem x.i && decide (x.pend &&& ~~~x.flight ≠ 0#32)) || s.m.reqs.any fun q => q.before r && decide (q.kind = .load) && s.mayDefer q)))

/-- An older access of the same lanes has faulted or is parked: it is pending and not in flight. -/
def Group.behindFault (g : Group) (seq : Nat) (lanes : W32) : Bool :=
  g.log.any fun x => decide (x.seq < seq) && decide (x.lanes &&& lanes ≠ 0#32) && decide (x.pend &&& ~~~x.flight ≠ 0#32)

/-- A request of a group that cannot begin before an older access of its lanes that has faulted: trap entry does not wait for it. -/
def State.stuck (s : State) (g : Group) (r : Req) : Bool :=
  !r.accepted && !r.performed && g.behindFault r.log r.lanes && s.reqWaits r

end Sys2Proof.Machine
end

