-- ==== Sys2Proof/Machine/Ops.lean ====
section
/-!
DEFINITION. Sys2Proof/Machine/Ops.lean: what every instruction shares: the checks and waits before it takes effect (R22, R33–R39, R137),
its step past its own word (R19, R129), raising a trap, TAKING it (R346, R351, R352) and RETURNING from it (R355), and the events that
are counted (R445–R447).
-/

namespace Sys2Proof.Machine

open Sys2Proof

/-! ## What an instruction's word says before it issues -/

/-- A run of registers from a field on; z names none. -/
def run (r : Reg) (n : Nat) : List Reg := if r = 63#6 then [] else (List.range n).map fun k => r + BitVec.ofNat 6 k

/-- One register. -/
def one (r : Reg) : List Reg := run r 1

/-- A register of the MODE element type: a pair for a 64-bit type. -/
def wid (w : Bool) (r : Reg) : List Reg := run r (if w then 2 else 1)

/-- The registers that an instruction reads or writes, for the scoreboard (R35); `w`: the element type has 64 bits. The register that
YIELD awaits is left out: YIELD itself waits for it (R121); so are the fragments of a multiplication, whose number its format gives (R259). -/
def Instr.touches (w : Bool) : Instr → List Reg
  | .add d a b | .sub d a b | .mul d a b | .mulh d a b | .mad d a b | .div d a b | .rem d a b | .min d a b | .max d a b | .and d a b
  | .or d a b | .xor d a b | .andn d a b | .orn d a b | .sel d a b | .fadd d a b | .fsub d a b | .fmul d a b | .ffma d a b | .fmin d a b
  | .fmax d a b => wid w d ++ wid w a ++ wid w b
  | .shl d a b | .shr d a b | .rot d a b | .bfx d a b | .bfi d a b | .fscale d a b => wid w d ++ wid w a ++ one b
  | .dot4 d a b | .bperm d a b => one d ++ one a ++ one b
  | .popc d a | .clz d a | .ctz d a | .fclass d a => one d ++ wid w a
  | .addx d a b => run d 2 ++ run a 2 ++ run b 2
  | .abs d a | .brev d a | .mov d a | .addi d a _ | .andi d a _ | .ori d a _ | .xori d a _
  | .shli d a _ | .shri d a _ | .fabs d a | .fneg d a | .frnd d a | .frcp d a _ | .frsq d a _ | .fsqrt d a _
  | .fexp2 d a _ | .flog2 d a _ | .fsin d a _ | .fcos d a _ | .cvtdx d a _ | .cvtmx d a _ | .qswapH d a | .qswapV d a
  | .qswapD d a | .qbcast d a _ | .gscanIncl d a _ | .gscanExcl d a _ | .gred d a _ | .mcomp d a _ => wid w d ++ wid w a
  | .cvt d a t => wid (decide (t = 3#5) || decide (t = 7#5) || decide (t = 11#5)) d ++ wid w a
  | .cmp _ _ a b | .fcmp _ _ a b => wid w a ++ wid w b
  | .lea d a b _ => run d 2 ++ run a 2 ++ one b
  | .cmpi _ _ a _ => wid w a
  | .movi d _ | .ihi d _ => one d
  | .shfl d a b | .shflu d a b | .shfld d a b | .shflx d a b => wid w d ++ wid w a ++ one b
  | .voteBallot d _ | .getm d | .mbatch d | .shseal d => one d
  | .matchLanes d a => one d ++ wid w a
  | .brx a | .yield _ a | .callx a _ => run a 2
  | .setmR _ a | .fesetE a | .fesetF a | .tbret a | .obrel a => one a
  | .ld d b _ _ | .st d b _ _ | .ldStr d b _ _ | .stStr d b _ _ | .ldAcq d b _ _ | .stRel d b _ _ | .ldh d b _ _ => wid w d ++ run b 2
  | .pref _ b _ => run b 2
  | .lds d b _ _ | .sts d b _ _ | .ldc d b _ _ | .stc d b _ _ | .ldx d b _ _ | .stx d b _ _ | .ldl d b _ _ | .stl d b _ _ => wid w d ++ one b
  | .amo d a b _ _ | .amos d a b _ _ => wid w d ++ run a 2 ++ wid w b
  | .cas d a b _ => wid w d ++ run a 2 ++ run b (if w then 4 else 2)
  | .red a b _ _ => run a 2 ++ wid w b
  | .ldfe d a | .ldfeE d a | .feq d a | .mwait d a | .nbwait d a | .nbq d a | .lwait d a _ | .lquery d a _ | .fixup d a | .xacq d a _
  | .xrel d a _ | .ctxstart d a | .ctxkill d a | .rcfence d a | .drain d a | .thclr d a => one d ++ one a
  | .stfe a b | .tbinit a b | .wsrel a b _ => one a ++ one b
  | .tbarr d a b | .tbwait d a b | .obres d a b | .eres d a b | .ckclose d a b => one d ++ one a ++ one b
  | .cpyTile d a b _ | .cpyoTile d a b _ => one d ++ run a 8 ++ one b
  | .cpyLin d a b _ | .cpyoLin d a b _ => one d ++ run a 3 ++ one (a + 7#6) ++ one b
  | .cpyMem d a b _ | .walkExact d a b _ | .walkFloor d a b _ => one d ++ run a 5 ++ one b
  | .gath d a b _ | .scat d a b _ => one d ++ run a 4 ++ one b
  | .mma _ _ b _ _ | .mmas _ _ b _ _ => one b
  | .mloop _ _ b _ _ => run b 2
  | .accrd d b => run d 8 ++ one b
  | .accwr a b => run a 8 ++ one b
  | .accst a b => run a 2 ++ run b 2
  | .ired a _ _ => run a 20
  | .nbrun d a _ | .append d a _ => one d ++ run a 8
  | .land d a b | .thset d a b => one d ++ run a 2 ++ run b 2
  | .launch d a _ | .gmig d a _ | .apseal d a _ => one d ++ run a 2
  | .iter d | .csrr d _ | .csrw d _ => run d 2
  | .tlbinv a b => run a 2 ++ one b
  | .apwait d a b _ => one d ++ run a 2 ++ one b
  | .wsget d a _ => run d 4 ++ one a
  | .wsset d a b _ => run d 4 ++ one a ++ run b 4
  | _ => []

/-- The instructions that are illegal on a control core (R38). -/
def computeOnly : Instr → Bool
  | .lds .. | .sts .. | .ldc .. | .stc .. | .ldx .. | .stx .. | .amos .. | .ldfe .. | .ldfeE .. | .stfe .. | .fesetE .. | .fesetF ..
  | .feq .. | .tbinit .. | .tbarr .. | .tbwait .. | .tbret .. | .cpyTile .. | .cpyLin .. | .cpyMem .. | .cpyoTile .. | .cpyoLin ..
  | .gath .. | .scat .. | .walkExact .. | .walkFloor .. | .obres .. | .obrel .. | .mma .. | .mmas .. | .mloop .. | .mbatch ..
  | .mwait .. | .accrd .. | .accwr .. | .accst .. | .accz .. | .mcomp .. | .iter .. | .fixup .. | .xacq .. | .xrel .. | .gmig .. => true
  | _ => false

/-- The instructions at which lookahead windows close (R34). -/
def closesWindows : Instr → Bool
  | .br .. | .brc .. | .call .. | .brx .. | .ret | .exit | .nop | .yield .. | .callx .. | .setm .. | .setmR .. | .getm .. | .pushm
  | .popm | .fence .. | .xfence .. | .pfence .. | .icinv .. | .tbwait .. | .mwait .. | .nbwait .. | .lwait .. | .apwait .. => true
  | _ => false

/-- The lookahead count of an instruction's word; 0 for one without the field (R33). -/
def lookOf : Instr → Nat
  | .frcp _ _ l | .frsq _ _ l | .fsqrt _ _ l | .fexp2 _ _ l | .flog2 _ _ l | .fsin _ _ l | .fcos _ _ l | .ld _ _ _ l | .st _ _ _ l
  | .lds _ _ _ l | .sts _ _ _ l | .ldc _ _ _ l | .stc _ _ _ l | .ldx _ _ _ l | .stx _ _ _ l | .ldl _ _ _ l | .stl _ _ _ l
  | .amo _ _ _ l _ | .cas _ _ _ l | .amos _ _ _ l _ | .red _ _ l _ | .cpyTile _ _ _ l | .cpyLin _ _ _ l | .cpyMem _ _ _ l
  | .cpyoTile _ _ _ l | .cpyoLin _ _ _ l | .gath _ _ _ l | .scat _ _ _ l | .walkExact _ _ _ l | .walkFloor _ _ _ l | .mma _ _ _ l _
  | .mmas _ _ _ l _ | .mloop _ _ _ l _ | .mcomp _ _ l | .ired _ l _ | .nbrun _ _ l | .launch _ _ l | .lwait _ _ l | .lquery _ _ l
  | .gmig _ _ l | .append _ _ l | .apseal _ _ l | .apwait _ _ _ l | .wsget _ _ l | .wsrel _ _ l | .wsset _ _ _ l => l.toNat
  | _ => 0

/-- The instructions that need an operand-log entry (R36, R206, R312, R373). DESIGN CHOICE (log 69): APPEND and APSEAL need one too, and hold it until
their result is written; a CKCLOSE that waits needs one as well (R429), one that does not wait needs none. -/
def needsLog : Instr → Bool
  | .ld .. | .st .. | .ldStr .. | .stStr .. | .ldAcq .. | .stRel .. | .ldh .. | .lds .. | .sts .. | .ldc .. | .stc .. | .ldx .. | .stx ..
  | .ldl .. | .stl .. | .amo .. | .cas .. | .amos .. | .red .. | .ldfe .. | .ldfeE .. | .stfe .. | .fesetE .. | .fesetF .. | .feq ..
  | .tbinit .. | .tbarr .. | .tbwait .. | .tbret .. | .ired .. | .lwait .. | .apwait .. | .append .. | .apseal .. => true
  | _ => false

/-- The split waits at the close of the instruction's window until its result is written (R36): an instruction with a destination that a load, an atomic
or a result of the same kind writes, an acquire with any destination (R209), LWAIT, APWAIT and a CKCLOSE that waits with any (R404, R429). -/
def waitsAtClose : Instr → Bool
  | .ld d _ _ _ | .ldStr d _ _ _ | .ldh d _ _ _ | .lds d _ _ _ | .ldc d _ _ _ | .ldx d _ _ _ | .ldl d _ _ _ | .amo d _ _ _ _ | .cas d _ _ _
  | .amos d _ _ _ _ | .append d _ _ | .apseal d _ _ => decide (d ≠ 63#6)
  | .ldAcq .. | .lwait .. | .apwait .. | .ckclose .. => true
  | _ => false

/-- The least level of an access to a special register: 0 APP, 1 SYS, 2 FW (R345, R445). -/
def csrLevel (n : BitVec 12) : Nat :=
  let c := n.toNat
  if c < 0x200 then 0 else if c < 0x300 then 1 else if c < 0x400 then 2 else 1

/-- EVCNTk of a core may be read at any level: its EVSEL bit [30] is 1 (R445). -/
def State.appCounter (s : State) (core : Nat) (n : BitVec 12) : Bool :=
  decide (0x448 ≤ n.toNat) && decide (n.toNat ≤ 0x44F) && (Store.get s.dev.evsel (8 * core + (n.toNat - 0x448))).getLsbD 30

/-- The least level of an instruction (R39). -/
def State.levelOf (s : State) : Instr → Nat
  | .tlbinv .. | .ctxstart .. | .ctxkill .. | .rcfence .. | .eres .. | .drain .. | .wsset .. | .ckclose .. => 1
  | .halt => 2
  | .csrr _ c => if s.appCounter s.g.core c then 0 else csrLevel c
  | .csrw _ c => csrLevel c
  | _ => 0

/-! ## Readiness (R36, R137) -/

/-- Instruction `id` has not written its destination, holds its log entry, or is a GMIG whose move is not over (R36, R147). -/
def Group.unfinished (g : Group) (id : Nat) : Bool :=
  g.pending id || (g.log.any fun x => decide (x.seq = id)) || match g.gmove with | some m => decide (m.id = id) | none => false

/-- A window of the split closes before instruction `i`. -/
def closing (i : Instr) (w : LookWin) : Bool := decide (w.left = 0) || closesWindows i

/-- At the close of a window the split waits for a load-type instruction (R36). -/
def State.windowsReady (s : State) (i : Instr) : Bool :=
  s.g.wins.all fun w => !(decide (w.entry = s.entry) && closing i w && w.waits && s.g.unfinished w.id)

/-- The registers of the ring that a call writes or a return reads without a register field: the link pair (R115, R117). -/
def Group.linkPlaces (g : Group) : Instr → List Nat
  | .call f _ | .callx _ f => [(g.win.wb + 8 * f.toNat + 6) % g.nregs, (g.win.wb + 8 * f.toNat + 7) % g.nregs]
  | .ret => [(g.win.wb + g.nregs - 2) % g.nregs, (g.win.wb + g.nregs - 1) % g.nregs]
  | _ => []

/-- No register of the instruction is owed a write by an instruction whose window does not hold it (R35). -/
def State.boardReady (s : State) (i : Instr) : Bool :=
  let w64 := decide (bits s.md.toNat 8 4 = 3) || decide (bits s.md.toNat 8 4 = 7) || decide (bits s.md.toNat 8 4 = 11)
  let free := fun (p : Nat) => s.g.owed.all fun o => decide (o.place ≠ p) ||
    s.g.wins.any fun w => decide (w.entry = s.entry) && decide (w.id = o.id) && !closing i w
  s.g.owed.isEmpty ||
    (((Instr.touches w64 i).all fun r => match s.g.regPlace r with | none => true | some p => free p) && (s.g.linkPlaces i).all free)

/-- Under MODE[14] every access of the split is complete before its next instruction issues (R28, R36). -/
def State.drained (s : State) : Bool :=
  !s.g.precise || s.g.log.all fun x => decide (x.lanes &&& s.act = 0#32)

/-- A split in this wait tries its next instruction. -/
def Wait.tries : Wait → Bool
  | .none => true
  | .retry _ => true
  | .holding _ => true
  | .fencing _ => true
  | .sealing _ _ => true
  | _ => false

/-- A split in this wait is held by an instruction that has issued (R133). -/
def Wait.holds : Wait → Bool
  | .holding _ => true
  | .fencing _ => true
  | .sealing _ _ => true
  | _ => false

/-- A split in this wait is asleep until something changes. -/
def Wait.asleep : Wait → Bool
  | .retry a => a
  | .holding a => a
  | .fencing a => a
  | .sealing _ a => a
  | _ => false

/-- Something has changed: the split may try again. -/
def Wait.wake : Wait → Wait
  | .retry _ => .retry false
  | .holding _ => .holding false
  | .fencing _ => .fencing false
  | .sealing d _ => .sealing d false
  | w => w

/-- The split may try again. -/
def Split.wake (x : Split) : Split := { x with wait := x.wait.wake }

/-- The core number of the management core (log 9). -/
def mgmtCore : Nat := 288

/-- The request of a YREQ has expired at the present TIME (R123). -/
def State.expired (s : State) (yreq : W64) : Bool :=
  yreq.getLsbD 63 && decide ((bits s.dev.time.toNat 47 0 + 2 ^ 48 - bits yreq.toNat 47 0) % 2 ^ 48 < 2 ^ 47)

/-- The expiry cycle of a request, the first one at its deadline, has passed: the group issues nothing more (R123). -/
def State.late (s : State) (yreq : W64) : Bool := s.expired yreq && decide (bits s.dev.time.toNat 47 0 ≠ bits yreq.toNat 47 0)

/-- A split of the group other than `e` waits in SHSEAL, which has stopped the group (R418). -/
def Group.sealingBut (g : Group) (e : Nat) : Bool :=
  (List.range 4).any fun k => decide (k ≠ e) && match g.split k with | some x => (match x.wait with | .sealing _ _ => true | _ => false) | none => false

/-- The split may issue: its group runs, no trap, parking, eviction, SHSEAL or expired request stops it, it waits for nothing and is not held (R132, R137, R418), and
HALT has not stopped its core (R367). -/
def State.mayIssue (s : State) : Bool :=
  decide (s.g.place = .resident) && !s.lapsed s.g.core && s.g.trap.isNone && s.g.parking.isNone && !s.g.forced &&
    !s.late s.g.yreq && s.cur.wait.tries && !s.g.held s.entry && !s.g.sealingBut s.entry && !(s.fw.halted && decide (s.g.core = mgmtCore))

/-- Nothing that instruction `i` must wait for before it has any effect is outstanding. -/
def State.ready (s : State) (i : Instr) : Bool :=
  s.windowsReady i && s.boardReady i && s.drained && (!needsLog i || s.g.freeEntry.isSome)

/-- The splits of a group may try again. -/
def Group.wake (g : Group) : Group := { g with splits := g.splits.map fun (o : Option Split) => o.map Split.wake }

/-- The splits that wait to try an instruction again are woken: something has changed. -/
def State.wakeAll (s : State) : State := s.mapGroups Group.present Group.wake

/-- The split waits and will try the instruction again. -/
def State.sleep (s : State) (w : Wait) : State := s.onG fun g => g.onSplit s.entry fun x => { x with wait := w }

/-- The windows that close before instruction `i` have gone: what an instruction that is held at its issue sees, with the values its test of going on saw
(R34, R35). -/
def State.view (s : State) (i : Instr) : State :=
  { s.onG fun g => { g with wins := g.wins.filter fun w => !(decide (w.entry = s.entry) && closing i w) } with fresh := s.fresh + 1 }

/-- The windows that close before instruction `i` are closed, though their split still waits. -/
def State.shut (s : State) (i : Instr) : State :=
  let zero := fun (w : LookWin) => if w.entry = s.entry ∧ closing i w then { w with left := 0 } else w
  s.onG fun g => { g with wins := g.wins.map zero }

/-- The instruction is not ready, or its split waits at the close of a window (R36, R137). -/
def State.stall (s : State) (i : Instr) : State := (if s.windowsReady i then s else s.shut i).sleep (.retry true)

/-- An instruction that has issued holds its split in a wait; with its issue the ready-age of the split is cleared (R133, R137). -/
def State.holdIn (s : State) (w : Wait) : State := s.onG fun g => g.onSplit s.entry fun x => { x with wait := w, age := 0 }

/-- The instruction holds its split until it can go on (R133). -/
def State.hold (s : State) : State := s.holdIn (.holding true)

/-- A try of the instruction comes to nothing but what it marked at the homes where it waits, which stays marked (R164). One that read poison has ended the context's
work (R433). -/
def State.marked (s t : State) (k : State → State) : State :=
  if s.liveTag s.g.ctx s.g.inc && !t.liveTag s.g.ctx s.g.inc then t else k { s with seq := t.seq, m := { s.m with waiting := t.m.waiting } }

/-- The instruction holds its split while a write it tried, of a leaf or of a slice, waits at its home. -/
def State.holdMarked (s t : State) : State := s.marked t State.hold

/-- The instruction is not ready while the write of a leaf that it tried waits at its home. -/
def State.sleepMarked (s t : State) : State := s.marked t fun u => u.sleep (.retry true)

/-- The core ran the context in its open interval, and since its last passing scan (R426, R431). -/
def State.ranOn (s : State) (core : Nat) (c : BitVec 12) : State :=
  if 256 ≤ core then s
  else
    let s1 := if s.ck.ran.any fun p => decide (p = (core, c)) then s else { s with ck := { s.ck with ran := s.ck.ran ++ [(core, c)] } }
    if (s1.coreRec core).ranSince.any fun x => decide (x = c) then s1
    else s1.onCore core fun k => { k with ranSince := k.ranSince ++ [c] }

/-- The windows of a split at an issue: those that close before the instruction go, the others count it (R34). -/
def Group.countWins (g : Group) (e : Nat) (i : Instr) : List LookWin :=
  let count := fun (w : LookWin) => if w.entry = e then { w with left := w.left - 1 } else w
  (g.wins.filter fun w => !(decide (w.entry = e) && closing i w)).map count

/-- A split at an issue waits for nothing (R137). -/
def Split.begin (x : Split) : Split := { x with wait := .none }

/-- The group whose split `e` issues an instruction. -/
def Group.begin (g : Group) (e : Nat) (i : Instr) : Group := ({ g with wins := g.countWins e i } : Group).onSplit e Split.begin

/-- The instruction gets its name. -/
def State.begin (s : State) (i : Instr) : State := { s with g := s.g.begin s.entry i, seq := s.seq + 1, fresh := s.fresh + 1 }

/-- An instruction is about to issue: it gets its name, its split's windows close or count it (R34, R137). An issue check may still turn it away
(R352). -/
def State.start (s : State) (i : Instr) : State := ((s.begin i).ranOn s.g.core s.g.ctx).wakeAll

/-- An instruction that has issued is counted (R446). -/
def State.counted (s : State) : State := s.event s.g.core s.g.ctx 0x01

/-- An instruction has issued: it is counted, and the ready-age of its split is cleared (R137). -/
def State.issued (s : State) : State := (s.onG fun g => g.onSplit s.entry fun x => { x with age := 0 }).counted

/-- The long-latency instruction that has just issued opens its window; with MODE[14] its count is 0 (R28, R34). -/
def State.openWin (s : State) (l : Nat) (waits : Bool) : State :=
  s.onG fun g => { g with wins := g.wins ++
    [{ entry := s.entry, left := if g.precise then 0 else l, id := s.seq, waits := waits, olds := [] }] }

/-- The write of a 32-bit destination by a long-latency instruction that completes at once (R35). -/
def State.wrLong (s : State) (d : Reg) (m : W32) (f : Nat → W32) : State :=
  match s.g.regPlace d with
  | none => s
  | some p => s.onG fun g => g.assignLong s.seq p m f

/-- The write of a 64-bit destination by a long-latency instruction that completes at once. -/
def State.wrLong64 (s : State) (d : Reg) (m : W32) (f : Nat → W64) : State :=
  if d = 63#6 then s
  else (s.wrLong d m fun l => (f l).setWidth 32).wrLong (d + 1#6) m fun l => (f l >>> 32).setWidth 32

/-- The instruction has issued and its split goes on at an address (R129, R132). -/
def State.goto (s : State) (pc : W64) : State :=
  (s.onG fun g => Group.settle g (g.onSplit s.entry fun x => { x with pc := pc })).issued

/-- The issuing split goes on at the next word (R19). -/
def State.done (s : State) : State := s.goto (s.cur.pc + 4#64)

/-! ## Taking an exception (R346–R352) -/

/-- The handler bank of a group: 1 APP, 2 SYS, 3 FW. -/
def Group.bankOf (g : Group) (b : Nat) : Bank := if b = 1 then g.bankA else if b = 2 then g.bankS else g.bankF

/-- Writes a handler bank. -/
def Group.setBank (g : Group) (b : Nat) (k : Bank) : Group :=
  if b = 1 then { g with bankA := k } else if b = 2 then { g with bankS := k } else { g with bankF := k }

/-- A register of a bank by its offset (R345). -/
def Group.bankReg (g : Group) (b o : Nat) : W64 := Store.get (g.bankOf b).cells o

/-- Writes registers of a bank. -/
def Bank.put (k : Bank) (o : Nat) (v : W64) : Bank := { k with cells := Store.put k.cells o v }

/-- The five words of TSPLn for a split entry (R348). -/
def splWord (o : Option Split) (k : Nat) : W64 :=
  match o with
  | none => 0#64
  | some x =>
    match k with
    | 0 => 0x8000000000000000#64 ||| (x.pc.setWidth 57).setWidth 64
    | 1 => match x.rp with
      | none => 0x8000000000000000#64
      | some r => (r.setWidth 57).setWidth 64
    | 2 => BitVec.ofNat 64 (x.mask.toNat * 2 ^ 32 + x.hold % 2 ^ 17 * 2 ^ 15 + x.age % 2 ^ 9 * 2 ^ 6 + x.ms.stack.length)
    | 3 => BitVec.ofNat 64 ((List.range 4).foldl (fun n j => n + (x.ms.stack.getD j 0#32).toNat % 2 ^ 14 * 2 ^ (14 * j)) 0)
    | 4 => BitVec.ofNat 64 (x.ms.priv.toNat % 2 ^ 14)
    | _ => 0#64

/-- The split entry that five words of TSPLn hold; MODE[14] is the group's (R348, R355). -/
def splOf (m14 : W32) (w : Nat → W64) : Option Split :=
  if (w 0).getLsbD 63 = false then none
  else
    let depth := bits (w 2).toNat 2 0
    some { pc := sext57 (w 0), mask := BitVec.ofNat 32 (bits (w 2).toNat 63 32),
           rp := if (w 1).getLsbD 63 then none else some (sext57 (w 1)),
           hold := bits (w 2).toNat 31 15, age := bits (w 2).toNat 14 6,
           ms := { stack := (List.range depth).map fun j => BitVec.ofNat 32 (bits (w 3).toNat (14 * j + 13) (14 * j)) ||| m14,
                   priv := BitVec.ofNat 32 (bits (w 4).toNat 13 0) ||| m14 },
           wait := .none }

/-- The bank a trap of a cause goes to: 0 when the context is killed or the module stops (R346). -/
def State.trapBank (s : State) (cause : Nat) : Nat :=
  match s.g.bank with
  | 0 =>
    if s.g.level = 2 then 3
    else if s.g.level = 0 ∧ s.dev.tdlg.getLsbD cause ∧ s.g.bankReg 1 0x30 ≠ 0#64 then 1
    else 2
  | 1 => 2
  | 2 => 3
  | _ => 0

/-- The level of a bank: 0 APP, 1 SYS, 2 FW. -/
def bankLevel (b : Nat) : Nat := b - 1

/-- MODE[14:0] as TSTAT holds it. -/
def mode15 (m : W32) : Nat := m.toNat % 2 ^ 15

/-- The bank's registers at entry (R347, R348, R351, R352). -/
def Group.entryCells (g : Group) (old : Store 64) (t : TrapReport) : Store 64 :=
  let put := fun (m : Store 64) (o v : Nat) => Store.put m o (BitVec.ofNat 64 v)
  let st := mode15 g.mode + bits g.stat.toNat 1 0 * 2 ^ 15 + bits g.stat.toNat 3 2 * 2 ^ 17 + t.entry % 4 * 2 ^ 19 +
    (match t.logged with | some e => 2 ^ 24 + e % 8 * 2 ^ 21 | none => 0)
  let ovf := g.parked.foldl (fun m p => m ||| p.mask) 0#32
  let m1 := put (put (put (put old 0x00 (t.cause + (if t.async then 2 ^ 31 else 0))) 0x01 t.val.toNat) 0x03 st) 0x04 g.liveLanes.toNat
  let m2 := put (put (put (put m1 0x05 t.fmask.toNat) 0x06 ovf.toNat) 0x07 t.ins.toNat) 0x08 t.wdet.toNat
  (List.range 4).foldl (fun m n => (List.range 5).foldl (fun m k =>
    Store.put m (0x10 + 8 * n + k) (splWord (g.split n) k)) m) m2

/-- An instruction that trap entry does not wait for: it waits in a queue, or its result is discarded and it re-issues (R171, R229, R404). -/
def entrySkips (x : LogEntry) : Bool :=
  match x.i with
  | .lwait .. | .apwait .. | .ckclose .. | .tbwait .. => true
  | i => (tagOp i).isSome

/-- A command at the storage processor: trap entry waits for its result. -/
def flashCommand : Instr → Bool
  | .append .. | .apseal .. => true
  | _ => false

/-- Trap entry may begin: every issued instruction has written its registers but those of the log and of the engines, and every
outstanding access is complete or has faulted, or cannot begin before one that has (R351). -/
def State.quiet (s : State) : Bool :=
  s.g.gmove.isNone && (s.g.log.all fun x => decide (x.flight = 0#32) || entrySkips x || (x.unread && s.g.behindFault x.seq x.lanes) || !flashCommand x.i &&
      s.m.reqs.all fun r => decide (r.gid ≠ s.g.gid) || decide (r.log ≠ x.seq) || s.stuck s.g r) &&
    s.g.owed.all fun o => (s.g.log.any fun x => decide (x.seq = o.id)) || s.eng.cmds.any fun k => decide (k.seq = o.id)

/-- A request of a group that has not begun. -/
def Req.idle (r : Req) (gid : Nat) : Bool := decide (r.gid = gid) && !r.accepted && !r.performed

/-- Requests of a group that have not begun are withdrawn, and what waits at a home for it or for them: their lanes stay pending in the log. -/
def State.withdraw (s : State) (gid : Nat) : State :=
  let names := gid :: (s.m.reqs.filter fun r => r.idle gid).map fun r => r.rid
  ({ s with m := { s.m with reqs := s.m.reqs.filter fun r => !r.idle gid } } : State).forgetWaits fun n => names.contains n || decide (n = walkName gid)

/-- The group in its handler: what it keeps, what moves into the bank, and the handler's own start (R351, R353). -/
def Group.enter (g : Group) (b : Nat) (t : TrapReport) : Group :=
  let old := g.bankOf b
  let mine := fun (o : Owed) => g.log.any fun x => decide (x.seq = o.id)
  let held := fun (f : FenceRec) => g.log.any fun x => decide (x.seq < f.seq) && decide (x.lanes &&& f.lanes ≠ 0#32)
  let bank : Bank := { cells := g.entryCells old.cells t, parked := g.parked, log := g.log.map fun x => { x with flight := 0#32 },
                       owed := g.owed.filter mine, fences := g.fences.filter held, latch := g.latch, win := g.win }
  let g1 := g.setBank b bank
  { g1 with
    splits := [some { pc := sext57 (Store.get bank.cells 0x30), mask := g.ownLanes, rp := none, hold := 0, age := 0,
                      ms := { stack := [], priv := 0 }, wait := .none }, none, none, none],
    parked := [], wins := [], log := [], owed := g.owed.filter fun o => !mine o, fences := g.fences.filter fun f => !held f, latch := none,
    win := { g.win with cd := 0 },
    mode := 0x20#32 ||| (g.mode &&& 0x4000#32),
    stat := BitVec.ofNat 32 (4 * b + bankLevel b),
    trap := none }

/-- TRAP ENTRY: the group in focus takes the reported trap into the bank of R346, or its context is killed, or the module stops. -/
def State.trapEntry (s : State) (t : TrapReport) : State :=
  let b := s.trapBank t.cause
  if b = 0 then
    if s.g.ctx = 0#12 then { s with fw := { s.fw with stopped := true } } else s.kill s.g.ctx
  else
    let s1 := (((s.withdraw s.g.gid).leaveQueues s.g.gid).onG fun g => g.enter b t).event s.g.core s.g.ctx 0x08
    { s1 with entry := 0 }.wakeAll

/-- The entry begins now if nothing is outstanding; else the group waits for it and issues nothing (R351). The trap found first is the
one reported (R352). -/
def State.report (s : State) (t : TrapReport) : State :=
  match s.g.trap with
  | some _ => s
  | none => if s.quiet then s.trapEntry t else s.onG fun g => { g with trap := some t }

/-- TRAP(cause, val) by a decode or issue check of the instruction `i`: it has no effect, and TRET executes it again (R352). -/
def State.raise (s : State) (i : Instr) (cause : Nat) (val : W64) : State :=
  s.report { cause := cause, async := false, val := val, ins := encode i, fmask := s.act, wdet := 0, logged := none, entry := s.entry }

/-- The same with a page fault's walk detail (R345). -/
def State.raiseWalk (s : State) (i : Instr) (cause : Nat) (val wdet : W64) : State :=
  s.report { cause := cause, async := false, val := val, ins := encode i, fmask := s.act, wdet := wdet, logged := none, entry := s.entry }

/-- The word of an instruction as TVAL holds it. -/
def wordVal (i : Instr) : W64 := (encode i).setWidth 64

/-- The trap of a word that is no instruction (R37). -/
def State.raiseWord (s : State) (w : W32) : State :=
  s.report { cause := 0x01, async := false, val := w.setWidth 64, ins := w, fmask := s.act, wdet := 0, logged := none, entry := s.entry }

/-! ## Returning from one (R355) -/

/-- The window of an access in the log, closed by a trap or an eviction: where the access has a result to wait for, its split waits at the close (R34,
R36). -/
def LogEntry.closedWin (x : LogEntry) : Option LookWin :=
  if waitsAtClose x.i then some { entry := x.entry, left := 0, id := x.seq, waits := true, olds := [] } else none

/-- The restored group: split table, parked sets, window state, latch, MODE and STAT come back from the bank, and its other log entries
with what they owe and the close of their windows to wait at (R36), beside those the handler's own accesses still hold; with skip set the logged
entry is freed (R355). The pending lanes that came back then re-issue (R205). -/
def Group.leave (g : Group) (b : Nat) : Group :=
  let k := g.bankOf b
  let st := (Store.get k.cells 0x03).toNat
  let m14 := g.mode &&& 0x4000#32
  let skip := decide (bits st 25 25 = 1)
  let keep := k.log.filter fun x => !(skip && decide (x.id = bits st 23 21))
  let g1 := g.setBank b { k with parked := [], log := [], owed := [], fences := [], latch := none }
  { g1 with
    splits := (List.range 4).map fun n => splOf m14 fun j => Store.get k.cells (0x10 + 8 * n + j),
    parked := k.parked, win := k.win, latch := k.latch, wins := keep.filterMap LogEntry.closedWin, log := keep ++ g.log, fences := g.fences ++ k.fences,
    owed := g.owed ++ k.owed.filter fun o => keep.any fun x => decide (x.seq = o.id),
    mode := BitVec.ofNat 32 (bits st 13 0) ||| m14,
    stat := BitVec.ofNat 32 (4 * bits st 18 17 + bits st 16 15) }

/-! ## Issue -/

/-- The trap an instruction meets at decode, if any: illegal instruction before privilege (R37, R38, R39). -/
def State.decodeTrap (s : State) (i : Instr) : Option Nat :=
  if !i.wellFormed || (s.g.onControl && computeOnly i) then some 0x01
  else if s.g.level < s.levelOf i then some 0x03
  else none

/-- Instruction `i` issues without a trap at decode and without waiting: a test of the state and the operands alone. -/
def State.issues (s : State) (i : Instr) : Bool :=
  (s.g.split s.entry).isSome && s.mayIssue && (s.decodeTrap i).isNone && s.ready i

/-- An instruction of the issuing split: it traps at decode, waits until it is ready and until `go` (doing no more than `wait`), or issues and
has its effect `k`. Both `go` and `k` see it as it issues: its operands as read then (R35). -/
def issueOr (i : Instr) (s : State) (go : State → Bool) (wait k : State → State) : Host.Outcome State Fault Refusal :=
  if (s.g.split s.entry).isNone then .fault .noIssuingSplit
  else if !s.mayIssue then .next s
  else
    match s.decodeTrap i with
    | some c => .next (s.raise i c (wordVal i))
    | none =>
      if !s.ready i then .next (s.stall i)
      else if go (s.start i) then .next (k (s.start i))
      else .next (wait (s.view i))

/-- An instruction that waits for nothing but its readiness. -/
def issue (i : Instr) (s : State) (k : State → State) : Host.Outcome State Fault Refusal := issueOr i s (fun _ => true) id k

/-- An instruction that holds its split until `go` (R133): while `go` fails it has no effect. -/
def issueWhen (i : Instr) (s : State) (go : State → Bool) (k : State → State) : Host.Outcome State Fault Refusal :=
  issueOr i s go State.hold k

/-- An instruction that is not ready until `go`, as where a queue or a table it needs is full (R137): while `go` fails it has no effect. -/
def issueReady (i : Instr) (s : State) (go : State → Bool) (k : State → State) : Host.Outcome State Fault Refusal :=
  issueOr i s go (fun s => s.sleep (.retry true)) k

/-- An event of another agent: it always answers a next state; splits that wait to try again are woken. -/
def occur (s : State) (k : State → State) : Host.Outcome State Fault Refusal :=
  .next (k { s.wakeAll with fresh := s.fresh + 1 })

end Sys2Proof.Machine
end

