-- ==== Sys2Proof/Machine/Operands.lean ====
section
/-!
DEFINITION. Sys2Proof/Machine/Operands.lean: the operand forms: element types of MODE (R28, R45, R67), register operands at their width and
signedness (R69), results written at theirs (R45, R47), immediates, addresses and offsets (R32, R203), single operands (R30, R142).
-/

namespace Sys2Proof.Machine

open Sys2Proof

/-- The outcome of an instruction. -/
abbrev Result := Host.Outcome State Fault Refusal

/-! ## Element types (R28, R45, R47, R67) -/

/-- The element type code of a MODE. -/
def eltOf (m : W32) : Nat := bits m.toNat 8 4

/-- The width in bits of an element type; the integer view of R67 has the same. -/
def eltWidth (e : Nat) : Nat :=
  match e with
  | 0 | 4 => 8
  | 1 | 5 | 8 | 9 => 16
  | 3 | 7 | 11 => 64
  | _ => 32

/-- The integer view of an element type is signed (R67). -/
def eltSigned (e : Nat) : Bool := decide (e < 4)

/-- The floating-point format of an element type; none for an integer type. -/
def eltFmt (e : Nat) : Option FFmt :=
  match e with
  | 8 => some f16
  | 9 => some bf16
  | 10 => some f32
  | 11 => some f64
  | _ => none

/-- The element type of the issuing instruction. -/
def State.elt (s : State) : Nat := eltOf s.md
/-- Its width in bits. -/
def State.w (s : State) : Nat := eltWidth s.elt
/-- Its integer view is signed. -/
def State.sg (s : State) : Bool := eltSigned s.elt
/-- Its format, when it is a floating-point type. -/
def State.fmt (s : State) : FFmt := (eltFmt s.elt).getD f32
/-- It is a floating-point type. -/
def State.isFloat (s : State) : Bool := (eltFmt s.elt).isSome
/-- The rounding, saturation and flush of the issuing instruction. -/
def State.rnd (s : State) : Rnd := rndOf s.md

/-- Fields that hold pairs under a 64-bit type name pairs (R26, R68). -/
def State.pairsOk (s : State) (rs : List Reg) : Bool := decide (s.w ≠ 64) || rs.all pairOk

/-- An issue check: where it fails the instruction traps as illegal and has no effect (R68). -/
def State.checked (s : State) (i : Instr) (ok : Bool) (k : State → State) : State :=
  if ok then k s else s.raise i 0x01 (wordVal i)

/-! ## Integer operands and results (R45, R46, R69) -/

/-- The operand bits of a field in a lane, at a width: a pair for 64 bits. -/
def State.rawAt (s : State) (w : Nat) (r : Reg) (l : Nat) : Nat :=
  if w = 64 then (s.rd64 r l).toNat else (s.rd r l).toNat % 2 ^ w

/-- The operand bits of a field in a lane at the width of the element type. -/
def State.raw (s : State) (r : Reg) (l : Nat) : Nat := s.rawAt s.w r l

/-- A(l): the operand as an integer of T. -/
def State.ival (s : State) (r : Reg) (l : Nat) : Int := wrapInt s.sg s.w (s.raw r l)

/-- The bits at a width written to a destination: a pair for 64, else one register. -/
def State.wrAt (s : State) (w : Nat) (d : Reg) (f : Nat → Int) : State :=
  if w = 64 then s.wr64 d fun l => BitVec.ofInt 64 (f l) else s.wr d fun l => BitVec.ofInt 32 (f l)

/-- WRITE(l, x): an integer of T, extended under R45. -/
def State.wrInt (s : State) (d : Reg) (f : Nat → Int) : State := s.wrAt s.w d f

/-- WRITE of w-bit patterns, extended under R45. -/
def State.wrBits (s : State) (d : Reg) (f : Nat → Nat) : State := s.wrInt d fun l => wrapInt s.sg s.w (f l)

/-- FIT(x): x delivered to T (R46). -/
def State.fit (s : State) (x : Int) : Int := if s.md.getLsbD 12 then satInt s.sg s.w x else wrapInt s.sg s.w x

/-- An integer instruction: the issue check of its fields, then its result in the GUARD lanes. -/
def State.intOp (s : State) (i : Instr) (rs : List Reg) (d : Reg) (f : Nat → Int) : State :=
  s.checked i (s.pairsOk rs) fun s => (s.wrInt d f).done

/-- A bitwise instruction. -/
def State.bitOp (s : State) (i : Instr) (rs : List Reg) (d : Reg) (f : Nat → Nat) : State :=
  s.checked i (s.pairsOk rs) fun s => (s.wrBits d f).done

/-! ## Floating-point operands and results (R47, R51, R68) -/

/-- The value of a floating-point operand under MODE[13]. -/
def State.fval (s : State) (r : Reg) (l : Nat) : FVal := s.fmt.valIn s.rnd.flush (s.raw r l)

/-- The write of an encoding of a width: upper bits of a narrow one are zero. -/
def State.wrEnc (s : State) (w : Nat) (d : Reg) (f : Nat → Nat) : State :=
  if w = 64 then s.wr64 d fun l => BitVec.ofNat 64 (f l) else s.wr d fun l => BitVec.ofNat 32 (f l)

/-- A floating-point instruction whose fields `rs` hold values of the element type (R68). -/
def State.fltOp (s : State) (i : Instr) (rs : List Reg) (d : Reg) (f : Nat → Nat) : State :=
  s.checked i (s.isFloat && s.pairsOk rs) fun s => (s.wrEnc s.w d f).done

/-! ## Immediates and addresses -/

/-- A 13-bit immediate as a signed value. -/
def simm (i : BitVec 13) : Int := i.toInt
/-- The byte offset of an offset9 in units of a size (R32, R203). -/
def offBytes (o : BitVec 9) (size : Nat) : Int := o.toInt * (size : Int)

/-- A 64-bit base plus a byte offset; addresses wrap (R203). -/
def State.addr64 (s : State) (b : Reg) (off : Int) (l : Nat) : W64 := s.rd64 b l + BitVec.ofInt 64 off

/-- A 32-bit base plus a byte offset. -/
def State.addr32 (s : State) (b : Reg) (off : Int) (l : Nat) : W32 := s.rd b l + BitVec.ofInt 32 off

/-- The value of a pair in the lowest-numbered active lane, or of a uniform pair. -/
def State.value64 (s : State) (r : Reg) : W64 := s.rd64 r ((lowest s.act).getD 0)

/-- The value of one register of a block in a lane. -/
def State.blk (s : State) (a : Reg) (k l : Nat) : W32 := s.rd (a + BitVec.ofNat 6 k) l

end Sys2Proof.Machine
end

