-- ==== Sys2Proof/Machine/Access.lean ====
section
/-!
DEFINITION. Sys2Proof/Machine/Access.lean: what every memory instruction shares: the address of a lane and its checks (R203–R205), the
requests it starts and their re-issue from the operand log (R206), the orders a request waits for (R185, R193–R195), how a load is
served (R187, R188) and a write or an atomic performs (R182, R194), parking (R333, R335) and consumed poison (R433).
-/

namespace Sys2Proof.Machine

open Sys2Proof

/-! ## What an instruction asks for -/

/-- The address form of a memory instruction (R152, R203). -/
inductive Family where
  | global
  | scratch
  | cluster
  | chip
  | slice
  deriving DecidableEq, Repr

/-- What a memory instruction asks for under a MODE. -/
structure AccSpec where
  kind : ReqKind
  acc : Acc
  fam : Family
  size : Nat
  elt : Nat
  op : BitVec 3
  strength : Strength
  scope : Nat
  count : Nat
  deriving DecidableEq, Repr

/-- A weak load or store of a family. -/
def weakSpec (k : ReqKind) (f : Family) (e : Nat) : AccSpec :=
  { kind := k, acc := if k = .load then .read else .write, fam := f, size := eltWidth e / 8, elt := e, op := 0, strength := .weak,
    scope := 0, count := 0 }

/-- An atomic. -/
def atomicSpec (o : BitVec 3) (e : Nat) : AccSpec :=
  { weakSpec .atomic .global e with acc := .atomic, op := o }

/-- The access of an instruction; none when it is no memory access of majors 0x40–0x53. -/
def accSpec (i : Instr) (m : W32) : Option AccSpec :=
  let e := eltOf m
  match i with
  | .ld .. => some (weakSpec .load .global e)
  | .st .. => some (weakSpec .store .global e)
  | .ldStr _ _ _ sc => some { weakSpec .load .global e with strength := .strong, scope := sc.toNat }
  | .stStr _ _ _ sc => some { weakSpec .store .global e with strength := .strong, scope := sc.toNat }
  | .ldAcq _ _ _ sc => some { weakSpec .load .global e with strength := .acq, scope := sc.toNat }
  | .stRel _ _ _ sc => some { weakSpec .store .global e with strength := .rel, scope := sc.toNat }
  | .ldh _ _ _ c => some { weakSpec .load .global e with count := c.toNat }
  | .lds .. => some (weakSpec .load .scratch e)
  | .sts .. => some (weakSpec .store .scratch e)
  | .ldc .. => some (weakSpec .load .cluster e)
  | .stc .. => some (weakSpec .store .cluster e)
  | .ldx .. => some (weakSpec .load .chip e)
  | .stx .. => some (weakSpec .store .chip e)
  | .ldl .. => some (weakSpec .load .slice e)
  | .stl .. => some (weakSpec .store .slice e)
  | .amo _ _ _ _ o => some (atomicSpec o e)
  | .cas .. => some (atomicSpec 7 e)
  | .amos _ _ _ _ o => some (atomicSpec o e)
  | .red _ _ _ o => some (atomicSpec o e)
  | _ => none

/-- The destination or data field, the base field and the offset9 of a memory instruction. -/
def accFields : Instr → Option (Reg × Reg × BitVec 9)
  | .ld d b o _ | .st d b o _ | .ldStr d b o _ | .stStr d b o _ | .ldAcq d b o _ | .stRel d b o _ | .ldh d b o _ | .lds d b o _
  | .sts d b o _ | .ldc d b o _ | .stc d b o _ | .ldx d b o _ | .stx d b o _ | .ldl d b o _ | .stl d b o _ => some (d, b, o)
  | .amo d a _ _ _ | .cas d a _ _ | .amos d a _ _ _ => some (d, a, 0)
  | .red a _ _ _ => some (63, a, 0)
  | _ => none

/-- The operand of an atomic. -/
def accOperand : Instr → Reg
  | .amo _ _ b _ _ | .cas _ _ b _ | .amos _ _ b _ _ | .red _ b _ _ => b
  | _ => 63

/-- EA(l) or OFF(l) (R203); an atomic's address has no displacement. -/
def State.laneAddr (s : State) (i : Instr) (sp : AccSpec) (l : Nat) : W64 :=
  match accFields i with
  | none => 0
  | some (_, b, o) =>
    if sp.fam = .global then s.addr64 b (offBytes o sp.size) l else (s.addr32 b (offBytes o sp.size) l).setWidth 64

/-! ## Where a lane's access goes (R205) -/

/-- The outcome of the checks of a lane: the space, its key, whether the page is memory-side; the same of both words of a 64-bit access to a slice, which do
not lie together (R161); a failure with its order in R205, its cause, TVAL and WDET; a page that parks its group; a wait; or the end of the context's work, whose walk
has read poison (R433). -/
inductive Target where
  | ok (sp : Space) (key : Nat) (va : W64) (ms : Bool)
  | pair (lo hi : Nat × W64 × Bool)
  | bad (order cause : Nat) (val wdet : W64)
  | park (reason : Nat)
  | wait
  | over
  deriving DecidableEq, Repr

/-- The quarter of a core. -/
def quarterOf (core : Nat) : Nat := core / 64

/-- The team of a group. -/
def State.teamOf (s : State) (g : Group) : Option Team := s.team g.tid

/-- The team with an index in the gang of a group (R127, R159). -/
def State.gangTeam (s : State) (g : Group) (k : Nat) : Option Team :=
  let n := pktGang (s.packetOf g)
  if n ≤ k then none
  else s.teams.find? fun t => decide (t.ls = g.lslot.toNat) && decide (t.ctx = g.ctx) && decide (t.tidx = g.tidx.toNat / n * n + k)

/-- An offset of the LDS space (R154): the space and key, or none. -/
def State.scratchPlace (s : State) (g : Group) (off : Nat) : Option (Space × Nat) :=
  match s.teamOf g with
  | none => none
  | some t =>
    if off < 0x40000 then (if off < t.size then some (.scratch, scratchKey g.core (t.base + off)) else none)
    else
      let w := s.columnWin g.ctx g.core
      if 0x1000000 ≤ off ∧ off < 0x1800000 ∧ off - 0x1000000 < w.2 then some (.column, columnKey g.core (w.1 + off - 0x1000000)) else none

/-- Attribute checks of R205 order 4 (R219): `i` may access a page of a tier with or without MS. -/
def attrOk (i : Instr) (pool ms : Bool) : Bool :=
  match i with
  | .amo .. | .cas .. => !ms
  | .amos .. => ms && !pool
  | _ => true

/-- A global access of a lane: canonical form, translation and permission, then attributes (R205 orders 3 and 4, R207, R339). A helper lane's load consumes no poison
(R204). -/
def State.globalTarget (s : State) (g : Group) (i : Instr) (acc : Acc) (help : Bool) (va : W64) : State × Target :=
  if s.switching g.ctx va then (s, .park 3)
  else
  match (if help then s.translate g.asker acc va else s.xlate g.asker acc va) with
  | (s1, .fault c w) => (s1, .bad (if c = 0x10 then 5 else 3) c va w)
  | (s1, .wait) => (s1, .wait)
  | (s1, .over) => (s1, if help then .bad 5 0x10 va 0 else .over)
  | (s1, .ok pa p) =>
    if !attrOk i (decide (pteTier p = .pool)) (pteMs p) then (s1, .bad 4 0x0F va 0)
    else if p.getLsbD 56 && decide (acc ≠ .read) then (s1, .park 3)
    else (s1, .ok .vm pa va (pteMs p))

/-- The two words of a 64-bit slice access, each translated by itself (R161). -/
def State.pairTarget (s : State) (g : Group) (i : Instr) (acc : Acc) (help : Bool) (lo hi : W64) : State × Target :=
  match s.globalTarget g i acc help lo with
  | (s1, .ok _ k v ms) =>
    match s1.globalTarget g i acc help hi with
    | (s2, .ok _ k' v' ms') => (s2, .pair (k, v, ms) (k', v', ms'))
    | r => r
  | r => r

/-- A store touches an armed slot of a team (R174, R213). -/
def State.armedTouch (s : State) (sp : AccSpec) (tid off : Nat) : Option Nat :=
  if sp.kind = .store then s.armedIn tid off sp.size else none

/-- The checks of a lane in the order of R205; that of an armed slot, which R205 does not list, comes last (DESIGN CHOICE, log 97). -/
def State.target (s : State) (g : Group) (i : Instr) (sp : AccSpec) (l : Nat) (a : W64) : State × Target :=
  if a.toNat % sp.size ≠ 0 then (s, .bad 1 0x05 a 0)
  else
    match sp.fam with
    | .global => s.globalTarget g i sp.acc (g.helpers.getLsbD l) a
    | .slice =>
      let size := pktSlice (s.packetOf g)
      if size ≤ a.toNat then (s, .bad 2 0x09 a 0)
      else
        let n := g.tidx.toNat * pktSize (s.packetOf g) + g.gidx.toNat
        let at_ := fun (b : Nat) => sliceAddr (pktSliceBase (s.packetOf g)) n size l b
        let help := g.helpers.getLsbD l
        if sp.size = 8 then s.pairTarget g i sp.acc help (at_ a.toNat) (at_ (a.toNat + 4)) else s.globalTarget g i sp.acc help (at_ a.toNat)
    | .scratch =>
      match s.scratchPlace g a.toNat with
      | none => (s, .bad 2 0x09 a 0)
      | some (sp', key) =>
        match (if sp' = .scratch then s.armedTouch sp g.tid a.toNat else none) with
        | some slot => (s, .bad 6 0x11 (BitVec.ofNat 64 slot) 0)
        | none => (s, .ok sp' key a false)
    | .cluster =>
      let off := bits a.toNat 17 0
      match (if bits a.toNat 31 20 = 0 then s.gangTeam g (bits a.toNat 19 18) else none) with
      | none => (s, .bad 2 0x09 a 0)
      | some t =>
        if t.size ≤ off then (s, .bad 2 0x09 a 0)
        else if t.swapped then (s, .wait)
        else
          match s.armedTouch sp t.tid off with
          | some slot => (s, .bad 6 0x11 (BitVec.ofNat 64 slot) 0)
          | none => (s, .ok .scratch (scratchKey t.core (t.base + off)) a false)
    | .chip =>
      let w := s.chipWin g.ctx (quarterOf g.core)
      if w.2 ≤ a.toNat then (s, .bad 2 0x09 a 0) else (s, .ok .chip (chipKey (quarterOf g.core) (w.1 + a.toNat)) a false)

/-- The checks of the lanes of a list, one after another; none after one that ended the context's work. -/
def State.targets (s : State) (g : Group) (i : Instr) (sp : AccSpec) (addr : Store 64) : List Nat → State × List (Nat × Target)
  | [] => (s, [])
  | l :: t =>
    let r := s.target g i sp l (Store.get addr l)
    if r.2 = .over then (r.1, [(l, .over)])
    else
      let q := State.targets r.1 g i sp addr t
      (q.1, (l, r.2) :: q.2)

/-! ## Fences that complete -/

/-- The scope an access acts at: team scope of a spread team is device scope (R149). -/
def State.scopeOf (s : State) (g : Group) (sc : Nat) : Nat :=
  if sc = 2 then (match s.teamOf g with | some t => if t.migrated then 6 else 2 | none => 2) else sc

/-- A FENCE completes: it sets the stamps (R186, R195). -/
def Group.fenceDone (g : Group) (t : W64) (wide : Bool) (f : FenceRec) : Group :=
  if f.succ.getLsbD 0 && wide then g.stampF t else g.stampO t

/-- The FENCEs of a group that wait for nothing more complete. -/
def State.settleGroup (s : State) (gid : Nat) : State :=
  match s.find gid with
  | none => s
  | some g =>
    let (wait, done) := g.fences.partition (s.fenceWaits g)
    if done.isEmpty then s
    else s.onGroup gid fun g =>
      done.foldl (fun g f => g.fenceDone s.dev.time (decide (4 ≤ s.scopeOf g f.scope)) f) { g with fences := wait }

/-! ## Parking (R333, R335) -/

/-- PARKC when a parking begins. -/
def parkWord (old : W64) (reason : Nat) (time : W64) : W64 :=
  BitVec.ofNat 64 (reason % 16 * 2 ^ 60 + min 2047 (bits old.toNat 58 48 + 1) * 2 ^ 48 + bits time.toNat 47 0)

/-- Lanes of the group in focus stay pending and the group parks, from a TIME on; a parking already begun takes them in. -/
def State.parkFrom (s : State) (start : W64) (reason : Nat) (lanes : W32) (xfer : Option ParkedXfer) : State :=
  match s.g.parking with
  | some p => s.onG fun g => { g with parking := some { p with pend := p.pend ||| lanes } }
  | none =>
    (s.event s.g.core s.g.ctx 0x07).onG fun g =>
      { g with parking := some { reason := reason, start := start, pend := lanes, xfer := xfer }, parkc := parkWord g.parkc reason start }

/-- The same from now on. -/
def State.parkLanes (s : State) (reason : Nat) (lanes : W32) (xfer : Option ParkedXfer) : State := s.parkFrom s.dev.time reason lanes xfer

/-! ## Issue and re-issue -/

/-- A request of a lane for one place, with the next name. -/
def State.laneReq (s : State) (e : LogEntry) (sp : AccSpec) (l : Nat) (space : Space) (key : Nat) (va : W64) (ms : Bool) : Req :=
  { rid := s.seq + 1, gid := s.g.gid, log := e.seq, lane := l, half := 0, kind := sp.kind, space := space, key := key, va := va,
    size := sp.size, val := Store.get e.val l, cmp := Store.get e.val2 l, op := sp.op, elt := sp.elt, strength := sp.strength,
    scope := s.scopeOf s.g sp.scope, ostamp := s.g.ostamp, core := s.g.core, slot := s.g.slot, ctx := s.g.ctx, inc := s.g.inc,
    lanes := e.lanes, readCount := sp.count, issued := s.dev.time, ls := s.g.lslot.toNat, hit := none, waited := false, shared := false, arrived := 0, ms := ms,
    accepted := false, performed := false }

/-- The two halves of an 8-byte weak access (R180), at their places. -/
def Req.halves (r : Req) (lo hi : Nat × W64 × Bool) : List Req :=
  [{ r with key := lo.1, va := lo.2.1, ms := lo.2.2, size := 4, val := r.val &&& 0xFFFFFFFF#64 },
   { r with rid := r.rid + 1, half := 1, key := hi.1, va := hi.2.1, ms := hi.2.2, size := 4, val := r.val >>> 32 }]

/-- The requests of a lane whose checks have passed. -/
def State.laneReqs (s : State) (e : LogEntry) (sp : AccSpec) (l : Nat) : Target → List Req
  | .ok space key va ms =>
    let r := s.laneReq e sp l space key va ms
    if sp.size = 8 ∧ sp.strength = .weak ∧ sp.kind ≠ .atomic then r.halves (key, va, ms) (key + 4, va + 4#64, ms) else [r]
  | .pair lo hi => (s.laneReq e sp l .vm lo.1 lo.2.1 lo.2.2).halves lo hi
  | _ => []

/-- The own stores of the lanes that have not performed, newest first. -/
def State.ownStores (s : State) (r : Req) : List Req :=
  (s.m.reqs.filter fun q => decide (q.kind = .store) && !q.performed && q.before r && q.meets r).reverse

/-- A load that looks in its core's L1: of a page with MS, a weak load only (R207). -/
def Req.usesL1 (r : Req) : Bool :=
  decide (r.kind = .load) && decide (r.space = .vm) && decide (r.core < 256) && (decide (r.strength = .weak) || (decide (r.scope < 4) && !r.ms))

/-- The copy in the issuing core's L1 that a load may be served from (R163, R165, R187): of a page with MS, by a weak load only (R207). -/
def State.l1Serves (s : State) (r : Req) : Option L1Line :=
  if !r.usesL1 then none
  else
    match s.find r.gid with
    | none => none
    | some g =>
      match s.l1Hit r.core r.key g.fstamp with
      | none => none
      | some x => if (s.ownStores r).all fun q => decide (x.grant < q.issued) && (!q.waited || q.accepted) then some x else none

/-- What a load finds in its core's L1: the grant, the value, and the poison mark of its bytes (R432). -/
def State.lookL1 (s : State) (r : Req) : Option (W64 × W64 × Bool) :=
  (s.l1Serves r).map fun x => (x.grant, BitVec.ofNat 64 (Store.getLE x.data (r.key % 128) r.size), badBytes x.bad r.key r.size)

/-- A request as it issues: a load looks for its line in L1, unless it must wait before it begins (R187); a store begins unless something holds it back. -/
def State.atIssue (s : State) (r : Req) : Req :=
  match r.kind with
  | .load => if s.reqWaits r then { r with waited := true } else { r with hit := s.lookL1 r }
  | .store => { r with waited := s.reqHeld r }
  | .atomic => r

/-- A store that begins updates the core's own L1 copy (R165). -/
def MemSys.ownL1 (m : MemSys) (r : Req) : MemSys :=
  if r.kind = .store ∧ r.space = .vm then m.storeL1 r.core r.key r.size r.val.toNat else m

/-- A load that looked in its core's L1 missed; where the line is there but its lease has run out, that is a lease-expiry miss too (R163, R446). DEDUCED (log 92): one
access misses once for each of its lines. -/
def State.missL1 (s : State) (r : Req) : State :=
  let line := lineOf r.key
  let again := s.m.reqs.any fun q => decide (q.rid ≠ r.rid) && decide (q.gid = r.gid) && decide (q.log = r.log) && decide (lineOf q.key = line) && q.usesL1
  if !r.usesL1 || again then s
  else
    let s1 := s.event r.core r.ctx 0x03
    if s.m.l1.any fun x => decide (x.core = r.core) && decide (x.line = line) && decide (x.expiry ≤ s.dev.time) then s1.event r.core r.ctx 0x04 else s1

/-- A lane's access starts: its requests are in flight, and a store that need not wait updates the core's own L1 copy (R165, R193, R195). -/
def State.sendLane (s : State) (e : LogEntry) (sp : AccSpec) (l : Nat) (t : Target) : State :=
  let rs := (s.laneReqs e sp l t).map s.atIssue
  let m1 := (rs.filter fun r => !r.waited).foldl MemSys.ownL1 s.m
  let fly := fun (x : LogEntry) => if x.seq = e.seq then { x with flight := x.flight ||| laneBit l } else x
  let s1 := (rs.filter fun r => !r.waited && r.hit.isNone).foldl State.missL1 s
  { s1 with m := { m1 with reqs := m1.reqs ++ rs }, seq := s.seq + rs.length, g := { s.g with log := s.g.log.map fly } }

/-- A helper lane's load that fails receives zero and is complete (R204). -/
def Group.zeroLane (g : Group) (e : LogEntry) (l : Nat) : Group := (g.deliverDst e.seq e.dst l 0).doneLanes e.seq (laneBit l)

/-- The lanes that failed: order, cause, lane, TVAL, WDET. -/
def failures (ts : List (Nat × Target)) : List (Nat × Nat × Nat × W64 × W64) :=
  ts.filterMap fun t => match t.2 with | .bad o c v w => some (o, c, t.1, v, w) | _ => none

/-- The cause reported: the earliest in R205's order, within one order the lowest code (log 16). -/
def firstCause (fs : List (Nat × Nat × Nat × W64 × W64)) : Nat × Nat :=
  fs.foldl (fun b f => if f.1 < b.1 ∨ (f.1 = b.1 ∧ f.2.1 < b.2) then (f.1, f.2.1) else b) (99, 99)

/-- The trap of the failed lanes of an access (R205, R352). -/
def accessTrap (e : LogEntry) (fs : List (Nat × Nat × Nat × W64 × W64)) : Option TrapReport :=
  let c := firstCause fs
  let mine := fs.filter fun f => decide (f.1 = c.1) && decide (f.2.1 = c.2)
  match mine with
  | [] => none
  | f :: _ => some { cause := c.2, async := false, val := f.2.2.2.1, ins := encode e.i, fmask := maskOf fun l => mine.any fun f => decide (f.2.2.1 = l),
                     wdet := f.2.2.2.2, logged := some e.id, entry := e.entry }

/-- The pending lanes of a logged access start, fail or park (R205, R206); with a lane on an armed slot none is performed (R213). -/
def State.launchLog (s : State) (seq : Nat) : State :=
  match s.g.entryOf seq with
  | none => s
  | some e =>
    match accSpec e.i e.mode with
    | none => s
    | some sp =>
      let (s1, ts) := s.targets s.g e.i sp e.addr (lanesOf (e.pend &&& ~~~e.flight))
      let fs := failures ts
      let help := s.g.helpers
      let stop := fs.any fun f => decide (f.1 = 6)
      let s2 := if stop then s1 else
        ts.foldl (fun s t =>
          match t.2 with
          | .ok .. | .pair .. => s.sendLane e sp t.1 t.2
          | .bad .. => if help.getLsbD t.1 then s.onG fun g => g.zeroLane e t.1 else s
          | .park r => s.parkLanes r (laneBit t.1) none
          | .wait | .over => s) s1
      if ts.any fun t => decide (t.2 = .over) then s1 else
      match accessTrap e (fs.filter fun f => !help.getLsbD f.2.2.1) with
      | none => s2
      | some t => s2.report t

/-- Some lane of the pending accesses waits for the home of its leaf or for a team that is swapped out. -/
def State.logWaits (s : State) (e : LogEntry) : Bool :=
  match accSpec e.i e.mode with
  | none => false
  | some sp => (s.targets s.g e.i sp e.addr (lanesOf (e.pend &&& ~~~e.flight))).2.any fun t => decide (t.2 = .wait)

/-- The lanes that make the access: every GUARD lane of a load, those that are no helpers of a store or an atomic (R204). -/
def State.accLanes (s : State) (sp : AccSpec) : W32 := if sp.kind = .load then s.grd else s.work

/-- The addresses of an access by lane. -/
def State.accAddrs (s : State) (i : Instr) (sp : AccSpec) : Store 64 :=
  (lanesOf (s.accLanes sp)).foldl (fun m l => Store.put m l (s.laneAddr i sp l)) []

/-- The data of a store or an atomic in a lane; the low bits of its size. -/
def State.accData (s : State) (i : Instr) (sp : AccSpec) (l : Nat) : W64 :=
  match i, sp.kind with
  | .cas _ _ b _, _ => if b = 63#6 then 0 else if sp.size = 8 then s.rd64 (b + 2) l else (s.rd (b + 1) l).setWidth 64
  | _, .atomic => BitVec.ofNat 64 (s.rawAt (8 * sp.size) (accOperand i) l)
  | _, .store => (match accFields i with | some (d, _, _) => BitVec.ofNat 64 (s.rawAt (8 * sp.size) d l) | none => 0)
  | _, .load => 0

/-- The compare value of CAS (R217). -/
def State.accCmp (s : State) (i : Instr) (sp : AccSpec) (l : Nat) : W64 :=
  match i with
  | .cas _ _ b _ => BitVec.ofNat 64 (s.rawAt (8 * sp.size) b l)
  | _ => 0

/-- A map over the lanes of an access. -/
def byLane (m : W32) (f : Nat → W64) : Store 64 := (lanesOf m).foldl (fun st l => Store.put st l (f l)) []

/-- The log entry of an access, as its operands stand at issue. -/
def State.accEntry (s : State) (i : Instr) (sp : AccSpec) : LogEntry :=
  let m := s.accLanes sp
  { id := s.g.freeEntry.getD 0, seq := s.seq, i := i, mode := s.md, entry := s.entry, lanes := s.act, pend := m, flight := 0,
    addr := byLane m (s.laneAddr i sp), val := byLane m (s.accData i sp), val2 := byLane m (s.accCmp i sp),
    dst := if sp.kind = .store then .none else (match accFields i with | some (d, _, _) => s.g.dst d (decide (sp.size = 8)) | none => .none),
    aux := 0 }

/-- The issue checks of a memory instruction under MODE: pairs of a 64-bit type (R26), the element size of atomics (R215), b of CAS
(R217). -/
def State.memLegal (s : State) (i : Instr) : Bool :=
  let ok := match accFields i with | some (d, _, _) => s.pairsOk [d] | none => true
  match i with
  | .amo _ _ b _ _ | .amos _ _ b _ _ | .red _ b _ _ => ok && decide (32 ≤ s.w) && s.pairsOk [b]
  | .cas _ _ b _ => ok && decide (32 ≤ s.w) && (decide (s.w ≠ 64) || blockOk 4 52 b || decide (b = 56#6) || decide (b = 63#6))
  | _ => ok

/-- No lane waits, or the instruction traps at issue anyway. -/
def State.memGo (s : State) (i : Instr) : Bool :=
  !s.memLegal i ||
    (match accSpec i s.md with
     | none => true
     | some sp => !s.logWaits (s.accEntry i sp))

/-- What holds a memory instruction at its issue: the writes of leaves that its lanes tried wait at their homes (R164). -/
def State.memHold (s : State) (i : Instr) : State :=
  match accSpec i s.md with
  | none => s.hold
  | some sp =>
    let e := s.accEntry i sp
    s.holdMarked (s.targets s.g e.i sp e.addr (lanesOf e.pend)).1

/-- A memory access as it stands issued: its window, its log entry and the destination it owes. -/
def State.memLogged (s : State) (i : Instr) (sp : AccSpec) : State :=
  let e := s.accEntry i sp
  ((s.openWin (lookOf i) (waitsAtClose i)).onG fun g =>
    ({ g with log := if e.pend = 0#32 then g.log else g.log ++ [e] }).owe e.seq e.dst e.pend).done

/-- A memory access issues, then its lanes start. -/
def State.memIssue (s : State) (i : Instr) : State :=
  match accSpec i s.md with
  | none => s
  | some sp => (s.memLogged i sp).launchLog s.seq

/-- What every memory instruction does once it issues. -/
def State.memRun (s : State) (i : Instr) : State := s.checked i (s.memLegal i) fun s => s.memIssue i

/-- A memory instruction of majors 0x40 to 0x53. -/
def memory (i : Instr) (s : State) : Result := issueOr i s (fun s => s.memGo i) (fun s => s.memHold i) fun s => s.memRun i

/-! ## A load is served (R187, R188) -/

/-- An encoding of an element in its destination (R32). -/
def loadExtend (e : Nat) (v : W64) : W64 :=
  match e with
  | 0 => (v.setWidth 8).signExtend 64
  | 1 => (v.setWidth 16).signExtend 64
  | _ => v

/-- A byte of the newest own store that covers a place. -/
def ownByte (qs : List Req) (a : Nat) : Option Byte :=
  (qs.find? fun q => decide (q.key ≤ a) && decide (a < q.key + q.size)).map fun q => byteOf q.val.toNat (a - q.key)

/-- The byte of a request's space at its home; for a load of the pool memory, what that holds (R392). -/
def State.homeByte (s : State) (r : Req) (a : Nat) : Byte :=
  if r.space = .vm then (if r.ofPool then s.poolByte a else s.m.homeByte a) else s.onchip.byte r.space a

/-- The home's representative of every word of the load was written by a write that the pending own stores are not ordered after: none of the load's own split, which
keeps its name when its group moves (R149). -/
def State.newerHome (s : State) (r : Req) (qs : List Req) : Bool :=
  (List.range (max 1 (r.size / 4))).all fun k =>
    s.m.races.any fun p => decide (p.word = placeNo r.space r.key + k) && qs.all fun q =>
      decide (q.ostamp < p.perf) && !(decide (p.gid = q.gid) && q.lanes.getLsbD p.lane)

/-- The load is one of a control core, whose cache takes a copy of its line (R387). -/
def Req.controlLoad (r : Req) : Bool := decide (r.space = .vm) && !r.ms && decide (256 ≤ r.core) && decide (r.core < mgmtCore)

/-- The load of a control core at the home: its cache takes a clean copy, and an owner's words perform first (R387). -/
def State.controlFill (s : State) (r : Req) : State := if r.controlLoad then s.shareLine (r.core - 256) (lineOf r.key) else s

/-- An agent holds the line already: it asks the directory for nothing. -/
def DirEntry.has (d : DirEntry) (agent : Nat) : Bool := decide (d.owner = some agent) || d.sharers.any fun x => decide (x = agent)

/-- The fill of a control core's cache waits at the home (R387, R388). -/
def State.controlWaits (s : State) (r : Req) : Bool :=
  r.controlLoad && !(s.m.dirEntry (lineOf r.key)).has (r.core - 256) && s.fillWaits r.rid (r.core - 256) (lineOf r.key)

/-- Nothing at the place of a load holds it: no defer, no sleeping stack, no near-bank sequence, no tile without power (R292, R298, R333, R416), no fill that waits. -/
def State.readable (s : State) (r : Req) : Bool :=
  match r.space with
  | .vm => !s.deferred r && !s.stackHeld r.key && !s.nbBusy r.key && !s.controlWaits r
  | sp => (match sp.core r.key with | some k => !s.lapsed k | none => true)

/-- The bytes at the home with the own stores that have not performed over them (R188, candidate c). -/
def State.overlay (s : State) (r : Req) (qs : List Req) : Nat := leOf (fun a => (ownByte qs a).getD (s.homeByte r a)) r.key r.size

/-- The value of a load from a source, or none where that source cannot serve it now. Of the candidates of R188 the home gives the representative where every own
store that has not performed is unordered with it, else those stores' bytes (DESIGN CHOICE, log 74). -/
def State.serve (s : State) (r : Req) (src : LoadSource) : Option Nat :=
  match src with
  | .forward =>
    let qs := s.ownStores r
    if (List.range r.size).all fun k => (ownByte qs (r.key + k)).isSome then some (s.overlay r qs) else none
  | .l1 => (if r.waited then s.lookL1 r else r.hit).map fun x => x.2.1.toNat
  | .home =>
    if !s.readable r then none
    else
      let qs := s.ownStores r
      some (if s.newerHome r qs then leOf (s.homeByte r) r.key r.size else s.overlay r qs)

/-- The data that a source gives a load is poisoned: the mark of the L1 copy, or that of the home (R432). -/
def State.servesBad (s : State) (r : Req) (src : LoadSource) : Bool :=
  match src with
  | .forward => false
  | .l1 => (match (if r.waited then s.lookL1 r else r.hit) with | some x => x.2.2 | none => false)
  | .home => decide (r.space = .vm) && s.m.poisoned r.key r.size

/-- A virtual page is mapped as compressed by a leaf for which the migration engine keeps no compressed page in its frame: what a read of it returns is
unpredictable (R327, R339). -/
def State.wild (s : State) (c : BitVec 12) (va : W64) (pa : Nat) : Bool :=
  decide (tierOf pa = some .lpd) &&
    (match s.m.walk va 5 (s.rootOf c) with
     | .leaf l => l.pte.getLsbD 56 && decide (ptePa l.pte / 4096 = pa / 4096) && s.fl.zframes.all fun f => decide (f ≠ (pa / 4096, l.slot))
     | _ => false)

/-- The read of a line at its L2 home, which the lanes of one access that name the line share (R166; DEDUCED, log 92). -/
def State.readLine (s : State) (r : Req) : State :=
  let mark := fun (q : Req) => if q.gid = r.gid ∧ q.log = r.log ∧ q.kind = .load ∧ q.space = .vm ∧ lineOf q.key = lineOf r.key then { q with shared := true } else q
  if !inL2 r.ms r.key || r.shared then s
  else let m1 := s.m.readL2 (lineOf r.key) r.readCount; { s with m := { m1 with reqs := m1.reqs.map mark } }

/-- A read at the home: it lowers a read count or fills L2, and refills the core's L1 (R165, R166, R207). -/
def State.readHome (s : State) (r : Req) : State := if r.space ≠ .vm then s else (s.readLine r).fillL1 r.core r.key

/-- A request leaves. -/
def State.dropReq (s : State) (rid : Nat) : State := { s with m := { s.m with reqs := s.m.reqs.filter fun r => decide (r.rid ≠ rid) } }

/-- Another part of the lane's access is still in flight. -/
def State.lanePart (s : State) (r : Req) : Bool :=
  s.m.reqs.any fun q => decide (q.gid = r.gid) && decide (q.log = r.log) && decide (q.lane = r.lane) && !q.accepted

/-- The value of a request reaches its destination: the whole, or one half of a pair. -/
def Group.deliverPart (g : Group) (r : Req) (v : W64) : Group :=
  match g.entryOf r.log with
  | none => g
  | some e =>
    match e.dst with
    | .two p q => if r.size = 8 then g.deliverDst r.log e.dst r.lane v else g.deliver r.log (if r.half = 0 then p else q) r.lane (v.setWidth 32)
    | d => g.deliverDst r.log d r.lane (if r.kind = .load then loadExtend r.elt v else v)

/-- The lane is complete when no part of it is left; an acquire sets the stamps (R186, R206). -/
def State.completeLane (s : State) (r : Req) : State :=
  if s.lanePart r then s
  else
    (s.onGroup r.gid fun g =>
      let g1 := if r.strength = .acq then (if 4 ≤ r.scope then g.stampF s.dev.time else g.stampO s.dev.time) else g
      g1.doneLanes r.log (laneBit r.lane)).settleGroup r.gid

/-- A response returns to its group. -/
def State.respond (s : State) (r : Req) (v : W64) : State :=
  ((s.dropReq r.rid).onGroup r.gid fun g => g.deliverPart r v).completeLane r

/-- A stale response is discarded and counted (R360). -/
def State.orphan (s : State) (r : Req) : State :=
  { s.dropReq r.rid with dev := { s.dev with orph := s.dev.orph + 1 } }

/-- A stale request is dropped on arrival and counted (R360); it does not arrive at a stack that sleeps (R298). -/
def State.dropStale (s : State) (r : Req) : State :=
  if r.space = .vm ∧ s.stackHeld r.key then s
  else
    let t := (s.dropReq r.rid).forgetWaits fun n => decide (n = r.rid)
    { t with dev := { t.dev with dropc := t.dev.dropc + 1 } }

/-! ## Poison (R433) -/

/-- The lane of a request is a helper of its group. -/
def State.helperReq (s : State) (r : Req) : Bool := match s.find r.gid with | some g => g.helpers.getLsbD r.lane | none => false

/-- A request whose data comes back poisoned now, in a lane that is no helper: it may begin, and nothing forwards to it. -/
def State.poisonedReq (s : State) (q : Req) : Bool :=
  decide (q.kind ≠ .store) && !q.performed && decide (q.space = .vm) && s.servesBad q (if q.hit.isSome then .l1 else .home) && !s.helperReq q && !s.reqWaits q &&
    (decide (q.kind = .atomic) || (s.serve q .forward).isNone)

/-- The lanes of the access of r whose data comes back poisoned: r's own lane and every other lane of the same log entry whose sector is poisoned (R205
names them all in one report). -/
def State.poisonedLanes (s : State) (r : Req) : List Req :=
  s.m.reqs.filter fun q => decide (q.rid = r.rid) || (decide (q.gid = r.gid) && decide (q.log = r.log) && s.poisonedReq q)

/-- An access consumed poison: counted once for the access; the first time since the context's last commit it starts a rollback, a
repeat traps with the poisoned lanes pending, TVAL the lowest lane's address. -/
def State.consume (s : State) (r : Req) : State :=
  let bad := s.poisonedLanes r
  let rids := bad.map fun q => q.rid
  let lanes := bad.foldl (fun (m : W32) q => m ||| laneBit q.lane) 0
  let low := bad.foldl (fun (n : Nat) q => min n q.lane) r.lane
  let s1 := ({ s with m := { s.m with reqs := s.m.reqs.filter fun q => !rids.contains q.rid } } : State).forgetWaits rids.contains
  match s1.eatPoison r.ctx with
  | (s2, true) => s2
  | (s2, false) =>
    s2.onGroup r.gid fun g =>
      match g.entryOf r.log with
      | none => g
      | some e =>
        let rest := fun (y : LogEntry) => if y.seq = e.seq then { y with flight := y.flight &&& ~~~lanes } else y
        ({ g with log := g.log.map rest }).found
          { cause := 0x10, async := false, val := Store.get e.addr low, ins := encode e.i, fmask := lanes, wdet := 0,
            logged := some e.id, entry := e.entry }

/-- A load is served from a source that can serve it, and its value returns. -/
def State.loadFrom (s : State) (r : Req) (src : LoadSource) : State :=
  match s.serve r src with
  | none => s
  | some _ =>
    let s0 := if src = .home then (if r.waited ∧ (s.lookL1 r).isNone then s.missL1 r else s).controlFill r else s
    let v := (s0.serve r src).getD 0
    if s0.servesBad r src then
      (if s0.helperReq r then s0.respond r 0 else s0.consume r)
    else (if src = .home then s0.readHome r else s0).respond r
      (if src ≠ .forward ∧ r.space = .vm ∧ s0.wild r.ctx r.va r.key then Config.unpredictable s0.fresh r.rid else BitVec.ofNat 64 v)

/-- The loads that one pass of the scratchpad serves with r: those of the same access that name the same word (R157). -/
def State.passOf (s : State) (r : Req) : List Req :=
  s.m.reqs.filter fun q => decide (q.rid = r.rid) ||
    (decide (r.space = .scratch) && decide (q.space = .scratch) && decide (q.kind = .load) && decide (q.gid = r.gid) && decide (q.log = r.log) &&
      decide (q.key / 4 = r.key / 4))

/-- A request that a running sequence holds has reached its pseudo-channel (R292). -/
def State.arriveReq (s : State) (r : Req) : State :=
  let come := fun (q : Req) => if q.rid = r.rid ∧ q.arrived = 0 then { q with arrived := s.seq + 1 } else q
  if r.space = .vm ∧ s.nbBusy r.key then { s.tickSeq with m := { s.m with reqs := s.m.reqs.map come } } else s

/-- LOAD_RESPONSE: an atomic that has performed returns its old value; a load is served from a source that can serve it. -/
def State.loadResponse (s : State) (rid : Nat) (src : LoadSource) : State :=
  match s.m.reqs.find? fun r => decide (r.rid = rid) with
  | none => s
  | some r =>
    if r.kind = .store then s
    else if !s.liveTag r.ctx r.inc then
      (if r.kind = .atomic then (if r.performed then s.orphan r else s)
       else if Config.choose s.fresh rid % 2 = 0 then s.orphan r else s.dropStale r)
    else if r.kind = .atomic then (if r.performed then s.respond r r.val else s)
    else if s.reqWaits r then s
    else (s.passOf r).foldl (fun t q => t.loadFrom q src) (if src = .home then s.arriveReq r else s)

/-! ## A write and an atomic perform (R182–R184, R194) -/

/-- The new value of an atomic (R216); CAS is operator 7. -/
def homeAmo (elt : Nat) (op : BitVec 3) (m b cmp : Nat) : Nat :=
  let w := eltWidth elt
  match op.toNat, eltFmt elt with
  | 0, some F => F.rnd rne false (FVal.add false (F.val m) (F.val b))
  | 1, some F => F.pick false false m b
  | 2, some F => F.pick false true m b
  | 0, none => (m + b) % 2 ^ w
  | 1, none => if wrapInt (eltSigned elt) w m ≤ wrapInt (eltSigned elt) w b then m else b
  | 2, none => if wrapInt (eltSigned elt) w m ≤ wrapInt (eltSigned elt) w b then b else m
  | 3, _ => m &&& b
  | 4, _ => m ||| b
  | 5, _ => m ^^^ b
  | 6, _ => b
  | _, _ => if m = cmp then b else m

/-- Who a request writes as (R184). -/
def Req.writer (r : Req) : Writer :=
  { gid := r.gid, log := r.log, core := r.core, slot := r.slot, lane := r.lane, ostamp := r.ostamp,
    always := decide (r.kind = .atomic) || decide (r.strength = .strong) || decide (r.strength = .rel) }

/-- Nothing at the place itself holds a write back: the leases, a sleeping stack, the log's share, an owner's recall; a tile without power. -/
def State.placeReady (s : State) (r : Req) : Bool :=
  match r.space with
  | .vm => s.homeReady r.ctx r.key && !s.ownerHeld (lineOf r.key) && !s.nbBusy r.key
  | sp => (match sp.core r.key with | some k => !s.lapsed k | none => true) && (decide (sp ≠ .column) || s.onchip.columnRoom r.key r.size)

/-- The bytes of a request are written at its home: a write to the pool is globally performed when its memory completes it (R392). -/
def State.putReq (s : State) (r : Req) (v : Nat) : State :=
  match r.space with
  | .vm =>
    let s1 := s.newPool 0 r.key r.size r.gid r.log r.lanes r.ctx r.inc
    if r.kind = .atomic ∧ r.ms then (s1.meventAt r.key (some r.ctx) 0x02).performSide r.ctx r.writer r.key r.size v else s1.performWrite r.ctx r.writer r.ms r.key r.size v
  | sp => { s with onchip := s.onchip.putLE sp r.key r.size v, m := s.m.note r.writer (placeNo sp r.key) s.dev.time 0 }

/-- An armed slot that an on-chip store meets (R174): its team and offset. -/
def State.armedHit (s : State) (r : Req) : Option Armed :=
  if r.space ≠ .scratch ∨ r.kind ≠ .store then none
  else s.onchip.armed.find? fun a =>
    match s.team a.tid with
    | some t => !t.swapped && decide (scratchKey t.core (t.base + a.slot) < r.key + r.size) && decide (r.key < scratchKey t.core (t.base + a.slot) + 16)
    | none => false

/-- A store reaches the words of a slot that has been armed since it issued: it is not performed, and its lane traps (R174). DESIGN CHOICE (log 97): lanes of it that
have performed before stand, though R213 has no lane performed of a store that finds its slot armed. -/
def State.armedStop (s : State) (r : Req) (a : Armed) : State :=
  (s.dropReq r.rid).onGroup r.gid fun g =>
    match g.entryOf r.log with
    | none => g
    | some e =>
      let rest := fun (y : LogEntry) => if y.seq = e.seq then { y with flight := y.flight &&& ~~~(laneBit r.lane) } else y
      ({ g with log := g.log.map rest }).found (armedReport e r.lane a.slot)

/-- The home accepts a write: it has arrived (R206, R388). A store that had to wait before it began updates its core's L1 copy now (R165). -/
def State.acceptReq (s : State) (r : Req) : State :=
  let take := fun (q : Req) => if q.rid = r.rid then { q with accepted := true, arrived := s.seq + 1 } else q
  let m1 := if r.waited then s.m.ownL1 r else s.m
  ({ s.tickSeq with m := { m1 with reqs := m1.reqs.map take } } : State).completeLane r

/-- It is the turn of a request at its home: those that arrived before it have been handled (R388). -/
def State.turnOf (s : State) (r : Req) : Bool := decide (r.space ≠ .vm) || s.lineTurn (lineOf r.key) r.rid

/-- The writes that perform together with r: the lanes of one store that name one word of an on-chip array share its pass, in ascending lane order (R157, R183). -/
def State.storePass (s : State) (r : Req) : List Req :=
  s.m.reqs.filter fun q => decide (q.rid = r.rid) ||
    (decide (r.space ≠ .vm) && decide (q.space = r.space) && decide (q.kind = .store) && decide (q.gid = r.gid) && decide (q.log = r.log) &&
      decide (q.key / 4 = r.key / 4))

/-- WRITE_PERFORM: the home accepts the write when the orders it waits for are met, and performs it when nothing holds it back. -/
def State.writePerform (s : State) (rid : Nat) : State :=
  match s.m.reqs.find? fun r => decide (r.rid = rid) with
  | none => s
  | some r =>
    if r.kind ≠ .store then s
    else if !r.accepted ∧ !s.liveTag r.ctx r.inc then s.dropStale r
    else if !r.accepted ∧ (s.reqWaits r ∨ (r.space = .vm ∧ s.stackHeld r.key)) then s
    else
      match (if r.accepted then none else s.armedHit r) with
      | some a => (s.storePass r).foldl (fun t q => t.armedStop q a) s
      | none =>
        let s1 := if r.accepted then s else (s.storePass r).foldl State.acceptReq s
        if s1.placeReady r && !s1.reqBlocked r && s1.turnOf r then
          ((s1.storePass r).foldl (fun t q => (t.putReq q q.val.toNat).dropReq q.rid) s1).settleGroup r.gid
        else s1

/-- An atomic reads and replaces the representative at its home; a CAS that fails only reads the line (R166, R194). -/
def State.atomicApply (s : State) (r : Req) (old : Nat) : State :=
  if r.op = 7#3 ∧ old ≠ r.cmp.toNat then
    (if inL2 r.ms r.key then { s with m := s.m.readL2 (lineOf r.key) 0 } else s)
  else s.putReq r (homeAmo r.elt r.op old r.val.toNat r.cmp.toNat)

/-- The atomic returns nothing: RED, or its group is gone. -/
def State.silentReq (s : State) (r : Req) : Bool :=
  match s.find r.gid with
  | some g => (match g.entryOf r.log with | some e => (match e.i with | .red .. => true | _ => false) | none => true)
  | none => true

/-- The atomic has arrived at its home and cannot perform yet: the home has accepted a RED, whose lane is complete (R206); any other waits there (R388). -/
def State.atomicWaits (s : State) (r : Req) : State :=
  if s.silentReq r then (if r.accepted then s else s.acceptReq r) else (s.arriveReq r).await r.rid r.key

/-- ATOMIC_PERFORM: the home reads the representative, replaces it by the result and keeps the old value for the response (R194). A memory-side operation and a recall
come before the data is looked at (R279). -/
def State.atomicPerform (s : State) (rid : Nat) : State :=
  match s.m.reqs.find? fun r => decide (r.rid = rid) with
  | none => s
  | some r =>
    if r.kind ≠ .atomic ∨ r.performed then s
    else if !r.accepted ∧ !s.liveTag r.ctx r.inc then s.dropStale r
    else if !r.accepted ∧ (s.reqWaits r ∨ s.stackHeld r.key) then s
    else if !s.placeReady r || !s.turnOf r then s.atomicWaits r
    else
      let s0 := if r.ms then s.recallOwner (lineOf r.key) else s.recall (lineOf r.key)
      if s0.m.poisoned r.key r.size then (if s.liveTag r.ctx r.inc then s0.consume r else s0.dropReq rid) else
      let old := s0.m.homeRead r.key r.size
      let s1 := (s0.atomicApply r old).forgetWaits fun n => decide (n = rid)
      let s2 := { s1 with m := s1.m.dropL1 r.core r.key }
      if s.silentReq r then ((s2.dropReq rid).completeLane r).settleGroup r.gid
      else
        let keep := fun (q : Req) => if q.rid = rid then { q with performed := true, val := BitVec.ofNat 64 old } else q
        ({ s2 with m := { s2.m with reqs := s2.m.reqs.map keep } } : State).settleGroup r.gid

end Sys2Proof.Machine
end

