-- ==== Sys2Proof/Machine/LoadStore.lean ====
section
/-!
DEFINITION. Sys2Proof/Machine/LoadStore.lean: loads, stores, prefetches and atomics, majors 0x40 to 0x53 (R207–R219), and the events by
which their requests are served and perform (R163, R182, R194, R206, R279).
-/

namespace Sys2Proof.Machine

open Sys2Proof

/-- LD (R208): a weak load. -/
def execLd (d b : Reg) (o : BitVec 9) (l : BitVec 4) (s : State) : Result :=
  memory (.ld d b o l) s

/-- ST (R208): a weak store. -/
def execSt (d b : Reg) (o : BitVec 9) (l : BitVec 4) (s : State) : Result :=
  memory (.st d b o l) s

/-- LD.str (R209): a strong load at a scope. -/
def execLdStr (d b : Reg) (o : BitVec 9) (sc : BitVec 4) (s : State) : Result :=
  memory (.ldStr d b o sc) s

/-- ST.str (R209): a strong store at a scope. -/
def execStStr (d b : Reg) (o : BitVec 9) (sc : BitVec 4) (s : State) : Result :=
  memory (.stStr d b o sc) s

/-- LD.acq (R209): an acquire load; its split is held until the value is bound. -/
def execLdAcq (d b : Reg) (o : BitVec 9) (sc : BitVec 4) (s : State) : Result :=
  memory (.ldAcq d b o sc) s

/-- ST.rel (R209): a release store: it performs after every earlier group-path access of its split. -/
def execStRel (d b : Reg) (o : BitVec 9) (sc : BitVec 4) (s : State) : Result :=
  memory (.stRel d b o sc) s

/-- LDH (R211): a load whose L2 miss fills a counted line. -/
def execLdh (d b : Reg) (o : BitVec 9) (c : BitVec 4) (s : State) : Result :=
  memory (.ldh d b o c) s

/-- PREF (R212): each lane whose address translates, is aligned, not memory-side and would not park brings its line near; any other
lane is dropped. Level 0 fills the core's L1 where it does not hold the line, level 1 the home slice. -/
def State.prefLane (s : State) (v : BitVec 2) (va : W64) : State :=
  if va.toNat % (s.w / 8) ≠ 0 then s
  else
    match s.translate s.g.asker .read va with
    | (s1, .ok pa p) =>
      if pteMs p || (s1.fl.relocating.any fun k => decide (tierOf pa = some .flash) && decide (k = pa / 4096)) || s1.stackHeld pa then s
      else if v = 0#2 then
        if (s1.l1Hit s1.g.core pa s1.g.fstamp).isSome then s1 else
        let s2 := if inL2 false pa then { s1 with m := s1.m.readL2 (lineOf pa) 0 } else s1
        s2.fillL1 s2.g.core pa
      else if inL2 false pa then { s1 with m := s1.m.fillL2 (lineOf pa) 0 } else s1
    | _ => s

/-- PREF (R212): a hint; it changes no register and never traps. -/
def execPref (v : BitVec 2) (b : Reg) (o : BitVec 9) (s : State) : Result :=
  issue (.pref v b o) s fun s =>
    ((lanesOf s.grd).foldl (fun t l => t.prefLane v (s.addr64 b (offBytes o (s.w / 8)) l)) s).done

/-- LDS (R213): a load from the scratchpad or the column window. -/
def execLds (d b : Reg) (o : BitVec 9) (l : BitVec 4) (s : State) : Result :=
  memory (.lds d b o l) s

/-- STS (R213): a store to the scratchpad or the column window. -/
def execSts (d b : Reg) (o : BitVec 9) (l : BitVec 4) (s : State) : Result :=
  memory (.sts d b o l) s

/-- LDC (R213): a load from cluster memory. -/
def execLdc (d b : Reg) (o : BitVec 9) (l : BitVec 4) (s : State) : Result :=
  memory (.ldc d b o l) s

/-- STC (R213): a store to cluster memory. -/
def execStc (d b : Reg) (o : BitVec 9) (l : BitVec 4) (s : State) : Result :=
  memory (.stc d b o l) s

/-- LDX (R213): a load from the chip scratchpad. -/
def execLdx (d b : Reg) (o : BitVec 9) (l : BitVec 4) (s : State) : Result :=
  memory (.ldx d b o l) s

/-- STX (R213): a store to the chip scratchpad. -/
def execStx (d b : Reg) (o : BitVec 9) (l : BitVec 4) (s : State) : Result :=
  memory (.stx d b o l) s

/-- LDL (R213): a load from the lane's own slice. -/
def execLdl (d b : Reg) (o : BitVec 9) (l : BitVec 4) (s : State) : Result :=
  memory (.ldl d b o l) s

/-- STL (R213): a store to the lane's own slice. -/
def execStl (d b : Reg) (o : BitVec 9) (l : BitVec 4) (s : State) : Result :=
  memory (.stl d b o l) s

/-- AMO (R215, R216): an atomic at its home; the old value goes to d. -/
def execAmo (d a b : Reg) (l : BitVec 4) (o : BitVec 3) (s : State) : Result :=
  memory (.amo d a b l o) s

/-- CAS (R217): compare and swap. -/
def execCas (d a b : Reg) (l : BitVec 4) (s : State) : Result :=
  memory (.cas d a b l) s

/-- AMOS (R215, R219): an atomic of the base die. -/
def execAmos (d a b : Reg) (l : BitVec 4) (o : BitVec 3) (s : State) : Result :=
  memory (.amos d a b l o) s

/-- RED (R215): an atomic without a destination. -/
def execRed (a b : Reg) (l : BitVec 4) (o : BitVec 3) (s : State) : Result :=
  memory (.red a b l o) s

/-! ## Events -/

/-- LOAD_RESPONSE (R206): a load or an atomic returns its value. -/
def execLoadResponse (rid : Nat) (src : LoadSource) (s : State) : Result := occur s fun s => s.loadResponse rid src

/-- WRITE_PERFORM (R182): a write is accepted and performs. -/
def execWritePerform (rid : Nat) (s : State) : Result := occur s fun s => s.writePerform rid

/-- ATOMIC_PERFORM (R194): an atomic performs. -/
def execAtomicPerform (rid : Nat) (s : State) : Result := occur s fun s => s.atomicPerform rid

/-- LEASE_EXPIRY (R163): a core's copy of a line whose lease has run out is no longer valid. -/
def execLeaseExpiry (core line : Nat) (s : State) : Result :=
  occur s fun s => { s with m := { s.m with l1 := s.m.l1.filter fun x =>
    !(decide (x.core = core) && decide (x.line = line) && decide (x.expiry ≤ s.dev.time)) } }

/-- The race windows of all words of a line have closed (R183). -/
def State.windowsShut (s : State) (line : Nat) : Bool :=
  s.m.races.all fun p => decide (p.word / 32 ≠ line) || decide (p.perf.toNat + p.rho.toNat ≤ s.dev.time.toNat)

/-- L2_LINE_EVICTION (R183, R279): a line leaves its home slice once its race windows have closed; a dirty one is written back. -/
def execL2LineEviction (line : Nat) (s : State) : Result :=
  occur s fun s => if s.windowsShut line && !s.stackHeld (128 * line) then { s with m := s.m.evictL2 line } else s

end Sys2Proof.Machine
end

