-- ==== Sys2Proof/Machine/Sync.lean ====
section
/-!
DEFINITION. Sys2Proof/Machine/Sync.lean: fences (R195–R201, R220–R223), tagged words (R167–R172, R224–R226) and transaction barriers
(R173–R179, R227–R230).
-/

namespace Sys2Proof.Machine

open Sys2Proof

/-! ## Fences -/

/-- FENCE (R195, R220): it holds back later accesses of its classes, not its split. -/
def execFence (c : BitVec 4) (sc p : BitVec 6) (s : State) : Result :=
  issue (.fence c sc p) s fun s =>
    let f : FenceRec := { seq := s.seq, lanes := s.act, pred := p, succ := sc, scope := c.toNat }
    ((s.onG fun g => { g with fences := g.fences ++ [f] }).settleGroup s.g.gid).done

/-- The next instruction's place in program order: everything issued so far is before it. -/
def State.here (s : State) : Nat := s.seq + 1

/-- Accesses of the split on a path are outstanding (R197). -/
def State.pathPending (s : State) (p scope : Nat) : Bool :=
  match p with
  | 0 => s.releaseWaits s.g s.here s.act scope
  | 1 => s.enginePending s.g.gid s.here s.act false
  | 2 => s.enginePending s.g.gid s.here s.act false || (decide (7 ≤ scope) && s.poolPending 2 s.g.gid s.here s.act)
  | 3 => s.g.matrixPending s.here s.act
  | 4 => s.g.matrixPending s.here s.act || (decide (7 ≤ scope) && s.poolPending 4 s.g.gid s.here s.act)
  | 5 => s.enginePending s.g.gid s.here s.act true || (decide (7 ≤ scope) && s.poolPending 2 s.g.gid s.here s.act)
  | 6 => s.releaseWaits s.g s.here s.act scope || s.eng.ired.any fun c => decide (c.gid = s.g.gid)
  | _ => s.eng.nb.any fun q => decide (q.gid = s.g.gid)

/-- The keel staging cache of a core's cluster. -/
def keelOf (core : Nat) : Nat := core / 4

/-- The staging-cache lines that hold a dirty word that a test admits. -/
def State.dirtyLines (s : State) (p : DirtyWord → Bool) : List KeelLine := s.m.keel.filter fun k => k.dirty.any p

/-- The staging-cache lines that hold a dirty word of the group, wherever it ran when its command wrote it. -/
def State.ownDirty (s : State) (g : Group) : List KeelLine := s.dirtyLines fun d => decide (d.gid = g.gid)

/-- A crossing publishes the staging caches' lines (R197, R280); one from a path to itself crosses nothing (R221). -/
def publishes (f t : Nat) : Bool := decide (f ≠ t) && (decide (f = 2) || decide (f = 5) || decide (t = 6) || decide (t = 7))

/-- Something that a crossing at a scope waits for is outstanding: the accesses on its path, and at pool and system scope the global performance of the pool words it
publishes (R197, R392). -/
def State.crossPending (s : State) (f t scope : Nat) : Bool :=
  s.pathPending f scope || (decide (7 ≤ scope) && publishes f t && (s.poolPending 2 s.g.gid s.here s.act || s.poolDirty s.g.gid))

/-- A line that its staging cache owns is written back and stays there, clean and shared (R387, R389). -/
def State.publish (s : State) (k : KeelLine) : State :=
  let s1 := s.writeBack k.cache k.line true
  { s1 with m := s1.m.setDir { line := k.line, owner := none, sharers := [agentOf k.cache] } }

/-- While a crossing of `who` waits, of its dirty lines those that can be written back are, and the others wait at their homes (R164, R388). Those of the pool are so on their
way to its memory (R392). -/
def State.pushLines (s : State) (who : Nat) (ks : List KeelLine) : State :=
  ks.foldl (fun s k => if s.lineReady who k then (s.publish k).forgetAt who (128 * k.line) else s.await who (128 * k.line)) s

/-- The same for the group's crossing. -/
def State.pushDirty (s : State) : State := s.pushLines s.g.gid (s.ownDirty s.g)

/-- The lines of a staging cache that are clean leave it (R197). -/
def State.dropClean (s : State) (cache : Nat) : State :=
  let gone := fun (k : KeelLine) => decide (k.cache = cache) && k.dirty.isEmpty
  let lines := (s.m.keel.filter gone).map (·.line)
  let unshare := fun (d : DirEntry) => if lines.any fun x => decide (x = d.line) then d.leave (agentOf cache) else d
  { s with m := { s.m with keel := s.m.keel.filter fun k => !gone k,
                           dir := (s.m.dir.map unshare).filter fun d => d.owner.isSome || !d.sharers.isEmpty } }

/-- The lines of HBM4E that L2 holds dirty are written to DRAM (R280). -/
def MemSys.cleanHbm (m : MemSys) : MemSys :=
  m.l2.foldl (fun m x => if x.dirty ∧ tierOf (128 * x.line) = some .hbm then m.cleanL2 x.line else m) m

/-- The lines of HBM4E that L2 holds clean but that no longer agree with DRAM leave it: near-bank sequences have written them (R280). -/
def MemSys.dropOld (m : MemSys) : MemSys :=
  { m with l2 := m.l2.filter fun x => x.dirty || decide (tierOf (128 * x.line) ≠ some .hbm) || decide (x.data = Store.slice m.mem (128 * x.line) 128) }

/-- The crossing of an XFENCE (R186, R197, R280). -/
def State.cross (s : State) (f t : Nat) : State :=
  let s1 := if publishes f t then ((s.ownDirty s.g).foldl State.publish s).forgetWaits fun n => decide (n = s.g.gid) else s
  let s2 := if f ≠ t ∧ (t = 6 ∨ t = 7) then { s1 with m := s1.m.cleanHbm } else s1
  let s3 := if f ≠ t ∧ (t = 1 ∨ t = 2 ∨ t = 5) then s2.dropClean (keelOf s2.g.core) else s2
  let s4 := if f ≠ t ∧ f = 7 then { s3 with m := s3.m.dropOld } else s3
  s4.onG fun g => if t = 0 then g.stampF s.dev.time else g.stampO s.dev.time

/-- What a launch or its completion crosses on every path (R197, R198, R280, R311): the dirty words that a test admits are published, L2 agrees with DRAM,
and the staging caches hold no old line of a page with MS. -/
def State.crossWords (s : State) (p : DirtyWord → Bool) : State :=
  let s1 := (s.dirtyLines p).foldl State.publish s
  let s2 : State := { s1 with m := s1.m.cleanHbm.dropOld }
  ((s2.m.keel.filter fun k => k.ms && k.dirty.isEmpty).map (·.cache)).foldl (fun s c => s.dropClean c) s2

/-- XFENCE (R197, R221): it holds its split until every access on the from-path is complete and published; at pool and system scope, until the pool words are globally
performed (R392). -/
def execXfence (c t f : BitVec 4) (s : State) : Result :=
  issueOr (.xfence c t f) s
    (fun s => !s.crossPending f.toNat t.toNat c.toNat && (!publishes f.toNat t.toNat || (s.ownDirty s.g).all (s.lineReady s.g.gid)))
    (fun s => (if publishes f.toNat t.toNat then s.pushDirty else s).hold)
    fun s => (s.cross f.toNat t.toNat).done

/-- Some access of the split in any class is outstanding. -/
def State.anyPending (s : State) : Bool :=
  s.releaseWaits s.g s.here s.act 0 || s.enginePending s.g.gid s.here s.act false || s.enginePending s.g.gid s.here s.act true ||
    s.g.matrixPending s.here s.act

/-- Writes to the core's column memory are not yet in the array (R200, R419). -/
def State.columnDirty (s : State) : Bool :=
  decide ((s.columnWin s.g.ctx s.g.core).2 ≠ 0) && s.onchip.colbuf.any fun u => decide (u.core = s.g.core)

/-- Appends of the group are not flash-durable yet (R201). -/
def State.appendsPending (s : State) : Bool :=
  (s.g.log.any fun x => match x.i with | .append .. => true | _ => false) ||
    (decide (s.g.appended ≠ 0) && !s.resolved s.g.ctx s.g.appended)

/-- PFENCE (R200, R201, R222): kind 0 waits until column writes are tile-persistent, kind 1 until appends are flash-durable. -/
def execPfence (k : BitVec 2) (s : State) : Result :=
  issueOr (.pfence k) s
    (fun s => !s.anyPending && (if k = 0#2 then s.g.onControl || !s.columnDirty else !s.appendsPending))
    (fun s => if k = 0#2 then s.holdIn (.fencing true) else s.hold)
    fun s => (s.onG fun g => if k = 0#2 then g.stampO s.dev.time else g.stampF s.dev.time).done

/-- The cores an ICINV reaches (R223). -/
def State.icReach (s : State) (sc core : Nat) : Bool :=
  if sc ≤ 3 then decide (core = s.g.core)
  else if sc = 4 then decide (core = s.g.core) || s.teams.any fun t => decide (t.core = core) && decide (t.ls = s.g.lslot.toNat) &&
    decide (t.ctx = s.g.ctx) && decide (t.tidx / pktGang (s.packetOf s.g) = s.g.tidx.toNat / pktGang (s.packetOf s.g))
  else if sc = 5 then decide (core = s.g.core) || (decide (core < 256) && !s.g.onControl && decide (quarterOf core = quarterOf s.g.core))
  else true

/-- ICINV (R223): every core in reach discards its instruction-cache lines. -/
def execIcinv (sc : BitVec 4) (s : State) : Result :=
  issueWhen (.icinv sc) s (fun s => !s.writesPending s.g s.here s.act)
    fun s => ({ s with m := { s.m with icache := s.m.icache.filter fun x => !s.icReach sc.toNat x.core } } : State).done

/-! ## Tagged words -/

/-- The check a lane of a tagged instruction fails first: its place in R172's order, cause and TVAL. -/
def State.tagCheck (s : State) (g : Group) (o : TagOp) (off : Nat) : Option (Nat × Nat × W64) :=
  if off % 4 ≠ 0 then some (1, 0x05, BitVec.ofNat 64 off)
  else
    match s.scratchPlace g off with
    | none => some (2, 0x09, BitVec.ofNat 64 off)
    | some (sp, _) =>
      if sp ≠ .scratch then some (3, 0x12, BitVec.ofNat 64 off)
      else if o = .stfe ∨ o = .fesetE ∨ o = .fesetF then (s.armedIn g.tid off 4).map fun slot => (4, 0x11, BitVec.ofNat 64 slot)
      else none

/-- The failures of the pending lanes of a tagged instruction. -/
def State.tagFails (s : State) (g : Group) (e : LogEntry) (o : TagOp) : List (Nat × Nat × Nat × W64 × W64) :=
  (lanesOf e.pend).filterMap fun l =>
    (s.tagCheck g o (Store.get e.addr l).toNat).map fun c => (c.1, c.2.1, l, c.2.2, 0)

/-- The pending lanes of a tagged instruction are checked and served (R168, R172, R225). -/
def State.launchTag (s : State) (seq : Nat) : State :=
  match s.g.entryOf seq with
  | none => s
  | some e =>
    match tagOp e.i with
    | none => s
    | some o =>
      match accessTrap e (s.tagFails s.g e o) with
      | some t => s.report t
      | none => s.runTagged s.g.gid e.entry

/-- A FENCE holds back the instruction's accesses (R195, R220). -/
def State.heldByFence (s : State) (i : Instr) : Bool :=
  (readsMem i && s.g.fenced s.here s.act 0) || (writesMem i && s.g.fenced s.here s.act 1)

/-- An earlier access of the split to `n` bytes of its scratchpad from a key on has not performed (R185). -/
def State.scratchPending (s : State) (key n : Nat) : Bool :=
  s.m.reqs.any fun q => decide (q.gid = s.g.gid) && decide (q.lanes &&& s.act ≠ 0#32) && !q.performed && decide (q.space = .scratch) &&
    decide (q.key < key + n) && decide (key < q.key + q.size)

/-- A tagged instruction may begin: no FENCE holds it back and no earlier access of its split to one of its words is outstanding (R185, R195). -/
def State.tagGo (s : State) (i : Instr) (a : Reg) : Bool :=
  !s.heldByFence i && (lanesOf s.work).all fun l =>
    match s.scratchPlace s.g (s.rd a l).toNat with
    | some (.scratch, key) => !s.scratchPending (key / 4 * 4) 4
    | _ => true

/-- A tagged instruction issues: its log entry with the offsets and data as read now. A uniform destination takes the value of the lowest GUARD lane that is no
helper, since a helper lane performs none (DESIGN CHOICE, log 73). -/
def State.tagIssue (s : State) (i : Instr) (d a b : Reg) : State :=
  let e : LogEntry :=
    { id := s.g.freeEntry.getD 0, seq := s.seq, i := i, mode := s.md, entry := s.entry, lanes := s.act, pend := s.work, flight := 0,
      addr := byLane s.work fun l => (s.rd a l).setWidth 64, val := byLane s.work fun l => (s.rd b l).setWidth 64, val2 := [],
      dst := s.g.dst d false, aux := 0 }
  if s.work = 0#32 then s.done
  else ((s.onG fun g => ({ g with log := g.log ++ [e] }).owe e.seq e.dst e.pend).done).launchTag e.seq

/-- LDFE (R225): waits until full. -/
def execLdfe (d a : Reg) (s : State) : Result := issueWhen (.ldfe d a) s (fun s => s.tagGo (.ldfe d a) a) fun s => s.tagIssue (.ldfe d a) d a 63

/-- LDFE.e (R225): waits until full, and empties the word. -/
def execLdfeE (d a : Reg) (s : State) : Result := issueWhen (.ldfeE d a) s (fun s => s.tagGo (.ldfeE d a) a) fun s => s.tagIssue (.ldfeE d a) d a 63

/-- STFE (R225, R226): after the split's earlier accesses, waits until empty and fills the word. -/
def execStfe (a b : Reg) (s : State) : Result :=
  issueWhen (.stfe a b) s (fun s => s.tagGo (.stfe a b) a && !s.releaseWaits s.g s.here s.act 3) fun s => s.tagIssue (.stfe a b) 63 a b

/-- FESET.e (R225). -/
def execFesetE (a : Reg) (s : State) : Result := issueWhen (.fesetE a) s (fun s => s.tagGo (.fesetE a) a) fun s => s.tagIssue (.fesetE a) 63 a 63

/-- FESET.f (R225). -/
def execFesetF (a : Reg) (s : State) : Result := issueWhen (.fesetF a) s (fun s => s.tagGo (.fesetF a) a) fun s => s.tagIssue (.fesetF a) 63 a 63

/-- FEQ (R225): 1 where the word is full. -/
def execFeq (d a : Reg) (s : State) : Result := issueWhen (.feq d a) s (fun s => s.tagGo (.feq d a) a) fun s => s.tagIssue (.feq d a) d a 63

/-- The retry-parked splits of a core, each with the name of the try that parked it (R169). -/
def State.parkedOn (s : State) (core : Nat) : List (Nat × Nat × Nat) :=
  (s.groups.filter fun g => decide (g.place = .resident) && decide (g.core = core)).flatMap fun g =>
    (List.range 4).filterMap fun e => match g.split e with
      | some x => (match x.wait with | .retryParked n => some (n, g.gid, e) | _ => none)
      | none => none

/-- WAIT_TABLE_RETRY (R169): a retry-parked split tries its next lane again, unless an older one of its core could be served now. -/
def execWaitTableRetry (gid e : Nat) (s : State) : Result :=
  occur s fun s =>
    match s.find gid with
    | none => s
    | some g =>
      match (s.parkedOn g.core).find? fun p => decide (p.2 = (gid, e)) with
      | none => s
      | some (n, _) =>
        if (s.parkedOn g.core).any fun p => decide (p.1 < n) && decide (s.runTagged p.2.1 p.2.2 ≠ s) then s else s.runTagged gid e

/-! ## Transaction barriers -/

/-- The checks of R178 on a slot offset, before those on its state. -/
def State.slotCheck (s : State) (g : Group) (off : Nat) : Option Nat :=
  if off % 16 ≠ 0 then some 0x05
  else
    match s.scratchPlace g off with
    | none => some 0x09
    | some (.scratch, _) => (match s.teamOf g with | some t => if t.size < off + 16 then some 0x09 else none | none => some 0x09)
    | some _ => some 0x11

/-- A bound command of the slot is unfinished. -/
def State.bound (s : State) (tid off : Nat) : Bool := s.eng.cmds.any fun c => decide (c.tid = tid) && decide (c.bar = some off)

/-- The cause a barrier instruction traps with, if any (R178, R228); `v` is its operand. -/
def State.barCause (s : State) (i : Instr) (off : Nat) (v : W32) : Option Nat :=
  match s.slotCheck s.g off with
  | some c => some c
  | none =>
    match i, s.teamOf s.g with
    | _, none => some 0x09
    | .tbinit .., _ =>
      if (s.armedIn s.g.tid off 16).isSome || decide (v.toNat = 0) || decide (32767 < v.toNat) || (s.freeArmed s.g.core).isNone then some 0x11
      else none
    | i, some t =>
      if (s.armedAt s.g.tid off).isNone then some 0x11
      else
        let w0 := (s.teamWord t off).toNat
        match i with
        | .tbarr .. =>
          if v.toInt < 0 ∨ (s.teamWord t (off + 4)).toInt - v.toInt < -(2 ^ 31) ∨ bits w0 15 0 = bits w0 30 16 then some 0x11 else none
        | .tbret .. =>
          if (s.onchip.barWaits.any fun w => decide (w.tid = s.g.tid) && decide (w.slot = off)) || s.bound s.g.tid off then some 0x11 else none
        | _ => none

/-- A barrier instruction may begin: no FENCE holds it back and no earlier access of its split to the slot's words is outstanding (R185, R195, R403). -/
def State.barGo (s : State) (i : Instr) (a : Reg) : Bool :=
  !s.heldByFence i &&
    match s.issuer with
    | none => true
    | some l => (match s.scratchPlace s.g (s.rd a l).toNat with | some (.scratch, key) => !s.scratchPending (key / 16 * 16) 16 | _ => true)

/-- A barrier instruction: one operation in the issuing lane, none without one (R227). -/
def State.barOp (s : State) (i : Instr) (a b : Reg) (k : State → Team → Nat → W32 → State) : State :=
  match s.issuer with
  | none => s.done
  | some l =>
    let off := (s.rd a l).toNat
    match s.barCause i off (s.rd b l), s.teamOf s.g with
    | some c, _ => s.raise i c (BitVec.ofNat 64 off)
    | none, some t => k s t off (s.rd b l)
    | none, none => s.done

/-- TBINIT (R175, R228): arms the slot with a quota. -/
def execTbinit (a b : Reg) (s : State) : Result :=
  issueWhen (.tbinit a b) s (fun s => s.barGo (.tbinit a b) a) fun s => s.barOp (.tbinit a b) a b fun s t off v =>
    (s.arm t off v.toNat ((s.freeArmed s.g.core).getD 0)).done

/-- TBARR (R175, R228, R230): one arrival, a release at team scope; d gets the phase before it. A helper lane makes no barrier operation and keeps its destination
(R204), which R227 does not repeat (DESIGN CHOICE, log 72). -/
def execTbarr (d a b : Reg) (s : State) : Result :=
  issueWhen (.tbarr d a b) s (fun s => s.barGo (.tbarr d a b) a && !s.releaseWaits s.g s.here s.act (s.scopeOf s.g 2)) fun s =>
    s.barOp (.tbarr d a b) a b fun s t off v =>
      ((s.wrIn d s.work fun _ => BitVec.ofNat 32 (bits (s.teamWord t off).toNat 31 31)).arrive t off v).done

/-- What a TBWAIT that tests a slot finds: its result word, or that it must wait (R229); and whether it found a flip. -/
def State.testBar (s : State) (t : Team) (off parity : Nat) : Option (W32 × Bool) :=
  let w0 := (s.teamWord t off).toNat
  let w2 := (s.teamWord t (off + 8)).toNat
  let flipped := decide (bits w0 31 31 ≠ parity)
  let fault := decide (bits w2 31 31 = 1)
  let last := match s.armedAt t.tid off with | some a => a.last.toNat | none => 0
  if flipped || fault then
    some (waitWord fault flipped (if fault then bits w2 29 24 else 0) (if flipped then last else bits w2 23 0), flipped)
  else none

/-- A TBWAIT in the log is checked (R178), tests its slot, and joins the waiters where it must wait. -/
def State.launchBar (s : State) (seq : Nat) : State :=
  match s.g.entryOf seq, s.teamOf s.g with
  | some e, some t =>
    let off := (Store.get e.addr 0).toNat
    let w : BarWaiter := { tid := s.g.tid, slot := off, gid := s.g.gid, entry := e.entry }
    match s.barCause e.i off 0, s.testBar t off (Store.get e.val 0).toNat with
    | some c, _ =>
      s.report { cause := c, async := false, val := BitVec.ofNat 64 off, ins := encode e.i, fmask := e.lanes, wdet := 0, logged := some e.id, entry := e.entry }
    | none, some (word, flipped) => s.releaseBar w word flipped
    | none, none =>
      ({ s with onchip := { s.onchip with barWaits := s.onchip.barWaits ++ [w] } } : State).onG fun g =>
        g.onSplit e.entry fun x => { x with wait := .queued }
  | _, _ => s

/-- TBWAIT (R229): waits for the next flip of the slot, unless the phase differs already or the slot is faulted. A helper lane keeps its destination (log 72). -/
def execTbwait (d a b : Reg) (s : State) : Result :=
  issueWhen (.tbwait d a b) s (fun s => s.barGo (.tbwait d a b) a) fun s => s.barOp (.tbwait d a b) a b fun s _ off v =>
    let e : LogEntry :=
      { id := s.g.freeEntry.getD 0, seq := s.seq, i := .tbwait d a b, mode := s.md, entry := s.entry, lanes := s.act, pend := s.work, flight := 0,
        addr := Store.put [] 0 (BitVec.ofNat 64 off), val := Store.put [] 0 ((v &&& 1#32).setWidth 64), val2 := [], dst := s.g.dst d false,
        aux := 0 }
    ((s.onG fun g => ({ g with log := g.log ++ [e] }).owe e.seq e.dst e.pend).done).launchBar e.seq

/-- TBRET (R175, R228): retires the slot. -/
def execTbret (a : Reg) (s : State) : Result :=
  issueWhen (.tbret a) s (fun s => s.barGo (.tbret a) a) fun s => s.barOp (.tbret a) a 63 fun s t off _ => (s.retireBar t off).done

end Sys2Proof.Machine
end

