-- ==== Sys2Proof/Machine/Coherence.lean ====
section
/-!
DEFINITION. Sys2Proof/Machine/Coherence.lean: the home directory and the keel staging caches (R387–R389, R435), the pool's
back-invalidation and completions (R391, R392), and the events by which they act.
-/

namespace Sys2Proof.Machine

open Sys2Proof

/-! ## Fills and ownership (R387) -/

/-- The line is of a page with MS, as a cache of the device holds it, or a translation or the tables of a context map it: what a directory event that names a line
alone acts on (DESIGN CHOICE, log 76). -/
def State.msLine (s : State) (line : Nat) : Bool :=
  (s.m.keel.any fun k => decide (k.line = line) && k.ms) ||
    (s.m.tlb.any fun t => pteMs t.pte && decide (ptePa t.pte / 128 ≤ line) && decide (line < (ptePa t.pte + pageBytes t.level) / 128)) ||
    s.ctxs.any fun x => x.live && s.m.msBelow line 5 x.root

/-- The lines a keel staging cache holds: 2 MiB of 128-byte lines (R10, R14). -/
def keelLines : Nat := 16384

/-- A keel staging cache has room for a line, or makes it: the clean line it has held longest leaves with a notice (R387); none while all are dirty (DESIGN
CHOICE, log 70). -/
def State.keelRoom (s : State) (cache line : Nat) : Option State :=
  let mine := s.m.keel.filter fun k => decide (k.cache = cache)
  if (s.m.keelLine cache line).isSome || decide (mine.length < keelLines) then some s
  else (mine.find? fun k => k.dirty.isEmpty).map fun k =>
    { s with m := (s.m.dropKeel cache k.line).setDir ((s.m.dirEntry k.line).leave (agentOf cache)) }

/-- The read of a line at its L2 home for another cache (R166). -/
def State.homeFill (s : State) (line : Nat) (ms : Bool) : State :=
  if inL2 ms (128 * line) then { s with m := s.m.readL2 line 0 } else s

/-- A keel staging cache obtains a line for `who` to read; none while the home must wait (R387, R388). -/
def State.fillKeel (s : State) (who cache line : Nat) (ms : Bool) : Option State :=
  if (s.m.keelLine cache line).isSome then some s
  else if s.fillWaits who (agentOf cache) line || s.stackHeld (128 * line) then none
  else
    (s.keelRoom cache line).map fun s =>
      let s1 := s.shareLine (agentOf cache) line
      let k : KeelLine := { cache := cache, line := line, ms := ms, data := s1.m.homeLine line, bad := s1.m.homeBad line, dirty := [], since := 0, got := s.dev.time }
      let s2 := s1.homeFill line ms
      { s2 with m := s2.m.setKeel k }

/-- A keel staging cache obtains a line for `who` to write: every other copy goes (R387, R388). What it owns already it keeps. -/
def State.ownKeel (s : State) (who cache line : Nat) (ms : Bool) : Option State :=
  let me := agentOf cache
  if decide ((s.m.dirEntry line).owner ≠ some me) && (s.fillWaits who me line || s.stackHeld (128 * line)) then none
  else
    (s.keelRoom cache line).map fun s =>
      let s1 := match (s.m.dirEntry line).owner with
        | some a => if a = me then s else s.writeBack (a - 32) line false
        | none => s
      let (k, s2) := match s1.m.keelLine cache line with
        | some k => ({ k with ms := ms }, s1)
        | none => (({ cache := cache, line := line, ms := ms, data := s1.m.homeLine line, bad := s1.m.homeBad line, dirty := [], since := 0, got := s.dev.time } : KeelLine), s1.homeFill line ms)
      let m1 := { s2.m with keel := s2.m.keel.filter fun x => decide (x.line ≠ line) }
      { s2 with m := (m1.setKeel k).setDir { line := line, owner := some me, sharers := [] } }

/-- A write lands in a line its cache owns: each word touched is dirty with the writer's rank and stamp (R388); a sector that is dirty all over is no longer poisoned
(R432). -/
def KeelLine.write (k : KeelLine) (w : DirtyWord) (time : W64) (pa n v : Nat) : KeelLine :=
  let ws := (List.range 32).filter fun j => (wordsOf pa n).getLsbD j
  let new := ws.map fun j => { w with word := 32 * k.line + j }
  let all := (k.dirty.filter fun d => ws.all fun j => decide (d.word ≠ 32 * k.line + j)) ++ new
  let whole := fun (j : Nat) => (List.range 8).all fun i => all.any fun d => decide (d.word = 32 * k.line + 8 * j + i)
  { k with bad := (List.range 4).foldl (fun b j => if whole j then b &&& ~~~(sectorBit j) else b) k.bad, data := Store.putLE k.data (pa % 128) n v, since := if k.dirty.isEmpty then time else k.since,
           dirty := all }

/-! ## Events of the directory -/

/-- DIR_READ_FILL (R387): an agent fills a line. -/
def execDirReadFill (agent line : Nat) (s : State) : Result :=
  occur s fun s =>
    if 96 ≤ agent ∨ s.fillWaits 0 agent line then s
    else if agent < 32 then (s.shareLine agent line).homeFill line (s.msLine line)
    else (s.fillKeel 0 (agent - 32) line (s.msLine line)).getD s

/-- DIR_OWNERSHIP_REQUEST (R387): a keel staging cache asks for ownership. -/
def execDirOwnershipRequest (agent line : Nat) (s : State) : Result :=
  occur s fun s => if agent < 32 ∨ 96 ≤ agent then s else (s.ownKeel 0 (agent - 32) line (s.msLine line)).getD s

/-- DIR_WRITE_AT_HOME (R387): a write reaches the home: the owner is recalled, or every sharer invalidated. -/
def execDirWriteAtHome (line : Nat) (s : State) : Result :=
  occur s fun s => if !s.lineTurn line 0 || s.ownerHeld line then s else s.recall line

/-- The owner of a line is this agent, and its dirty words can perform. -/
def State.canWriteBack (s : State) (agent line : Nat) : Bool :=
  decide ((s.m.dirEntry line).owner = some agent) &&
    (match s.m.keelLine (agent - 32) line with | some k => s.lineReady (gleanName k.cache line) k | none => false)

/-- The owner writes a line back; it keeps it clean as a sharer, or evicts it (R387). -/
def State.ownerWriteback (s : State) (agent line : Nat) (evict : Bool) : State :=
  let s1 := s.writeBack (agent - 32) line (!evict)
  { s1 with m := s1.m.setDir { line := line, owner := none, sharers := if evict then [] else [agent] } }

/-- DIR_WRITEBACK (R387): the owner writes back. -/
def execDirWriteback (agent line : Nat) (evict : Bool) (s : State) : Result :=
  occur s fun s => if s.canWriteBack agent line then s.ownerWriteback agent line evict else s

/-- DIR_CLEAN_EVICT_NOTICE (R387): a sharer evicts its clean copy. -/
def execDirCleanEvictNotice (agent line : Nat) (s : State) : Result :=
  occur s fun s =>
    let d := s.m.dirEntry line
    if d.sharers.any (fun x => decide (x = agent)) then
      let m1 := s.m.setDir { d with sharers := d.sharers.filter fun a => decide (a ≠ agent) }
      { s with m := if agent < 32 then m1 else m1.dropKeel (agent - 32) line }
    else s

/-- The gleaner may write a line back: dirty for 4,096 ticks, or more than a quarter of the cache is dirty and no line is dirty for longer
(R389). -/
def State.gleans (s : State) (k : KeelLine) : Bool :=
  let dirty := s.m.keel.filter fun x => decide (x.cache = k.cache) && !x.dirty.isEmpty
  !k.dirty.isEmpty && (decide (k.since.toNat + 4096 ≤ s.dev.time.toNat) ||
    (decide (keelLines < 4 * dirty.length) && dirty.all fun x => decide (k.since ≤ x.since)))

/-- GLEANER (R389): a dirty line is written back early and stays, clean. -/
def execGleaner (cache line : Nat) (s : State) : Result :=
  occur s fun s =>
    match s.m.keelLine cache line with
    | some k =>
      if !s.gleans k then s
      else if s.canWriteBack (agentOf cache) line then s.ownerWriteback (agentOf cache) line false
      else s.await (gleanName cache line) (128 * line)
    | none => s

/-- A 32-byte sector is marked poisoned, and counted by its tier (R432, R436). -/
def State.poisonSector (s : State) (k : Nat) : State :=
  if s.m.poison.any fun y => decide (y = k) then s
  else
    let s1 : State := { s with m := { s.m with poison := s.m.poison ++ [k] } }
    match tierOf (32 * k) with
    | some .hbm => s1.count 0x421 1
    | some .lpd => s1.count 0x423 1
    | _ => s1

/-- A sector is poisoned as its home holds it: in the L2 line, or in memory. -/
def State.poisonHome (s : State) (k : Nat) : State :=
  match s.m.l2Line (k / 4) with
  | none => s.poisonSector k
  | some _ =>
    let s1 : State := { s with m := { s.m with l2 := s.m.l2.map fun x => if x.line = k / 4 then { x with bad := x.bad ||| sectorBit k } else x } }
    match tierOf (32 * k) with
    | some .hbm => s1.count 0x421 1
    | some .lpd => s1.count 0x423 1
    | _ => s1

/-- DIRECTORY_ENTRY_ERROR (R435): the line is recalled from every agent; one dirty response supplies the value, more than one poisons the
line; the fresh entry is Invalid. DIRUE counts it (R436). -/
def execDirectoryEntryError (line : Nat) (s : State) : Result :=
  occur s fun s =>
    let held := s.m.keel.filter fun k => decide (k.line = line) && !k.dirty.isEmpty
    if held.any fun k => k.dirty.any fun d => !s.homeReady d.ctx (4 * d.word) then s
    else
      let sectors := (List.range 4).map fun j => 4 * line + j
      let s1 := match held with
        | [k] => s.performKeel k
        | [] => s
        | _ => sectors.foldl State.poisonHome s
      let m1 := s1.m.setDir { line := line, owner := none, sharers := [] }
      ({ s1 with m := { m1 with keel := m1.keel.filter fun k => decide (k.line ≠ line) } } : State).count 0x426 1

/-! ## The pool (R391, R392) -/

/-- The port by which a pool page is reached (R391). -/
def poolPort (pa : Nat) : Nat := bits pa 14 12 ^^^ bits pa 17 15

/-- A BISnp arrives: no new lease is granted on the line, and local requests for it wait behind. -/
def State.snoopArrive (s : State) (line : Nat) : State :=
  let s1 := s.await (snoopName line) (128 * line)
  { s1 with fab := { s1.fab with snoops := (s1.fab.snoops.filter fun x => decide (x.line ≠ line)) ++
      [{ line := line, port := poolPort (128 * line), since := s.dev.time, answered := none }] } }

/-- The copy that a staging cache owns can be recalled. -/
def State.ownerClear (s : State) (line : Nat) : Bool :=
  match (s.m.dirEntry line).owner with
  | none => true
  | some a => (match s.m.keelLine (a - 32) line with | some k => k.dirty.all fun d => s.homeClear d.ctx (4 * d.word) | none => true)

/-- Every local copy of a snooped line that can go goes; once the leases have expired the BIRsp leaves (R391). No slice of L2 holds a line of the pool (DESIGN CHOICE,
log 106). -/
def State.snoopAnswer (s : State) (line : Nat) : State :=
  let s1 := if s.ownerClear line then s.recall line else s
  if !s.ownerClear line || !s.leaseOver line then s1
  else
    let s2 := s1.forgetWaits fun n => decide (n = snoopName line)
    { s2 with m := { s2.m with l1 := s2.m.l1.filter fun x => decide (x.line ≠ line) },
              fab := { s2.fab with snoops := s2.fab.snoops.map fun x => if x.line = line then { x with answered := some s.dev.time } else x } }

/-- BISNP (R391): the home agent recalls every local copy of a pool line, and answers once its leases have expired; it tries again by itself until then. -/
def execBisnp (line : Nat) (s : State) : Result :=
  occur s fun s =>
    if tierOf (128 * line) ≠ some .pool then s
    else (if s.snooped line then s else s.snoopArrive line).snoopAnswer line

/-- POOL_WRITE_COMPLETION (R392): the pool memory returns the completion: the write is globally performed; those of one place complete in the order of their arrival
there. The response to a killed pair is stale (R360, R364). -/
def execPoolWriteCompletion (rid : Nat) (s : State) : Result :=
  occur s fun s =>
    match s.fab.poolWrites.find? fun p => decide (p.rid = rid) with
    | none => s
    | some p =>
      if (s.fab.poolWrites.takeWhile fun q => decide (q.rid ≠ rid)).any p.meets then s
      else
        let s1 : State := { s with fab := { s.fab with poolWrites := s.fab.poolWrites.filter fun q => decide (q.rid ≠ rid) } }
        if s.liveTag p.ctx p.inc then s1.settleGroup p.gid else { s1 with dev := { s1.dev with orph := s1.dev.orph + 1 } }

end Sys2Proof.Machine
end

