-- ==== Sys2Proof/Machine/Streamer.lean ====
section
/-!
DEFINITION. Sys2Proof/Machine/Streamer.lean: what the streamer and the walker do beneath a core: tensor maps and tile images (R237–R241),
their memory and on-chip accesses (R246, R256), tree walks (R242), and the fault ring (R357).
-/

namespace Sys2Proof.Machine

open Sys2Proof

/-! ## Commands -/

/-- The forms of an engine command (R233). -/
inductive CmdForm where
  | tileIn
  | linIn
  | mem
  | tileOut
  | linOut
  | gath
  | scat
  | walk (floor : Bool)
  deriving DecidableEq, Repr

/-- The form of an instruction; none when it is no engine instruction. -/
def cmdForm : Instr → Option CmdForm
  | .cpyTile .. => some .tileIn
  | .cpyLin .. => some .linIn
  | .cpyMem .. => some .mem
  | .cpyoTile .. => some .tileOut
  | .cpyoLin .. => some .linOut
  | .gath .. => some .gath
  | .scat .. => some .scat
  | .walkExact .. => some (.walk false)
  | .walkFloor .. => some (.walk true)
  | _ => none

/-- The form of a command. -/
def Command.form (c : Command) : CmdForm := (cmdForm c.i).getD .linIn

/-- The command belongs to the walker. -/
def Command.walks (c : Command) : Bool := match c.form with | .walk _ => true | _ => false

/-- The command reads a tensor map. -/
def Command.mapped (c : Command) : Bool := match c.form with | .tileIn | .tileOut | .gath | .scat => true | _ => false

/-- Register `r` of the block in a lane. -/
def Command.reg (c : Command) (r l : Nat) : W32 := Store.get c.blk (32 * r + l)

/-- The issuing lane of the command (R234). -/
def Command.lane (c : Command) : Nat := (lowest c.part).getD 0

/-- A 64-bit value of two registers in the issuing lane. -/
def Command.long (c : Command) (r : Nat) : W64 := (c.reg (r + 1) c.lane ++ c.reg r c.lane : BitVec 64)

/-- The on-chip descriptor (R234). -/
def Command.desc (c : Command) : W32 :=
  match c.form with
  | .gath | .scat => c.reg 3 c.lane
  | _ => c.reg 7 c.lane

/-- A command by its core and tether slot. -/
def State.cmd (s : State) (core k : Nat) : Option Command := s.eng.cmds.find? fun c => decide (c.core = core) && decide (c.k = k)

/-- Changes a command. -/
def State.onCmd (s : State) (core k : Nat) (f : Command → Command) : State :=
  { s with eng := { s.eng with cmds := s.eng.cmds.map fun c => if c.core = core ∧ c.k = k then f c else c } }

/-! ## On-chip places (R234, R256) -/

/-- Where the bytes of an on-chip descriptor lie: a team's allocation, column memory, or the operand buffer. -/
inductive OcBase where
  | team (tid off : Nat)
  | column (key : Nat)
  | opbuf (key : Nat)
  deriving DecidableEq, Repr

/-- The key of a byte of a core's operand buffer. -/
def opKey (core b : Nat) : Nat := 0x40000 * core + b

/-- The live reservation of a team that a handle names (R251). -/
def State.reserv (s : State) (tid h : Nat) : Option Reserv :=
  s.onchip.reservs.find? fun r => decide (r.tid = tid) && decide (r.idx = h % 8) && decide (r.gen = h / 8 % 16)

/-- The place a descriptor starts at and the bytes from there to the end of its region; none when the start is not valid (R235). -/
def State.ocSpan (s : State) (g : Group) (desc : W32) : Option (OcBase × Nat) :=
  let off := bits desc.toNat 24 0
  if bits desc.toNat 29 25 ≠ 0 then none
  else
    match bits desc.toNat 31 30 with
    | 0 =>
      if off < 0x40000 then
        match s.teamOf g with
        | some t => if off < t.size then some (.team t.tid off, t.size - off) else none
        | none => none
      else
        let w := s.columnWin g.ctx g.core
        if 0x1000000 ≤ off ∧ off - 0x1000000 < w.2 then some (.column (columnKey g.core (w.1 + off - 0x1000000)), w.2 - (off - 0x1000000)) else none
    | 1 =>
      match s.reserv g.tid (bits off 24 18) with
      | some r => if bits off 17 0 < r.size then some (.opbuf (opKey r.core (r.off + bits off 17 0)), r.size - bits off 17 0) else none
      | none => none
    | 2 =>
      match (if bits off 24 20 = 0 then s.gangTeam g (bits off 19 18) else none) with
      | some t => if bits off 17 0 < t.size then some (.team t.tid (bits off 17 0), t.size - bits off 17 0) else none
      | none => none
    | _ => none

/-- The value of `n` bytes of an on-chip place. -/
def State.ocRead (s : State) (b : OcBase) (o n : Nat) : Nat :=
  match b with
  | .team tid off =>
    match s.team tid with
    | some t => if t.swapped then Store.getLE t.image (off + o) n else Store.getLE s.onchip.scratch (scratchKey t.core (t.base + off + o)) n
    | none => 0
  | .column key => leOf s.onchip.columnByte (key + o) n
  | .opbuf key => Store.getLE s.onchip.opbuf (key + o) n

/-- Some of `n` bytes of an operand buffer carry a poison mark (R432). -/
def OnChip.marked (o : OnChip) (key n : Nat) : Bool := o.opmark.any fun p => decide (key ≤ p.1) && decide (p.1 < key + n)

/-- The poison mark of `n` bytes that are written to an operand buffer: the mark of what is written (R432). -/
def OnChip.setMark (o : OnChip) (key n : Nat) (mark : Bool) : OnChip :=
  { o with opmark := Store.replace o.opmark key n (if mark then (List.range n).map fun j => (j, 1#1) else []) }

/-- Writes `n` bytes of an on-chip place; in an operand buffer with the poison mark that the data carry. -/
def State.ocWrite (s : State) (b : OcBase) (o n v : Nat) (mark : Bool) : State :=
  match b with
  | .team tid off => match s.team tid with | some t => s.putTeam t (off + o) n v | none => s
  | .column key => { s with onchip := s.onchip.putLE .column (key + o) n v }
  | .opbuf key => { s with onchip := ({ s.onchip with opbuf := Store.putLE s.onchip.opbuf (key + o) n v } : OnChip).setMark (key + o) n mark }

/-- Some armed slot meets the bytes of an on-chip place (R174). -/
def State.ocArmed (s : State) (b : OcBase) (o n : Nat) : Bool :=
  match b with
  | .team tid off => (s.armedIn tid (off + o) n).isSome
  | _ => false

/-! ## Tensor maps (R237, R238) -/

/-- A tensor map: extents, tile extents and strides by dimension; `run` is the number of output positions. -/
structure TMap where
  base : Nat
  conv : Bool
  rank : Nat
  esize : Nat
  tile : List Nat
  run : Nat
  tapW : Int
  tapH : Int
  leadW : Int
  leadH : Int
  trailW : Int
  trailH : Int
  ext : List Nat
  stride : List Nat
  deriving DecidableEq, Repr

/-- A byte of a map. -/
def mapByte (m : Store 8) (k : Nat) : Nat := (Store.get m k).toNat

/-- The map that 64 bytes hold, whatever rule they break. -/
def readMap (m : Store 8) : TMap :=
  { base := Store.getLE m 0 8, conv := decide (bits (mapByte m 8) 7 7 = 1), rank := bits (mapByte m 8) 6 4,
    esize := 2 ^ bits (mapByte m 8) 2 0, tile := (List.range 5).map fun k => mapByte m (9 + k) + 1, run := Store.getLE m 14 2 + 1,
    tapW := (Store.get m 16).toInt, tapH := (Store.get m 17).toInt, leadW := mapByte m 18, leadH := mapByte m 19,
    trailW := mapByte m 20, trailH := mapByte m 21, ext := (List.range 5).map fun k => bits (Store.getLE m (24 + 8 * k) 4) 30 0,
    stride := (List.range 5).map fun k => Store.getLE m (28 + 8 * k) 4 }

/-- The rules of R237 on the bytes of a map. -/
def mapOk (m : Store 8) : Bool :=
  let t := readMap m
  decide (t.base % 16 = 0) && decide (1 ≤ t.rank) && decide (t.rank ≤ 5) && decide (bits (mapByte m 8) 3 3 = 0) && decide (bits (mapByte m 8) 2 0 ≤ 4) &&
    (!t.conv || decide (t.rank = 4)) && decide (Store.getLE m 22 2 = 0) &&
    (t.conv || decide (Store.getLE m 14 8 = 0)) &&
    (List.range 5).all fun k =>
      (decide (k < t.rank ∧ (t.conv = false ∨ k = 0)) || decide (mapByte m (9 + k) = 0)) &&
      decide (bits (Store.getLE m (24 + 8 * k) 4) 31 31 = 0) &&
      (if k < t.rank then decide (t.ext.getD k 0 ≠ 0) else decide (t.ext.getD k 0 = 0)) &&
      (if 1 ≤ k ∧ k < t.rank then decide (t.stride.getD k 0 ≠ 0) else decide (t.stride.getD k 0 = 0))

/-- The address of a tensor element (R238). -/
def TMap.va (t : TMap) (xs : List Int) : W64 :=
  let rest := (List.range 4).foldl (fun (n : Int) k => n + 16 * (t.stride.getD (k + 1) 0 : Int) * xs.getD (k + 1) 0) 0
  BitVec.ofInt 64 (t.base + t.esize * xs.getD 0 0 + rest)

/-- clamp(x, 0, E − 1) (R239). -/
def edge (e : Nat) (x : Int) : Int := max 0 (min x ((e : Int) - 1))

/-- The digits of an image index, dimension 0 fastest (R239). -/
def digits : List Nat → Nat → List Nat
  | [], _ => []
  | t :: ts, n => n % t :: digits ts (n / t)

/-- The position after `p` steps of a convolution run (R239). -/
def TMap.convPos (t : TMap) : Nat → Int × Int × Int → Int × Int × Int
  | 0, p => p
  | n + 1, (w, h, m) =>
    let w1 := w + 1
    let (w2, h2) := if w1 > (t.ext.getD 1 0 : Int) - 1 + t.trailW then (-t.leadW, h + 1) else (w1, h)
    let (h3, m3) := if h2 > (t.ext.getD 2 0 : Int) - 1 + t.trailH then (-t.leadH, m + 1) else (h2, m)
    TMap.convPos t n (w2, h3, m3)

/-- The tile extents below the rank. -/
def TMap.tiles (t : TMap) : List Nat := t.tile.take t.rank

/-- A coordinate register as i32 (R234). -/
def Command.coord (c : Command) (k : Nat) : Int := (c.reg (2 + k) c.lane).toInt

/-- The tensor address of an image element of CPY.tile: every coordinate clamped (R239). -/
def Command.tileVa (c : Command) (t : TMap) (idx : Nat) : W64 :=
  if t.conv then
    let t0 := t.tile.getD 0 1
    let (w, h, m) := t.convPos (idx / t0) (c.coord 1, c.coord 2, c.coord 3)
    t.va [edge (t.ext.getD 0 0) (c.coord 0 + (idx % t0 : Nat)), edge (t.ext.getD 1 0) (w + t.tapW), edge (t.ext.getD 2 0) (h + t.tapH),
          edge (t.ext.getD 3 0) m]
  else
    let is := digits t.tiles idx
    t.va ((List.range t.rank).map fun k => edge (t.ext.getD k 0) (c.coord k + (is.getD k 0 : Nat)))

/-- The tensor address of an image element of CPYO.tile; none where it lies outside the tensor (R240). -/
def Command.tileOutVa (c : Command) (t : TMap) (idx : Nat) : Option W64 :=
  let is := digits t.tiles idx
  let xs := (List.range t.rank).map fun k => c.coord k + ((is.getD k 0 : Nat) : Int)
  if (List.range t.rank).all fun k => decide (0 ≤ xs.getD k 0) && decide (xs.getD k 0 < (t.ext.getD k 0 : Int)) then some (t.va xs) else none

/-- The row bytes of GATH and SCAT (R241). -/
def TMap.rowBytes (t : TMap) : Nat := t.esize * t.tile.getD 0 1

/-- The lane that row `k` belongs to. -/
def Command.rowLane (c : Command) (k : Nat) : Nat := (lanesOf c.part).getD k 0

/-- The tensor address of an element of a GATH image (R241, log 17). -/
def Command.gathVa (c : Command) (t : TMap) (p : Nat) : W64 :=
  let row := (c.reg 2 (c.rowLane (p / t.rowBytes))).toInt
  t.va [edge (t.ext.getD 0 0) (p % t.rowBytes / t.esize : Nat), edge (t.ext.getD 1 0) row]

/-- The tensor address of an element of a SCAT image; none where it is dropped (R241). -/
def Command.scatVa (c : Command) (t : TMap) (p : Nat) : Option W64 :=
  let row := (c.reg 2 (c.rowLane (p / t.rowBytes))).toInt
  let col := p % t.rowBytes / t.esize
  if 0 ≤ row ∧ row < (t.ext.getD 1 0 : Int) ∧ col < t.ext.getD 0 0 then some (t.va [(col : Int), row]) else none

/-! ## Sizes and chunks -/

/-- The bytes moved together: an element of a map, else 16 bytes. -/
def Command.chunk (c : Command) (t : TMap) : Nat := if c.mapped then t.esize else 16

/-- The byte count of a command, or the fault code of a form or a count that is not allowed (R239–R242). -/
def Command.size (c : Command) (t : TMap) : Nat ⊕ Nat :=
  let lin := fun (n : Nat) => if n = 0 ∨ n % 16 ≠ 0 ∨ 2 ^ 24 < n then Sum.inr 0x02 else Sum.inl n
  match c.form with
  | .tileIn =>
    let n := t.esize * (if t.conv then t.run * t.tile.getD 0 1 else t.tiles.foldl (· * ·) 1)
    if n % 16 ≠ 0 ∨ 2 ^ 24 < n then .inr 0x02 else .inl n
  | .tileOut =>
    let n := t.esize * t.tiles.foldl (· * ·) 1
    if t.conv then .inr 0x01 else if n % 16 ≠ 0 ∨ 2 ^ 24 < n then .inr 0x02 else .inl n
  | .gath | .scat =>
    if t.rank ≠ 2 ∨ t.conv then .inr 0x01
    else if t.rowBytes % 16 ≠ 0 then .inr 0x02
    else .inl ((lanesOf c.part).length * t.rowBytes)
  | .linIn | .linOut => lin (c.reg 2 c.lane).toNat
  | .mem => lin (c.reg 4 c.lane).toNat
  | .walk _ => .inl (16 * (lanesOf c.part).length)

/-- Where a chunk comes from or goes to. -/
inductive ChunkAt where
  | va (a : W64)
  | oc (b : OcBase) (o : Nat)
  | dropped
  deriving DecidableEq, Repr

/-- The on-chip place of a command's image at a byte. -/
def State.ocOf (s : State) (c : Command) (p : Nat) : ChunkAt :=
  match s.find c.gid with
  | none => .dropped
  | some g => match s.ocSpan g c.desc with | some (b, _) => .oc b p | none => .dropped

/-- The source of the chunk at byte `p` of the image. -/
def State.srcOf (s : State) (c : Command) (p : Nat) : ChunkAt :=
  let t := readMap c.tmap
  match c.form with
  | .tileIn => .va (c.tileVa t (p / t.esize))
  | .linIn | .mem => .va (c.long 0 + BitVec.ofNat 64 p)
  | .gath => .va (c.gathVa t p)
  | .tileOut | .linOut | .scat => s.ocOf c p
  | .walk _ => .dropped

/-- The destination of the chunk at byte `p` of the image. -/
def State.dstOf (s : State) (c : Command) (p : Nat) : ChunkAt :=
  let t := readMap c.tmap
  match c.form with
  | .tileIn | .linIn | .gath => s.ocOf c p
  | .mem => .va (c.long 2 + BitVec.ofNat 64 p)
  | .linOut => .va (c.long 0 + BitVec.ofNat 64 p)
  | .tileOut => match c.tileOutVa t (p / t.esize) with | some a => .va a | none => .dropped
  | .scat => match c.scatVa t p with | some a => .va a | none => .dropped
  | .walk _ => .va (c.long 2 + BitVec.ofNat 64 (16 * c.rowLane (p / 16)))

/-- Two chunks touch a common location, an aligned word of 4 bytes (R180, R185). -/
def ChunkAt.meets (x y : ChunkAt) (n m : Nat) : Bool :=
  let near := fun (a b : Nat) => decide (a / 4 ≤ (b + m - 1) / 4) && decide (b / 4 ≤ (a + n - 1) / 4)
  match x, y with
  | .va a, .va b => near a.toNat b.toNat
  | .oc (.team i a) o, .oc (.team j b) p => decide (i = j) && near (a + o) (b + p)
  | .oc (.column a) o, .oc (.column b) p => near (a + o) (b + p)
  | .oc (.opbuf a) o, .oc (.opbuf b) p => near (a + o) (b + p)
  | _, _ => false

/-- A command whose map has not been read yet may write the chunk: its image starts at its descriptor, or lies anywhere in memory (DESIGN CHOICE, log 83). -/
def State.mayWrite (s : State) (e : Command) (x : ChunkAt) (n : Nat) : Bool :=
  match e.form, x with
  | .tileOut, .va _ | .scat, .va _ => true
  | .tileIn, _ | .gath, _ => x.meets (s.ocOf e 0) n (2 ^ 24)
  | _, _ => false

/-- The chunk at a byte is still to be written by an earlier command of the same split: writes to one location land in issue order
(R185, R246). -/
def State.behind (s : State) (c : Command) (p n : Nat) : Bool :=
  s.eng.cmds.any fun e => decide (e.gid = c.gid) && decide (e.seq < c.seq) && decide (e.lanes &&& c.lanes ≠ 0#32) && decide (e.st ≠ .ending) && e.walks == c.walks &&
    (if e.total = 0 then s.mayWrite e (s.dstOf c p) n
     else
      let m := e.chunk (readMap e.tmap)
      (List.range ((e.total - e.delivered) / m)).any fun j => (s.dstOf c p).meets (s.dstOf e (e.delivered + m * j)) n m)

/-! ## Accesses of an engine -/

/-- What an engine access meets. -/
inductive Hit where
  | ok
  /-- The data carry a poison mark, and go on with it (R432). -/
  | marked
  /-- It must wait. -/
  | wait
  /-- A flash page is being relocated (R333). -/
  | defer (va : W64)
  /-- A fault of R244. -/
  | fault (code : Nat) (va : W64) (restart : Bool)
  /-- It consumed poison, and its context rolls back (R433). -/
  | rolled
  deriving DecidableEq, Repr

/-- A command asks for translations of its core's TLB. -/
def Command.asker (c : Command) : Asker := { core := c.core, who := c.seq, ctx := c.ctx, inc := c.inc, app := c.app }

/-- Translates an engine access (R329): page faults and missing rights are restartable, the rest is terminal. -/
def State.engXlate (s : State) (c : Command) (acc : Acc) (va : W64) : State × Hit × Nat × Bool :=
  match s.xlate c.asker acc va with
  | (s1, .over) => (s1, .rolled, 0, false)
  | (s1, .ok pa p) => if p.getLsbD 56 && decide (acc ≠ .read) then (s1, .wait, 0, false) else (s1, .ok, pa, pteMs p)
  | (s1, .wait) => (s1, .wait, 0, false)
  | (s1, .fault cause w) =>
    if cause = 0x10 then (s1, .fault 0x08 va false, 0, false)
    else if w = 0#64 ∧ (cause = 0x09 ∨ (acc = .write ∧ s.onFlash c.asker acc va)) then (s1, .fault 0x06 va false, 0, false)
    else (s1, .fault (if acc = .read then 0x04 else 0x05) va true, 0, false)

/-- A context consumes poison through an engine or the matrix unit (R433): the first time it rolls back, a repeat is fault 0x08. -/
def State.consumeBy (s : State) (ctx : BitVec 12) (va : W64) : State × Hit :=
  match s.eatPoison ctx with
  | (s1, true) => (s1, .rolled)
  | (s1, false) => (s1, .fault 0x08 va false)

/-- An unpredictable value of `n` bytes (R6). -/
def State.wildBytes (s : State) (pa n : Nat) : Nat :=
  ((Config.unpredictable s.fresh pa).toNat + (Config.unpredictable s.fresh (pa + 8)).toNat * 2 ^ 64) % 256 ^ n

/-- An engine reads `n` bytes of one line through its cluster's staging cache (R196). It consumes poison that it reads (R244), or with `carry` passes the data on
with their mark (R432). -/
def State.engFetch (s : State) (c : Command) (carry : Bool) (va : W64) (n : Nat) : State × Hit × Nat :=
  match s.engXlate c .read va with
  | (s1, .ok, pa, ms) =>
    let cache := keelOf c.core
    let here := (s1.m.keelLine cache (lineOf pa)).isSome
    if !here && decide (tierOf pa = some .flash) && (s1.fl.relocating.any fun k => decide (k = pa / 4096)) && (s1.m.l2Line (lineOf pa)).isNone then
      (s1, .defer va, 0)
    else
      match s1.fillKeel c.seq cache (lineOf pa) ms with
      | none => (s1, .wait, 0)
      | some s2 =>
        match s2.m.keelLine cache (lineOf pa) with
        | none => (s2, .wait, 0)
        | some k =>
          let bad := inStore pa || badBytes k.bad pa n
          if bad && !carry then
            let (s3, h) := s2.consumeBy c.ctx va
            (s3, h, 0)
          else (s2, if bad then .marked else .ok, if s2.wild c.ctx va pa then s2.wildBytes pa n else Store.getLE k.data (pa % 128) n)
  | (s1, h, _) => (s1, h, 0)

/-- An engine reads `n` bytes of one line and consumes poison that it meets (R196, R244). -/
def State.engRead (s : State) (c : Command) (va : W64) (n : Nat) : State × Hit × Nat := s.engFetch c false va n

/-- The launch slot of a team. -/
def State.slotOf (s : State) (tid : Nat) : Nat := match s.team tid with | some t => t.ls | none => 0

/-- An engine writes `n` bytes of one line into its cluster's staging cache; bytes that a barrier will post are published at once, as far as the DRAM that the base die and
the near-bank sequences read (R177, R196). -/
def State.engWrite (s : State) (c : Command) (va : W64) (n v : Nat) : State × Hit :=
  match s.engXlate c .write va with
  | (s1, .ok, pa, ms) =>
    let cache := keelOf c.core
    if c.bar.isSome && !(s1.homeReady c.ctx pa && s1.lineTurn (lineOf pa) c.seq) then (s1.await c.seq pa, .wait)
    else
      match s1.ownKeel c.seq cache (lineOf pa) ms with
      | none => (s1, .wait)
      | some s2 =>
        match s2.m.keelLine cache (lineOf pa) with
        | none => (s2, .wait)
        | some k =>
          let w : DirtyWord := { word := 0, gid := c.gid, ls := s2.slotOf c.tid, core := c.core, slot := c.slot, ctx := c.ctx, inc := c.inc, ostamp := c.ostamp }
          let s3 : State := { s2 with m := s2.m.setKeel (k.write w s2.dev.time pa n v) }
          (if c.bar.isSome then (let s4 := (s3.publish k).forgetName c.seq; { s4 with m := s4.m.cleanL2 (lineOf pa) }) else s3, .ok)
  | (s1, h, _) => (s1, h)

/-- The core whose array holds an on-chip place has power (R416), and its column write buffer has room for a write there (R419). -/
def State.ocReady (s : State) (b : OcBase) (o n : Nat) : Bool :=
  match b with
  | .team tid _ => (match s.team tid with | some t => t.swapped || !s.lapsed t.core | none => true)
  | .column key => s.onchip.columnRoom (key + o) n
  | .opbuf _ => true

/-- Who a command's writes write as (R184). -/
def Command.writer (c : Command) : Writer :=
  { gid := c.gid, log := c.seq, core := c.core, slot := c.slot, lane := 32, ostamp := c.ostamp, always := false }

/-- A write of an engine leaves its record on the words of an on-chip place (R183, R188). -/
def State.noteOc (s : State) (w : Writer) (b : OcBase) (o n : Nat) : State :=
  let put := fun (sp : Space) (key : Nat) =>
    { s with m := (List.range ((n + 3) / 4)).foldl (fun m j => m.note w (placeNo sp (key + o) + j) s.dev.time 0) s.m }
  match b with
  | .team tid off => (match s.team tid with | some t => if t.swapped then s else put .scratch (scratchKey t.core (t.base + off)) | none => s)
  | .column key => put .column key
  | .opbuf _ => s

/-- The value of a chunk at its source. DEDUCED (log 93): a copy into an operand buffer carries poison there, where a K-step consumes it; a copy to any other place,
or out of an operand buffer, consumes it. -/
def State.chunkRead (s : State) (c : Command) (p n : Nat) : State × Hit × Nat :=
  match s.srcOf c p, s.dstOf c p with
  | .va a, .oc (.opbuf _) _ => s.engFetch c true a n
  | .va a, _ => s.engRead c a n
  | .oc (.opbuf key) o, _ =>
    if s.onchip.marked (key + o) n then
      let (s1, h) := s.consumeBy c.ctx 0
      (s1, h, 0)
    else (s, .ok, s.ocRead (.opbuf key) o n)
  | .oc b o, _ => if (match b with | .team .. => !s.ocReady b o n | _ => false) then (s, .wait, 0) else (s, .ok, s.ocRead b o n)
  | .dropped, _ => (s, .ok, 0)

/-- A chunk is written at its destination, in an operand buffer with its poison mark. -/
def State.chunkWrite (s : State) (c : Command) (p n v : Nat) (mark : Bool) : State × Hit :=
  match s.dstOf c p with
  | .va a => s.engWrite c a n v
  | .oc b o =>
    if s.ocArmed b o n then (s, .fault 0x07 0 false)
    else if !s.ocReady b o n then (s, .wait)
    else ((s.ocWrite b o n v mark).noteOc c.writer b o n, .ok)
  | .dropped => (s, .ok)

/-- `m` chunks of one unit are copied in image order. -/
def State.copyChunks (c : Command) (n : Nat) : Nat → Nat → State → State × Hit
  | 0, _, s => (s, .ok)
  | m + 1, p, s =>
    if s.behind c p n then (s, .wait)
    else
      match s.chunkRead c p n with
      | (s1, h, v) =>
        if h = .ok ∨ h = .marked then
          match s1.chunkWrite c p n v (decide (h = .marked)) with
          | (s2, .ok) => State.copyChunks c n m (p + n) s2
          | r => r
        else (s1, h)

/-! ## Tree walks (R242) -/

/-- The result of a walk in one lane. -/
structure WalkRes where
  value : W64
  found : Bool
  err : Nat
  depth : Nat
  deriving DecidableEq, Repr

/-- The number of keys 1 to `k` of a node that are at most `key`. -/
def State.keysBelow (c : Command) (node : W64) (key : W32) : Nat → State → State × Hit × Nat
  | 0, s => (s, .ok, 0)
  | k + 1, s =>
    match s.engRead c (node + BitVec.ofNat 64 (4 * (k + 1))) 4 with
    | (s1, .ok, v) =>
      match State.keysBelow c node key k s1 with
      | (s2, .ok, n) => (s2, .ok, n + if v ≤ key.toNat then 1 else 0)
      | r => r
    | r => r

/-- One lane's walk from a node down. -/
def State.walkFrom (c : Command) (floor : Bool) (key : W32) : Nat → W64 → Nat → State → State × Hit × WalkRes
  | 0, _, depth, s => (s, .ok, { value := 0, found := false, err := 0x0A, depth := depth })
  | fuel + 1, node, depth, s =>
    let bad : WalkRes := { value := 0, found := false, err := 0x0B, depth := depth + 1 }
    if 16 < depth + 1 then (s, .ok, { bad with err := 0x0A })
    else
      match s.engRead c node 4 with
      | (s1, .ok, hd) =>
        let k := bits hd 3 0
        if bits hd 30 4 ≠ 0 ∨ k = 0 then (s1, .ok, bad)
        else
          match State.keysBelow c node key k s1 with
          | (s2, .ok, j) =>
            if bits hd 31 31 = 0 then
              match s2.engRead c (node + BitVec.ofNat 64 (64 + 8 * j)) 8 with
              | (s3, .ok, e) => if e % 64 ≠ 0 then (s3, .ok, bad) else State.walkFrom c floor key fuel (BitVec.ofNat 64 e) (depth + 1) s3
              | (s3, h, _) => (s3, h, bad)
            else if j = 0 then (s2, .ok, { bad with err := 0 })
            else
              match s2.engRead c (node + BitVec.ofNat 64 (4 * j)) 4 with
              | (s3, .ok, kj) =>
                if !floor && decide (kj ≠ key.toNat) then (s3, .ok, { bad with err := 0 })
                else
                  match s3.engRead c (node + BitVec.ofNat 64 (64 + 8 * j)) 8 with
                  | (s4, .ok, e) => (s4, .ok, { value := BitVec.ofNat 64 e, found := true, err := 0, depth := depth + 1 })
                  | (s4, h, _) => (s4, h, bad)
              | (s3, h, _) => (s3, h, bad)
          | (s2, h, _) => (s2, h, bad)
      | (s1, h, _) => (s1, h, bad)

/-- The 16 bytes of a lane's record. -/
def WalkRes.record (r : WalkRes) : Nat :=
  r.value.toNat + 2 ^ 64 * ((if r.found then 2 ^ 31 else 0) + (if r.err ≠ 0 then 2 ^ 30 else 0) + r.err * 2 ^ 24 + r.depth % 256)

/-- One lane is walked and its record written. -/
def State.walkLane (s : State) (c : Command) (floor : Bool) (l : Nat) : State × Hit :=
  match State.walkFrom c floor (c.reg 4 l) 17 (c.long 0) 0 s with
  | (s1, .ok, r) =>
    if s1.behind c c.delivered 16 then (s1, .wait) else s1.engWrite c (c.long 2 + BitVec.ofNat 64 (16 * l)) 16 r.record
  | (s1, h, _) => (s1, h)

/-! ## One unit of a command -/

/-- The next 16 bytes of a command's image, or the next lane of a walk. -/
def State.nextUnit (s : State) (c : Command) : State × Hit :=
  match c.form with
  | .walk floor => s.walkLane c floor (c.rowLane (c.delivered / 16))
  | _ =>
    let n := c.chunk (readMap c.tmap)
    State.copyChunks c n (16 / n) c.delivered s

/-- The unit has landed: the prefix advances and a bound barrier is posted (R243, R245). -/
def State.advanceCmd (s : State) (c : Command) : State :=
  let s1 := s.onCmd c.core c.k fun x =>
    { x with delivered := x.delivered + 16, since := s.dev.time, deferred := none,
             walked := if x.walks then x.walked ||| laneBit (x.rowLane (x.delivered / 16)) else x.walked }
  match c.bar with
  | some b => s1.post c.tid b 16
  | none => s1

/-- The core whose tether holds the command runs it (R236, R426, R431). -/
def State.ranCmd (s : State) (c : Command) : State := s.ranOn c.core c.ctx

/-! ## The fault ring (R357) -/

/-- Who writes for the part itself: the lowest rank; its writes always replace. -/
def State.partWriter (s : State) : Writer := { gid := 0, log := 0, core := 0, slot := 0, lane := 0, ostamp := s.dev.time, always := true }

/-- A write of the part itself performs at its home. -/
def State.partWrite (s : State) (pa n v : Nat) : State := (s.recall (lineOf pa)).performBytes s.partWriter false pa n v

/-- Nothing at the home holds a write that the part makes for `who` back. -/
def State.partReady (s : State) (who pa : Nat) : Bool :=
  s.leaseOver (lineOf pa) && !s.snooped (lineOf pa) && !s.stackHeld pa && s.lineTurn (lineOf pa) who && !s.ownerHeld (lineOf pa)

/-- Writes a list of 32-bit words from an address on. -/
def State.partWords (s : State) (pa : Nat) : List W32 → State
  | [] => s
  | w :: t => State.partWords (s.partWrite pa 4 w.toNat) (pa + 4) t

/-- The place of the next record of a fault ring (R357). -/
def State.ringNext (s : State) (x : Ctx) : Nat := x.ring + 32 + 32 * (s.m.homeRead x.ring 4 % 127)

/-- The fault ring has no room: system software has not consumed its records (R357). -/
def State.ringFull (s : State) (x : Ctx) : Bool :=
  decide ((s.m.homeRead x.ring 4 + 2 ^ 32 - s.m.homeRead (x.ring + 4) 4) % 2 ^ 32 = 127)

/-- FAULT_RING_RECORD (R357): a record is appended for `who`, then the tail is written, then the report waits for its core. Where a line must wait, what is to be written waits
at its home (R164); while the ring has no room nothing does. -/
def State.ringRecord (s : State) (who : Nat) (x : Ctx) (w0 w1 : W32) (va : W64) (progress : W32) (at_ : W64) (cause : Nat) : State × Bool :=
  if s.ringFull x then (s.forgetName who, false)
  else if !s.partReady who x.ring ∨ !s.partReady (walkName who) (s.ringNext x) then ((s.await who x.ring).await (walkName who) (s.ringNext x), false)
  else
    let s1 := s.partWords (s.ringNext x) [w0, w1, va.setWidth 32, (va >>> 32).setWidth 32, progress, at_.setWidth 32, 0, 0]
    let s2 := (s1.partWrite x.ring 4 (s.m.homeRead x.ring 4 + 1)).forgetName who
    (if x.notify then { s2 with reports := s2.reports ++ [{ ctl := 256 + x.report, cause := cause, record := BitVec.ofNat 64 (s.ringNext x) }] } else s2, true)

/-- The engine tag of a command (R357). -/
def Command.tag (c : Command) : W32 :=
  BitVec.ofNat 32 ((if c.walks then 2 ^ 30 else 0) + c.core % 1024 * 2 ^ 20 + c.slot % 64 * 2 ^ 14 + c.k % 16)

/-- A held command's record is written where the ring has room. -/
def State.recordCmd (s : State) (c : Command) : State :=
  match s.ctx c.ctx with
  | none => s
  | some x =>
    let w1 := BitVec.ofNat 32 (c.ctx.toNat * 2 ^ 20 + c.inc.toNat * 2 ^ 12 + c.code)
    let progress := if c.walks then c.walked else BitVec.ofNat 32 (c.delivered / 64)
    match s.ringRecord c.seq x c.tag w1 c.addr progress c.faultAt 0x0B with
    | (s1, true) => s1.onCmd c.core c.k fun y => { y with recorded := true }
    | (s1, false) => s1

/-- ENGINE_RESTARTABLE_FAULT (R244): the command is held, a bound barrier is stalled, and the fault is reported; without a ring it ends at
once (R357). -/
def State.holdCmd (s : State) (c : Command) (code : Nat) (va : W64) : State :=
  let ring := match s.ctx c.ctx with | some x => decide (x.ring ≠ 0) | none => false
  let s0 := s.forgetName c.seq
  if !ring then s0.onCmd c.core c.k fun x => { x with st := .ending, code := code, addr := va }
  else
    let s1 := s0.onCmd c.core c.k fun x => { x with st := .held, code := code, addr := va, recorded := false, deferred := none, faultAt := s.dev.time }
    let s2 := match c.bar with | some b => s1.stallBar c.tid b code | none => s1
    s2.recordCmd { c with code := code, addr := va, faultAt := s.dev.time }

end Sys2Proof.Machine
end

