-- ==== Sys2Proof/Machine/Engines.lean ====
section
/-!
DEFINITION. Sys2Proof/Machine/Engines.lean: the engine instructions, majors 0x59 to 0x5D (R232–R236), and the events of a command's life
(R236, R243–R247).
-/

namespace Sys2Proof.Machine

open Sys2Proof

/-! ## Issue (R232–R235) -/

/-- The registers of the command block that a form reads; the others are ignored (R234). -/
def blockRegs : CmdForm → List Nat
  | .tileIn | .tileOut => [0, 1, 2, 3, 4, 5, 6, 7]
  | .linIn | .linOut => [0, 1, 2, 7]
  | .gath | .scat => [0, 1, 2, 3]
  | .mem | .walk _ => [0, 1, 2, 3, 4]

/-- The register of the block that is read in every participating lane: the row index, the key (R234). -/
def perLane : CmdForm → Nat → Bool
  | .gath, r | .scat, r => decide (r = 2)
  | .walk _, r => decide (r = 4)
  | _, _ => false

/-- The addresses of a command with the alignment each must have, in the order they are checked (R235). -/
def State.cmdAddrs (s : State) (f : CmdForm) (a : Reg) (l : Nat) : List (W64 × Nat) :=
  match f with
  | .tileIn | .tileOut | .gath | .scat => [(s.rd64 a l, 64)]
  | .linIn | .linOut => [(s.rd64 a l, 16)]
  | .mem => [(s.rd64 a l, 16), (s.rd64 (a + 2) l, 16)]
  | .walk _ => [(s.rd64 a l, 64), (s.rd64 (a + 2) l, 16)]

/-- The on-chip descriptor that a form reads; none when it has none. -/
def State.cmdDesc (s : State) (f : CmdForm) (a : Reg) (l : Nat) : Option W32 :=
  match f with
  | .mem | .walk _ => none
  | .gath | .scat => some (s.blk a 3 l)
  | _ => some (s.blk a 7 l)

/-- The checks of a barrier that a command binds (R178, R235). -/
def State.bindCause (s : State) (off : Nat) : Option Nat :=
  (s.slotCheck s.g off).or (if (s.armedAt s.g.tid off).isNone then some 0x11 else none)

/-- Checks 3 to 6 of R235 in the issuing lane: the cause and TVAL of the first that fails. -/
def State.engTrap (s : State) (f : CmdForm) (a b : Reg) (l : Nat) : Option (Nat × W64) :=
  match (s.cmdAddrs f a l).find? fun p => decide (p.1.toNat % p.2 ≠ 0) with
  | some p => some (0x05, p.1)
  | none =>
    let bad := match s.cmdDesc f a l with
      | none => none
      | some w =>
        if bits w.toNat 24 0 % 16 ≠ 0 then some (0x05, w.setWidth 64)
        else if (s.ocSpan s.g w).isNone then some (0x09, w.setWidth 64) else none
    bad.or (if b = 63#6 then none
      else (s.bindCause (s.rd b l).toNat).map fun c => (c, (s.rd b l).setWidth 64))

/-- The issuing group is its team's producer (R232). -/
def State.isProducer (s : State) : Bool := decide (s.g.gidx.toNat = pktProducer (s.packetOf s.g))

/-- The lowest free slot of a core's tether (R236). -/
def State.freeTether (s : State) (core : Nat) : Option Nat := (List.range 16).find? fun k => (s.cmd core k).isNone

/-- The instruction need not wait for a tether slot (R235). -/
def State.engGo (s : State) (i : Instr) (a b : Reg) : Bool :=
  !s.isProducer ||
    (match s.issuer with
     | none => true
     | some l => (s.engTrap ((cmdForm i).getD .linIn) a b l).isSome || (s.freeTether s.g.core).isSome)

/-- The command block as it stands at issue: in the issuing lane, what is per lane in every participating lane (R234). -/
def State.readBlock (s : State) (f : CmdForm) (a : Reg) : Store 32 :=
  (blockRegs f).foldl (fun m r => (lanesOf (if perLane f r then s.work else s.work &&& (0#32 - s.work))).foldl
    (fun m l => Store.put m (32 * r + l) (s.blk a r l)) m) []

/-- An engine instruction takes its tether slot (R233–R236). -/
def State.engRun (s : State) (i : Instr) (d a b : Reg) (l : BitVec 4) : State :=
  let f := (cmdForm i).getD .linIn
  if !s.isProducer then s.raise i 0x0A (wordVal i)
  else
    match s.issuer with
    | none => (s.wr d fun _ => 0x80000000#32).done
    | some n =>
      match s.engTrap f a b n with
      | some (c, v) => s.raise i c v
      | none =>
        let c : Command :=
          { core := s.g.core, k := (s.freeTether s.g.core).getD 0, seq := s.seq, st := .queued, i := i, gid := s.g.gid, tid := s.g.tid,
            ctx := s.g.ctx, inc := s.g.inc, slot := s.g.slot, ostamp := s.g.ostamp, lanes := s.act, part := s.work, grd := s.grd,
            blk := s.readBlock f a, dst := s.g.dst d false, bar := if b = 63#6 then none else some (s.rd b n).toNat, total := 0,
            delivered := 0, walked := 0, code := 0, addr := 0, recorded := false, tmap := [], app := decide (s.g.level = 0),
            since := s.dev.time, deferred := none, faultAt := 0 }
        let s1 := (s.openWin l.toNat false).onG fun g => g.owe c.seq c.dst c.grd
        ({ s1 with eng := { s1.eng with cmds := s1.eng.cmds ++ [c] } } : State).done

/-- CPY.tile (R233, R239): a tile of a tensor is copied to an on-chip place. -/
def execCpyTile (d a b : Reg) (l : BitVec 4) (s : State) : Result :=
  issueReady (.cpyTile d a b l) s (fun s => s.engGo (.cpyTile d a b l) a b) fun s => s.engRun (.cpyTile d a b l) d a b l

/-- CPY.lin (R233, R241): memory is copied to an on-chip place. -/
def execCpyLin (d a b : Reg) (l : BitVec 4) (s : State) : Result :=
  issueReady (.cpyLin d a b l) s (fun s => s.engGo (.cpyLin d a b l) a b) fun s => s.engRun (.cpyLin d a b l) d a b l

/-- CPY.mem (R233, R241): memory is copied to memory. -/
def execCpyMem (d a b : Reg) (l : BitVec 4) (s : State) : Result :=
  issueReady (.cpyMem d a b l) s (fun s => s.engGo (.cpyMem d a b l) a b) fun s => s.engRun (.cpyMem d a b l) d a b l

/-- CPYO.tile (R233, R240): a tile image is copied from an on-chip place to a tensor. -/
def execCpyoTile (d a b : Reg) (l : BitVec 4) (s : State) : Result :=
  issueReady (.cpyoTile d a b l) s (fun s => s.engGo (.cpyoTile d a b l) a b) fun s => s.engRun (.cpyoTile d a b l) d a b l

/-- CPYO.lin (R233, R241): an on-chip place is copied to memory. -/
def execCpyoLin (d a b : Reg) (l : BitVec 4) (s : State) : Result :=
  issueReady (.cpyoLin d a b l) s (fun s => s.engGo (.cpyoLin d a b l) a b) fun s => s.engRun (.cpyoLin d a b l) d a b l

/-- GATH (R233, R241): rows of a tensor are gathered to an on-chip place. -/
def execGath (d a b : Reg) (l : BitVec 4) (s : State) : Result :=
  issueReady (.gath d a b l) s (fun s => s.engGo (.gath d a b l) a b) fun s => s.engRun (.gath d a b l) d a b l

/-- SCAT (R233, R241): rows are scattered from an on-chip place to a tensor. -/
def execScat (d a b : Reg) (l : BitVec 4) (s : State) : Result :=
  issueReady (.scat d a b l) s (fun s => s.engGo (.scat d a b l) a b) fun s => s.engRun (.scat d a b l) d a b l

/-- WALK.exact (R233, R242): a tree is searched for each lane's key. -/
def execWalkExact (d a b : Reg) (l : BitVec 4) (s : State) : Result :=
  issueReady (.walkExact d a b l) s (fun s => s.engGo (.walkExact d a b l) a b) fun s => s.engRun (.walkExact d a b l) d a b l

/-- WALK.floor (R233, R242): a tree is searched for the greatest key not above each lane's key. -/
def execWalkFloor (d a b : Reg) (l : BitVec 4) (s : State) : Result :=
  issueReady (.walkFloor d a b l) s (fun s => s.engGo (.walkFloor d a b l) a b) fun s => s.engRun (.walkFloor d a b l) d a b l

/-! ## Events of a command (R236) -/

/-- A FENCE of the group holds a command of its classes back (R195, R246). -/
def Group.cmdFenced (g : Group) (c : Command) : Bool :=
  !c.walks && (g.fences ++ g.bankA.fences ++ g.bankS.fences ++ g.bankF.fences).any fun f =>
    decide (f.seq < c.seq) && decide (f.lanes &&& c.lanes ≠ 0#32) && (f.succ.getLsbD 2 || f.succ.getLsbD 3)

/-- The streamer of a core runs fewer than four commands (R236). -/
def State.streamerFree (s : State) (core : Nat) : Bool :=
  decide ((s.eng.cmds.filter fun e => !e.walks && decide (e.core = core) && decide (e.st = .running)).length < 4)

/-- The engine of a command has power: a streamer is part of its tile, a walker of the base die (R416). -/
def State.powered (s : State) (c : Command) : Bool := c.walks || !s.lapsed c.core

/-- The engine may start a command: in tether order, the streamer at most four at once, the walker in order of arrival (R236). DESIGN CHOICE (log 82): the order binds
the commands of one engine, streamer or walker, and nothing limits the walks of a cluster that run at once. -/
def State.cmdStarts (s : State) (c : Command) : Bool :=
  decide (c.st = .queued) && s.powered c && (match s.find c.gid with | some g => !g.cmdFenced c | none => true) &&
    (s.eng.cmds.all fun e => decide (e.walks ≠ c.walks) || decide (c.seq ≤ e.seq) || decide (e.st ≠ .queued) ||
      decide (if c.walks then keelOf e.core ≠ keelOf c.core else e.core ≠ c.core)) &&
    (c.walks || s.streamerFree c.core)

/-- The 64 bytes of a command's tensor map, read on the copy-read path (R237). -/
def State.readMapBytes (s : State) (c : Command) : State × Hit × Store 8 :=
  (List.range 8).foldl (fun r k =>
    match r with
    | (s, .ok, m) =>
      match s.engRead c (c.long 0 + BitVec.ofNat 64 (8 * k)) 8 with
      | (s1, .ok, v) => (s1, .ok, Store.putLE m (8 * k) 8 v)
      | (s1, h, _) => (s1, h, m)
    | r => r) (s, .ok, [])

/-- The code of a fault found before any byte is written, or the byte count (R239–R241, R244). -/
def State.startCheck (s : State) (c : Command) : Nat ⊕ Nat :=
  if c.mapped && !mapOk c.tmap then .inr 0x01
  else
    match c.size (readMap c.tmap) with
    | .inr e => .inr e
    | .inl n =>
      match c.form with
      | .mem | .walk _ => .inl n
      | f =>
        match s.find c.gid with
        | none => .inr 0x03
        | some g =>
          match s.ocSpan g c.desc with
          | none => .inr 0x03
          | some (b, room) =>
            if room < n then .inr 0x03
            else if (decide (f = .tileIn) || decide (f = .linIn) || decide (f = .gath)) && s.ocArmed b 0 n then .inr 0x07
            else .inl n

/-- A command ends with a fault code. -/
def State.failCmd (s : State) (c : Command) (code : Nat) (va : W64) : State :=
  (s.forgetName c.seq).onCmd c.core c.k fun x => { x with st := .ending, code := code, addr := va }

/-- A flash defer holds the command's read of an address from now on, if none has held that read before (R333, R244). -/
def State.deferCmd (s : State) (c : Command) (va : W64) : State :=
  s.onCmd c.core c.k fun x => { x with st := .running, deferred := some (match x.deferred with | some (t, v) => if v = va then (t, v) else (s.dev.time, va) | none => (s.dev.time, va)) }

/-- ENGINE_COMMAND_START (R236, R237): the map is read and the checks before the first byte are made. -/
def State.startCmd (s : State) (c : Command) : State :=
  let (s1, h, m) := if c.mapped then s.readMapBytes c else (s, Hit.ok, [])
  match h with
  | .ok =>
    let c1 := { c with tmap := m, st := .running, since := s.dev.time, deferred := none }
    match s1.startCheck c1 with
    | .inl n => s1.onCmd c.core c.k fun _ => { c1 with total := n }
    | .inr e => (s1.onCmd c.core c.k fun _ => c1).failCmd c e 0
  | .fault code va restart =>
    let s2 := s1.onCmd c.core c.k fun x => { x with st := .running }
    if restart then s2.holdCmd c code va else s2.failCmd c code va
  | .defer va => s1.deferCmd c va
  | _ => s1

/-- A command whose start was stopped by a fault of its map begins again at its start (R245). -/
def Command.unstarted (c : Command) : Bool := decide (c.total = 0)

/-- ENGINE_COMMAND_START (R236): a command that ERES has put back goes on at its prefix (R245). -/
def execEngineCommandStart (core k : Nat) (s : State) : Result :=
  occur s fun s =>
    match s.cmd core k with
    | some c =>
      if !s.cmdStarts c then s
      else if c.unstarted then (s.ranCmd c).startCmd c else (s.ranCmd c).onCmd core k fun x => { x with st := .running, since := s.dev.time }
    | none => s

/-- Units land one after another, up to a number, until the image is whole or something stops the command (R243). -/
def State.deliverUnits (core k : Nat) : Nat → State → State
  | 0, s => s
  | n + 1, s =>
    match s.cmd core k with
    | none => s
    | some c =>
      if c.st ≠ .running ∨ c.unstarted then s
      else
        match s.nextUnit c with
        | (s1, .ok) =>
          let s2 := s1.advanceCmd c
          if c.total ≤ c.delivered + 16 then s2.onCmd core k fun x => { x with st := .ending, code := 0 }
          else State.deliverUnits core k n s2
        | (s1, .fault code va false) => s1.failCmd c code va
        | (s1, .defer va) => s1.deferCmd c va
        | (s1, _) => s1

/-- ENGINE_DELIVERY (R243): the delivered prefix of a running command advances by up to `units` units of 16 bytes. -/
def execEngineDelivery (core k units : Nat) (s : State) : Result :=
  occur s fun s =>
    match s.cmd core k with
    | some c =>
      if !s.powered c ∨ c.st ≠ .running then s
      else if c.unstarted then (s.ranCmd c).startCmd c
      else State.deliverUnits core k (min units (c.total / 16)) (s.ranCmd c)
    | none => s

/-- The status word (R243). -/
def Command.status (c : Command) : W32 :=
  BitVec.ofNat 32 (0x80000000 + (if c.code ≠ 0 then 0x40000000 + c.code % 64 * 0x1000000 else 0) + c.delivered / 64 % 0x1000000)

/-- ENGINE_COMMAND_END (R236, R243): the final barrier update, then the status word, then the slot is empty. -/
def State.endCmd (s : State) (c : Command) : State :=
  let s1 := match c.bar with
    | some b => if c.code ≠ 0 then s.faultBar c.tid b c.code else s
    | none => s
  let s2 := s1.onGroup c.gid fun g => (lanesOf c.grd).foldl (fun g l => g.deliverDst c.seq c.dst l (c.status.setWidth 64)) g
  ({ s2 with eng := { s2.eng with cmds := s2.eng.cmds.filter fun x => !(decide (x.core = c.core) && decide (x.k = c.k)) } } : State).settleGroup c.gid

/-- ENGINE_COMMAND_END (R243). -/
def execEngineCommandEnd (core k : Nat) (s : State) : Result :=
  occur s fun s =>
    match s.cmd core k with
    | some c => if c.st = .ending then s.endCmd c else s
    | none => s

/-- 100 ms in ticks (R4, R244). -/
def deferLimit : Nat := 100000000

/-- What the next access of a running command meets: of its map, where that has not been read, else of its next unit. -/
def State.nextHit (s : State) (c : Command) : State × Hit :=
  if c.unstarted then (if c.mapped then ((s.readMapBytes c).1, (s.readMapBytes c).2.1) else (s, .ok)) else s.nextUnit c

/-- ENGINE_RESTARTABLE_FAULT (R244): the next access of a running command meets a page fault, or its flash read has been deferred for more
than 100 ms: the command is held. -/
def execEngineRestartableFault (core k : Nat) (s : State) : Result :=
  occur s fun s =>
    match s.cmd core k with
    | some c =>
      if !s.powered c ∨ c.st ≠ .running then s
      else
        match s.nextHit c with
        | (s1, .fault code va true) => s1.holdCmd c code va
        | (s1, .defer va) =>
          if (match c.deferred with | some (t, v) => decide (v = va) && decide (t.toNat + deferLimit < s.dev.time.toNat) | none => false) then s1.holdCmd c 0x04 va else s
        | _ => s
    | none => s

end Sys2Proof.Machine
end

