-- ==== Sys2Proof/Machine/Matrix.lean ====
section
/-!
DEFINITION. Sys2Proof/Machine/Matrix.lean: the matrix unit, majors 0x60 to 0x6B: operand formats and the arithmetic of a K-step (R54–R66),
reservations (R251–R258), the keep latch (R261), the queue, batches and tile access (R262–R273), faults (R274, R275).
-/

namespace Sys2Proof.Machine

open Sys2Proof

/-! ## Operand formats (R54–R61, R253) -/

/-- The bits of a float element without the specials of IEEE 754 (R55). -/
def narrowVal (F : FFmt) (v : Nat) : FVal :=
  let g := F.mag v
  if g < 2 ^ F.fb then .fin (F.neg v) g F.qmin else .fin (F.neg v) (2 ^ F.fb + g % 2 ^ F.fb) (F.qmin + ((g / 2 ^ F.fb : Nat) : Int) - 1)

/-- E4M3: every exponent holds numbers but for the NaN S.1111.111 (R55). -/
def e4m3Val (v : Nat) : FVal := if v % 128 = 127 then .nan else narrowVal { eb := 4, fb := 3 } v

/-- E5M2. -/
def e5m2 : FFmt := { eb := 5, fb := 2 }

/-- The bits of an element of a format code (R54). -/
def eltBits (code : Nat) : Nat :=
  match code with
  | 0 | 1 => 32
  | 2 | 3 => 16
  | 6 | 7 | 14 | 17 => 6
  | 8 | 11 | 12 | 15 | 18 => 4
  | _ => 8

/-- Ks: the stored K of a step (R253). -/
def stepK (code : Nat) : Nat :=
  match eltBits code with
  | 32 => 16
  | 16 => 32
  | 4 => 128
  | _ => 64

/-- The formats that add as integers (R66). -/
def intCode (code : Nat) : Bool := decide (9 ≤ code) && decide (code ≤ 12)

/-- The bytes of a scale unit: 2 for DX, 1 for MX, 0 for the rest (R255, R259). -/
def scaleBytes (code : Nat) : Nat := if 13 ≤ code ∧ code ≤ 15 then 2 else if 16 ≤ code ∧ code ≤ 19 then 1 else 0

/-- A signed value of `w` bits. -/
def signedBits (w v : Nat) : Int := Int.bmod v (2 ^ w)

/-- The value of an element of an unscaled format, or of an MX element before its scale (R54, R55). -/
def plainVal (code : Nat) (variant : Bool) (v : Nat) : FVal :=
  match code with
  | 0 => f32.val v
  | 1 => f32.val (v / 8192 * 8192)
  | 2 => bf16.val v
  | 3 => f16.val v
  | 4 => e4m3Val v
  | 5 => e5m2.val v
  | 6 => narrowVal { eb := 3, fb := 2 } v
  | 7 => narrowVal { eb := 2, fb := 3 } v
  | 8 | 18 => narrowVal { eb := 2, fb := 1 } v
  | 9 => FVal.ofInt (signedBits 8 v)
  | 10 => FVal.ofInt v
  | 11 => FVal.ofInt (signedBits 4 v)
  | 12 => FVal.ofInt v
  | 16 => if variant then e5m2.val v else e4m3Val v
  | 17 => if variant then narrowVal { eb := 2, fb := 3 } v else narrowVal { eb := 3, fb := 2 } v
  | 19 => .fin (decide (signedBits 8 v < 0)) (signedBits 8 v).natAbs (-6)
  | _ => .nan

/-- A DX element under its scale half (R60). -/
def dxVal (code v scale : Nat) : FVal :=
  let w := eltBits code - 2
  let k : Int := if code = 13 then 132 else if code = 14 then 130 else 128
  let e := if bits v (w + 1) (w + 1) = 1 then scale / 256 else scale % 256
  if e = 255 then .nan else .fin (decide (bits v w w = 1)) (bits v (w - 1) 0) (e - k)

/-- An element multiplied by its block scale (R59–R61). -/
def scaledVal (code : Nat) (variant : Bool) (v scale : Nat) : FVal :=
  if scaleBytes code = 2 then dxVal code v scale
  else if scaleBytes code = 1 then
    (if scale = 255 then .nan
     else match plainVal code variant v with
      | .fin n m e => .fin n m (e + (scale : Int) - 127)
      | x => x)
  else plainVal code variant v

/-! ## A K-step of one element (R64, R66) -/

/-- floor(log2) of a nonzero magnitude. -/
def FVal.top : FVal → Option Int
  | .fin _ m e => if m = 0 then none else some ((Nat.log2 m : Int) + e)
  | _ => none

/-- The largest of the exponents. -/
def maxTop (ps : List FVal) : Option Int :=
  ps.foldl (fun b p => match b, p.top with | some x, some y => some (max x y) | none, y => y | x, none => x) none

/-- sign(p) × floor(|p| / 2^q), as an integer. -/
def FVal.floorAt (q : Int) : FVal → Int
  | .fin n m e => (if n then -1 else 1) * ((if q ≤ e then m * 2 ^ (e - q).toNat else m / 2 ^ (q - e).toNat : Nat) : Int)
  | _ => 0

/-- A value is −0. -/
def FVal.negZero : FVal → Bool
  | .fin n m _ => n && decide (m = 0)
  | _ => false

/-- A value is a zero. -/
def FVal.isZero : FVal → Bool
  | .fin _ m _ => decide (m = 0)
  | _ => false

/-- A value is a NaN. -/
def FVal.isNan : FVal → Bool
  | .nan => true
  | _ => false

/-- The sign of an infinity. -/
def FVal.infSign : FVal → Option Bool
  | .inf n => some n
  | _ => none

/-- One K-step of an FP32 accumulator element (R64). -/
def kstep (c : W32) (ab : List (FVal × FVal)) : W32 :=
  let cv := f32.val c.toNat
  let ps := ab.map fun p => FVal.mul p.1 p.2
  if cv.isNan || (ps.any fun p => p.isNan) then 0x7FC00000#32
  else
    let signs := (cv :: ps).filterMap FVal.infSign
    match signs with
    | n :: rest => if rest.all fun x => x == n then BitVec.ofNat 32 (f32.pack n f32.infMag) else 0x7FC00000#32
    | [] =>
      let (t, q) : Int × Int := match maxTop ps with
        | none => (0, 0)
        | some e => (ps.foldl (fun n p => n + p.floorAt (e - 48)) 0, e - 48)
      if t = 0 ∧ cv.isZero then (if cv.negZero && (ps.all fun p => p.negZero) then 0x80000000#32 else 0#32)
      else BitVec.ofNat 32 (f32.rnd rne false (FVal.add false cv (.fin (decide (t < 0)) t.natAbs q)))

/-- One K-step of an i32 accumulator element (R66). -/
def kstepInt (c : W32) (ab : List (Int × Int)) : W32 := c + BitVec.ofInt 32 (ab.foldl (fun n p => n + p.1 * p.2) 0)

/-- An element of an integer format. -/
def intVal (code v : Nat) : Int :=
  match code with
  | 9 => signedBits 8 v
  | 11 => signedBits 4 v
  | _ => v

/-! ## Reservations (R251–R257) -/

def Reserv.sparse (r : Reserv) : Bool := r.fmt.getLsbD 16
def Reserv.codeA (r : Reserv) : Nat := bits r.fmt.toNat 12 8
def Reserv.codeB (r : Reserv) : Nat := bits r.fmt.toNat 4 0

/-- Kl of a format word (R253). -/
def logicalK (f : Nat) : Nat := stepK (bits f 4 0) * (if bits f 16 16 = 1 then 2 else 1)

/-- V: the vectors of a column in a step (R253). -/
def vectors (f : Nat) : Nat := logicalK f / 32

/-- The layout of a reservation (R255). -/
structure Layout where
  ns : Nat
  bsz : Nat
  ssz : Nat
  msz : Nat
  scaleAt : Nat
  metaAt : Nat
  size : Nat
  deriving DecidableEq, Repr

/-- The layout of a format word and a K extent (R255). -/
def layoutOf (f klen : Nat) : Layout :=
  let ns := klen / logicalK f
  let bsz := 64 * stepK (bits f 4 0) * eltBits (bits f 4 0) / 8
  let ssz := 64 * vectors f * scaleBytes (bits f 4 0)
  let msz := if bits f 16 16 = 1 then 64 + 256 * vectors f else 0
  { ns := ns, bsz := bsz, ssz := ssz, msz := msz, scaleAt := ns * bsz, metaAt := ns * bsz + ns * ssz,
    size := (ns * bsz + ns * ssz + ns * msz + 255) / 256 * 256 }

/-- The layout of a reservation. -/
def Reserv.layout (r : Reserv) : Layout := layoutOf r.fmt.toNat r.klen

/-- A format word with a reserved bit set (R252). -/
def fmtReserved (f : Nat) : Bool :=
  decide (bits f 31 17 ≠ 0) || decide (bits f 15 14 ≠ 0) || decide (bits f 7 6 ≠ 0) ||
    (decide (bits f 13 13 = 1) && decide (bits f 12 8 ≠ 16 ∧ bits f 12 8 ≠ 17)) ||
    (decide (bits f 5 5 = 1) && decide (bits f 4 0 ≠ 16 ∧ bits f 4 0 ≠ 17))

/-- Formats A and B are pairable (R253). -/
def pairable (a b : Nat) : Bool := decide (stepK a = stepK b) && (intCode a == intCode b)

/-- The trap of OBRES, if any: cause and TVAL (R254). -/
def obresTrap (f klen : Nat) : Option (Nat × Nat) :=
  if fmtReserved f then some (0x02, f)
  else if 19 < bits f 4 0 then some (0x0D, bits f 4 0)
  else if 19 < bits f 12 8 then some (0x0D, bits f 12 8)
  else if !pairable (bits f 12 8) (bits f 4 0) then some (0x0D, 0x2000000 + f % 2 ^ 24)
  else if klen = 0 ∨ klen % 32 ≠ 0 ∨ klen % logicalK f ≠ 0 ∨ 2 ^ 24 ≤ klen then some (0x0D, 0x1000000 + klen % 2 ^ 24)
  else none

/-- The lowest run of free granules of an operand buffer (R254). -/
def State.freeOp (s : State) (core size : Nat) : Option Nat :=
  firstFit 0 0x40000 ((s.onchip.reservs.filter fun r => decide (r.core = core)).map fun r => (r.off, r.size)) size

/-- The reservations of a team. -/
def State.teamReservs (s : State) (tid : Nat) : List Reserv := s.onchip.reservs.filter fun r => decide (r.tid = tid)

/-- A run of an operand buffer is zero and carries no poison mark. -/
def OnChip.zeroOp (o : OnChip) (key n : Nat) : OnChip := { o with opbuf := Store.clear o.opbuf key n, opmark := Store.clear o.opmark key n }

/-- OBRES for a team (R254): the result word. -/
def State.reserve (s : State) (t : Team) (f klen : Nat) : State × W32 :=
  let ly := layoutOf f klen
  let mine := s.teamReservs t.tid
  if 8 ≤ mine.length ∨ 32 ≤ (s.onchip.reservs.filter fun r => decide (r.core = t.core)).length then (s, 0x01000000#32)
  else
    match s.freeOp t.core ly.size with
    | none => (s, 0x02000000#32)
    | some off =>
      let idx := ((List.range 8).find? fun k => mine.all fun r => decide (r.idx ≠ k)).getD 0
      let gen := ((Store.get t.gens idx).toNat + 1) % 16
      let r : Reserv := { core := t.core, tid := t.tid, idx := idx, gen := gen, off := off, size := ly.size, fmt := BitVec.ofNat 32 f, klen := klen }
      let s1 := s.onTeam t.tid fun x => { x with gens := Store.put x.gens idx (BitVec.ofNat 8 gen) }
      ({ s1 with onchip := ({ s1.onchip with reservs := s1.onchip.reservs ++ [r] } : OnChip).zeroOp (opKey t.core off) ly.size },
       BitVec.ofNat 32 (0x80000000 + gen * 8 + idx))

/-- OBRES (R254). -/
def execObres (d a b : Reg) (s : State) : Result :=
  issue (.obres d a b) s fun s =>
    match s.issuer, s.teamOf s.g with
    | some l, some t =>
      let f := (s.rd a l).toNat
      let klen := (s.rd b l).toNat
      match obresTrap f klen with
      | some (c, v) => s.raise (.obres d a b) c (BitVec.ofNat 64 v)
      | none =>
        let (s1, w) := s.reserve t f klen
        (s1.wr d fun _ => w).done
    | _, _ => s.done

/-- A handle word breaks R250, or its handle is not live (R258). -/
def State.handleTrap (s : State) (w : W32) : Option (Nat × W64) :=
  if bits w.toNat 31 7 ≠ 0 then some (0x02, w.setWidth 64)
  else if (s.reserv s.g.tid w.toNat).isNone then some (0x0D, BitVec.ofNat 64 (0x3000000 + w.toNat))
  else none

/-- Operations or commands of the team that name the reservation are not complete (R257). -/
def State.handleBusy (s : State) (tid h : Nat) : Bool :=
  (s.groups.any fun g => g.present && decide (g.tid = tid) && g.mqueue.any fun o => decide (o.kind = .step) && decide (o.handle = h)) ||
    s.eng.cmds.any fun c => decide (c.tid = tid) && (match c.form with | .mem | .walk _ => false | _ => true) &&
      decide (bits c.desc.toNat 31 30 = 1) && decide (bits c.desc.toNat 24 18 = h)

/-- OBREL (R257): it holds its split until nothing names the reservation, then frees it. -/
def execObrel (a : Reg) (s : State) : Result :=
  issueWhen (.obrel a) s
    (fun s => match s.issuer with
      | none => true
      | some l => (s.handleTrap (s.rd a l)).isSome || !s.handleBusy s.g.tid (s.rd a l).toNat)
    fun s =>
      match s.issuer with
      | none => s.done
      | some l =>
        match s.handleTrap (s.rd a l) with
        | some (c, v) => s.raise (.obrel a) c v
        | none =>
          let h := (s.rd a l).toNat
          ({ s with onchip := { s.onchip with reservs := s.onchip.reservs.filter fun r =>
              !(decide (r.tid = s.g.tid) && decide (r.idx = h % 8) && decide (r.gen = h / 8 % 16)) } } : State).done

/-! ## Operand A (R259–R261) -/

/-- The registers of a step's fragment and of its scales (R259, R260). -/
def Reserv.span (r : Reserv) : Nat × Nat :=
  (if r.sparse then 16 else 8, (16 * vectors r.fmt.toNat * scaleBytes r.codeA + 127) / 128)

/-- The registers from `a` on, of all 32 lanes, as held (R249, R259). -/
def State.image (s : State) (a n : Nat) : Store 32 :=
  (List.range n).foldl (fun m k => lanes.foldl (fun m l => Store.put m (32 * k + l) (s.rd (BitVec.ofNat 6 (a + k)) l)) m) []

/-- Bits of a register image (R56, R259). -/
def imageBits (m : Store 32) (pos w : Nat) : Nat :=
  ((Store.get m (pos / 32)).toNat + 2 ^ 32 * (Store.get m (pos / 32 + 1)).toNat) / 2 ^ (pos % 32) % 2 ^ w

/-- The latch serves an instruction: the same fragment registers, and the same number and layout of scale registers (R261). -/
def Latch.serves (x : Latch) (a : Nat) (r : Reserv) : Bool :=
  decide (x.a = a) && (x.sparse == r.sparse) && decide (x.frag = r.span.1) && decide (x.scales = r.span.2) && decide (x.unit = scaleBytes r.codeA)

/-- The image that the group's latch gives an instruction instead of its registers (R261). -/
def Group.latched (g : Group) (a : Nat) (r : Reserv) : Option (Store 32) :=
  match g.latch with
  | some x => if x.serves a r then some x.image else none
  | none => none

/-! ## Issue of the queued operations -/

/-- A fixed part of a queued operation. -/
def State.newOp (s : State) (k : MKind) (tile : Nat) : MOp :=
  { kind := k, seq := s.seq, tile := tile, handle := 0, slab := 0, inc := 0, sparse := false, images := [], done := 0, grd := s.grd,
    lanes := s.act, word := 0, dst := 0, addr := 0, stride := 0, ostamp := s.g.ostamp, rows := 0, entry := s.entry, batch := none }

/-- An operation enters the group's queue (R263). -/
def State.enqueueOp (s : State) (o : MOp) : State := s.onG fun g => { g with mqueue := g.mqueue ++ [o] }

/-- The queue has room (R263). -/
def State.queueRoom (s : State) : Bool := decide (s.g.mqueue.length < 16)

/-- Reason 0x06 (R258). -/
def State.tileTrap (s : State) (tile : Nat) : Option (Nat × W64) :=
  if s.g.ntiles ≤ tile then some (0x0D, BitVec.ofNat 64 (0x6000000 + tile)) else none

/-- The first of `n` steps whose span passes v55, and the first whose slab is outside the reservation (R258, R266). -/
def stepTrap (r : Reserv) (a stride slab inc n : Nat) : Option (Nat × W64) :=
  let span := r.span.1 + r.span.2
  match (List.range n).find? fun j => decide (56 < a + j * stride + span) with
  | some j => some (0x0D, BitVec.ofNat 64 (0x7000000 + j * 256 + a))
  | none => ((List.range n).find? fun j => decide (r.layout.ns ≤ slab + j * inc)).map fun j =>
      (0x0D, BitVec.ofNat 64 (0x4000000 + (slab + j * inc) % 2 ^ 24))

/-- The checks of a multiplication in their order (R264, R266): `w` is the B operand word, `lw` the loop word (0 for one step). DESIGN CHOICE (log 84): of
the two words of an MLOOP the B operand word is checked first for reserved bits. -/
def State.mulTrap (s : State) (sparse : Bool) (tile a : Nat) (w lw : W32) : Option (Nat × W64) :=
  if bits w.toNat 15 7 ≠ 0 then some (0x02, w.setWidth 64)
  else if bits lw.toNat 31 24 ≠ 0 ∨ bits lw.toNat 10 8 ≠ 0 then some (0x02, lw.setWidth 64)
  else
    let h := bits w.toNat 6 0
    match s.reserv s.g.tid h with
    | none => some (0x0D, BitVec.ofNat 64 (0x3000000 + h))
    | some r =>
      if r.sparse ≠ sparse then some (0x0D, BitVec.ofNat 64 (0x5000000 + h))
      else (s.tileTrap tile).or
        (stepTrap r a (bits lw.toNat 15 8) (bits w.toNat 31 16) (bits lw.toNat 23 16) (bits lw.toNat 7 0 + 1))

/-- No write is owed to the vector registers of a list, but by an instruction whose window holds it (R35). -/
def State.regsFree (s : State) (rs : List Nat) : Bool :=
  s.g.owed.isEmpty || rs.all fun r =>
    let p := s.g.phys r
    s.g.owed.all fun o => decide (o.place ≠ p) || s.g.wins.any fun w => decide (w.entry = s.entry) && decide (w.id = o.id)

/-- The registers that a multiplication reads: the span of each step (R259, R260, R266), or none where the latch serves the one step (R261). -/
def State.fragRegs (s : State) (loop : Bool) (a : Nat) (w lw : W32) : List Nat :=
  match s.reserv s.g.tid (bits w.toNat 6 0) with
  | none => []
  | some r =>
    if !loop && (s.g.latched a r).isSome then []
    else (List.range (bits lw.toNat 7 0 + 1)).flatMap fun j => (List.range (r.span.1 + r.span.2)).map fun k => a + j * bits lw.toNat 15 8 + k

/-- A queued matrix instruction traps, has no issuing lane, or needs room in the queue (R263). -/
def State.matGo (s : State) (trap : Nat → Option (Nat × W64)) : Bool :=
  match s.issuer with
  | none => true
  | some l => (trap l).isSome || s.queueRoom

/-- A multiplication needs its fragments written as well (R35). -/
def State.mulGo (s : State) (loop sparse : Bool) (tile a : Nat) (ops : Nat → W32 × W32) : Bool :=
  s.matGo (fun l => s.mulTrap sparse tile a (ops l).1 (ops l).2) &&
    (match s.issuer with
     | none => true
     | some l => (s.mulTrap sparse tile a (ops l).1 (ops l).2).isSome || s.regsFree (s.fragRegs loop a (ops l).1 (ops l).2))

/-- What a queued matrix instruction does: nothing without an issuing lane, a trap, or its operation in the queue. -/
def State.matRun (s : State) (i : Instr) (trap : Nat → Option (Nat × W64)) (k : State → Nat → State) : State :=
  match s.issuer with
  | none => s.done
  | some l =>
    match trap l with
    | some (c, v) => s.raise i c v
    | none => (k s l).done

/-- MMA and MMAS queue one K-step, with A under R261 (R264, R265). -/
def State.mulOne (s : State) (sparse keep : Bool) (tile a : Nat) (look : BitVec 4) (w : W32) : State :=
  match s.reserv s.g.tid (bits w.toNat 6 0) with
  | none => s
  | some r =>
    let img := (s.g.latched a r).getD (s.image a (r.span.1 + r.span.2))
    let latch : Option Latch :=
      if keep then some { a := a, sparse := sparse, frag := r.span.1, scales := r.span.2, unit := scaleBytes r.codeA, image := img } else none
    let o := { s.newOp .step tile with handle := bits w.toNat 6 0, slab := bits w.toNat 31 16, sparse := sparse, images := [img] }
    (s.openWin look.toNat false).onG fun g => { g with mqueue := g.mqueue ++ [o], latch := latch }

/-- MMA (R264). -/
def execMma (t : BitVec 4) (a b : Reg) (l : BitVec 4) (k : BitVec 1) (s : State) : Result :=
  issueReady (.mma t a b l k) s (fun s => s.mulGo false false t.toNat a.toNat fun n => (s.rd b n, 0))
    fun s => s.matRun (.mma t a b l k) (fun n => s.mulTrap false t.toNat a.toNat (s.rd b n) 0)
      fun s n => s.mulOne false (decide (k = 1#1)) t.toNat a.toNat l (s.rd b n)

/-- MMAS (R265). -/
def execMmas (t : BitVec 4) (a b : Reg) (l : BitVec 4) (k : BitVec 1) (s : State) : Result :=
  issueReady (.mmas t a b l k) s (fun s => s.mulGo false true t.toNat a.toNat fun n => (s.rd b n, 0))
    fun s => s.matRun (.mmas t a b l k) (fun n => s.mulTrap true t.toNat a.toNat (s.rd b n) 0)
      fun s n => s.mulOne true (decide (k = 1#1)) t.toNat a.toNat l (s.rd b n)

/-- MLOOP queues its steps as one operation and empties the latch (R266). -/
def State.mulLoop (s : State) (sparse : Bool) (tile a : Nat) (look : BitVec 4) (w lw : W32) : State :=
  match s.reserv s.g.tid (bits w.toNat 6 0) with
  | none => s
  | some r =>
    let imgs := (List.range (bits lw.toNat 7 0 + 1)).map fun j => s.image (a + j * bits lw.toNat 15 8) (r.span.1 + r.span.2)
    let o := { s.newOp .step tile with handle := bits w.toNat 6 0, slab := bits w.toNat 31 16, inc := bits lw.toNat 23 16, sparse := sparse, images := imgs }
    (s.openWin look.toNat false).onG fun g => { g with mqueue := g.mqueue ++ [o], latch := none }

/-- MLOOP (R266). -/
def execMloop (t : BitVec 4) (a b : Reg) (l : BitVec 4) (sc : BitVec 1) (s : State) : Result :=
  issueReady (.mloop t a b l sc) s
    (fun s => s.mulGo true (decide (sc = 1#1)) t.toNat a.toNat fun n => ((s.rd64 b n).setWidth 32, (s.rd64 b n >>> 32).setWidth 32))
    fun s => s.matRun (.mloop t a b l sc)
      (fun n => s.mulTrap (decide (sc = 1#1)) t.toNat a.toNat ((s.rd64 b n).setWidth 32) ((s.rd64 b n >>> 32).setWidth 32))
      fun s n => s.mulLoop (decide (sc = 1#1)) t.toNat a.toNat l ((s.rd64 b n).setWidth 32) ((s.rd64 b n >>> 32).setWidth 32)

/-! ## Batches (R267, R268) -/

/-- A batch is open until its operations have finished (R267). -/
def Group.openBatches (g : Group) : Nat := (g.batches.filter fun b => decide (b.left ≠ 0)).length

/-- The queued operations that no batch holds yet. -/
def Group.unbatched (g : Group) : Nat := (g.mqueue.filter fun o => o.batch.isNone).length

/-- The operations issued since the last MBATCH are closed into a batch (R267). -/
def Group.closeBatch (g : Group) : Group :=
  let n := g.unbatched
  let close := fun (o : MOp) => if o.batch.isNone then { o with batch := some g.bc } else o
  { g with mqueue := g.mqueue.map close, bc := g.bc + 1, mpend := 0,
           batches := if n = 0 ∧ g.mpend = 0 then g.batches else g.batches ++ [{ n := g.bc, left := n, fault := g.mpend }] }

/-- MBATCH (R267). -/
def execMbatch (d : Reg) (s : State) : Result :=
  issueReady (.mbatch d) s (fun s => s.issuer.isNone || decide (s.g.openBatches < 8) || decide (s.g.unbatched = 0)) fun s =>
    match s.issuer with
    | none => s.done
    | some _ => ((s.wr d fun _ => BitVec.ofNat 32 (s.g.bc % 16)).onG Group.closeBatch).done

/-- The batch that a number names: 1 to 16 batches back; none where there was no such batch. DESIGN CHOICE (log 99): R268 says of a number outside the last eight only
that MWAIT returns at once; the model takes it to name the batch 9 to 16 back, and reports and clears fault records up to that one. -/
def Group.batchOf (g : Group) (n : Nat) : Option Nat :=
  let back := (g.bc + 15 - n % 16) % 16 + 1
  if back ≤ g.bc then some (g.bc - back) else none

/-- MWAIT must hold its split: the number is one of the last eight and that batch or an earlier one is open (R268). -/
def Group.batchBusy (g : Group) (n : Nat) : Bool :=
  match g.batchOf n with
  | none => false
  | some k => decide (g.bc ≤ k + 8) && g.batches.any fun b => decide (b.n ≤ k) && decide (b.left ≠ 0)

/-- The result word of MWAIT, and the group with the fault records it clears (R268). -/
def Group.batchResult (g : Group) (n : Nat) : Group × W32 :=
  match g.batchOf n with
  | none => (g, BitVec.ofNat 32 (0x80000000 + n))
  | some k =>
    match g.batches.find? fun b => decide (b.n ≤ k) && decide (b.fault ≠ 0) with
    | none => (g, BitVec.ofNat 32 (0x80000000 + n))
    | some b =>
      let clear := fun (x : Batch) => if x.n ≤ k then { x with fault := 0 } else x
      ({ g with batches := (g.batches.map clear).filter fun x => decide (x.left ≠ 0) || decide (x.fault ≠ 0) },
       BitVec.ofNat 32 (0xC0000000 + b.fault % 64 * 0x1000000 + n))

/-- MWAIT (R268). -/
def execMwait (d a : Reg) (s : State) : Result :=
  issueWhen (.mwait d a) s
    (fun s => match s.issuer with
      | none => true
      | some l => decide (bits (s.rd a l).toNat 31 4 ≠ 0) || !s.g.batchBusy (s.rd a l).toNat)
    fun s =>
      match s.issuer with
      | none => s.done
      | some l =>
        let w := s.rd a l
        if bits w.toNat 31 4 ≠ 0 then s.raise (.mwait d a) 0x02 (w.setWidth 64)
        else
          let (g, v) := s.g.batchResult w.toNat
          (({ s with g := g } : State).wr d fun _ => v).done

/-! ## Tile access (R269–R271) -/

/-- ACCZ (R269). -/
def execAccz (t : BitVec 4) (s : State) : Result :=
  issueReady (.accz t) s (fun s => s.matGo fun _ => s.tileTrap t.toNat)
    fun s => s.matRun (.accz t) (fun _ => s.tileTrap t.toNat) fun s _ => s.enqueueOp (s.newOp .accz t.toNat)

/-- The checks of a selector word (R270). -/
def State.selTrap (s : State) (w : W32) : Option (Nat × W64) :=
  if bits w.toNat 31 6 ≠ 0 then some (0x02, w.setWidth 64) else s.tileTrap (bits w.toNat 3 0)

/-- ACCRD (R270): it holds its split until the registers are written. -/
def execAccrd (d b : Reg) (s : State) : Result :=
  issueReady (.accrd d b) s (fun s => s.matGo fun l => s.selTrap (s.rd b l))
    fun s => s.matRun (.accrd d b) (fun l => s.selTrap (s.rd b l)) fun s l =>
      let w := s.rd b l
      let o := { s.newOp .accrd (bits w.toNat 3 0) with word := w, dst := s.g.phys d.toNat }
      let owed := (List.range 8).map fun m => (s.g.dst (d + BitVec.ofNat 6 m) false)
      let s1 := s.enqueueOp o
      s1.onG fun g => (owed.foldl (fun g x => g.owe o.seq x o.grd) g).onSplit s.entry fun x => { x with wait := .queued }

/-- ACCWR (R270). -/
def execAccwr (a b : Reg) (s : State) : Result :=
  issueReady (.accwr a b) s (fun s => s.matGo fun l => s.selTrap (s.rd b l))
    fun s => s.matRun (.accwr a b) (fun l => s.selTrap (s.rd b l)) fun s l =>
      s.enqueueOp { s.newOp .accwr (bits (s.rd b l).toNat 3 0) with word := s.rd b l, images := [s.image a.toNat 8] }

/-- The bytes of a row of ACCST (R271). -/
def rowBytes (w : W32) : Nat :=
  match bits w.toNat 7 5 with
  | 0 => 256
  | 1 | 2 | 7 => 128
  | _ => 64

/-- Every byte of a row lies in one valid range of R154. -/
def State.rowValid (s : State) (g : Group) (off n : Nat) : Bool :=
  match s.scratchPlace g off, s.scratchPlace g (off + n - 1) with
  | some (x, _), some (y, _) => decide (x = y)
  | _, _ => false

/-- The offset of row `i` of an ACCST to the LDS space: beyond 2^32 it lies in no range (R271). -/
def rowOff (addr : W64) (stride : W32) (i : Nat) : Nat := (addr.setWidth 32).toNat + i * stride.toNat

/-- The checks of ACCST (R271). -/
def State.accstTrap (s : State) (addr : W64) (w stride : W32) : Option (Nat × W64) :=
  if bits w.toNat 31 11 ≠ 0 ∨ 2 ≤ bits w.toNat 10 9 ∨ (bits w.toNat 4 4 = 0 ∧ 5 ≤ bits w.toNat 7 5) then some (0x02, w.setWidth 64)
  else (s.tileTrap (bits w.toNat 3 0)).or
    (if addr.toNat % 16 ≠ 0 ∨ stride.toNat % 16 ≠ 0 then some (0x05, addr)
     else if bits w.toNat 10 9 = 1 ∧ !(List.range 16).all fun i => s.rowValid s.g (rowOff addr stride i) (rowBytes w) then
       some (0x09, (addr.setWidth 32).setWidth 64)
     else none)

/-- The operands of ACCST in a lane: address, store word, stride. -/
def State.accstOps (s : State) (a b : Reg) (l : Nat) : W64 × W32 × W32 :=
  (s.rd64 a l, (s.rd64 b l).setWidth 32, (s.rd64 b l >>> 32).setWidth 32)

/-- ACCST (R271). -/
def execAccst (a b : Reg) (s : State) : Result :=
  issueReady (.accst a b) s (fun s => s.matGo fun l => let p := s.accstOps a b l; s.accstTrap p.1 p.2.1 p.2.2)
    fun s => s.matRun (.accst a b) (fun l => let p := s.accstOps a b l; s.accstTrap p.1 p.2.1 p.2.2) fun s l =>
      let p := s.accstOps a b l
      s.enqueueOp { s.newOp .accst (bits p.2.1.toNat 3 0) with word := p.2.1, addr := p.1, stride := p.2.2, dst := if s.g.level = 0 then 1 else 0 }

/-! ## MCOMP (R273) -/

/-- The magnitude an element ranks by: NaN above every number (R273). -/
def State.compRank (s : State) (v : Nat) : FVal :=
  match eltFmt s.elt with
  | some F => (match F.val v with | .fin _ m e => .fin false m e | .inf _ => .inf false | .nan => .nan)
  | none => FVal.ofInt (wrapInt s.sg s.w v).natAbs

/-- One rank lies above another. -/
def rankAbove (a b : FVal) : Bool :=
  match a, b with
  | .nan, .nan => false
  | .nan, _ => true
  | _, .nan => false
  | a, b => decide (a.cmp b = some 1)

/-- The indices of the two highest ranks of a quad, ascending; equal ranks go to the lower index. -/
def pickTwo (f : Nat → FVal) : Nat × Nat :=
  let beats := fun (i : Nat) => ((List.range 4).filter fun j => decide (j ≠ i) && (rankAbove (f j) (f i) || (!rankAbove (f i) (f j) && decide (j < i)))).length
  match (List.range 4).filter fun i => decide (beats i < 2) with
  | [i, j] => (i, j)
  | _ => (0, 1)

/-- The two chosen indices of quad `q`. -/
def State.quadPick (s : State) (a : Reg) (q : Nat) : Nat × Nat := pickTwo fun i => s.compRank (s.rawAt s.w a (4 * q + i))

/-- The index word of a vector (R273). -/
def State.compIdx (s : State) (a : Reg) : Nat :=
  (List.range 8).foldl (fun n q => let p := s.quadPick a q; n + p.1 * 16 ^ q + p.2 * 4 * 16 ^ q) 0

/-- MCOMP (R273): lanes 0 to 15 of d get the kept values, lanes 16 to 31 the index word. DESIGN CHOICE (log 100): under a 64-bit element type it traps also where no lane
issues, though R249 gives it no effect then. -/
def execMcomp (d a : Reg) (l : BitVec 4) (s : State) : Result :=
  issue (.mcomp d a l) s fun s => s.checked (.mcomp d a l) (decide (s.w ≠ 64)) fun s =>
    match s.issuer with
    | none => s.done
    | some _ =>
      let val := fun (k : Nat) =>
        let p := s.quadPick a (k / 2)
        s.rd a (4 * (k / 2) + if k % 2 = 0 then p.1 else p.2)
      let idx := BitVec.ofNat 32 (s.compIdx a)
      ((s.openWin l.toNat (decide (d ≠ 63#6))).wrLong d s.grd fun k => if k < 16 then val k else idx).done

/-! ## The unit (R263) -/

/-- A FENCE of the group holds a queued operation back (R195). -/
def Group.opFenced (g : Group) (o : MOp) : Bool :=
  (g.fences ++ g.bankA.fences ++ g.bankS.fences ++ g.bankF.fences).any fun f =>
    decide (f.seq < o.seq) && decide (f.lanes &&& o.lanes ≠ 0#32) && (f.succ.getLsbD 4 || f.succ.getLsbD 5)

/-- The group may use the unit of its core. -/
def State.queuesWork (s : State) (core : Nat) (g : Group) : Bool :=
  decide (g.place = .resident) && decide (g.core = core) && !s.lapsed core && decide (g.mheld = 0) &&
    (match g.mqueue with | o :: _ => !g.opFenced o | [] => false)

/-- `x` runs before `y`: higher priority, or equal and started earlier (R263). -/
def Group.ahead (x y : Group) : Bool := decide (y.prio < x.prio) || (decide (x.prio = y.prio) && decide (x.started < y.started))

/-- The group that the unit of a core serves next (R263). -/
def State.unitGroup (s : State) (core : Nat) : Option Group :=
  (s.groups.filter (s.queuesWork core)).foldl (fun b g => match b with | some x => some (if g.ahead x then g else x) | none => some g) none

/-! ### A K-step (R255, R264, R265) -/

/-- Bits of the operand buffer from a byte on. -/
def State.opBits (s : State) (key pos w : Nat) : Nat :=
  Store.getLE s.onchip.opbuf (key + pos / 8) 5 / 2 ^ (pos % 8) % 2 ^ w

/-- Stored element `k` of column `n` of a slab (R255). -/
def State.eltB (s : State) (r : Reserv) (slab n k : Nat) : Nat :=
  let w := eltBits r.codeB
  s.opBits (opKey r.core (r.off + slab * r.layout.bsz)) ((n * stepK r.codeB + k) * w) w

/-- The scale unit of column `n`, block `j` (R255). -/
def State.scaleB (s : State) (r : Reserv) (slab n j : Nat) : Nat :=
  let u := scaleBytes r.codeB
  Store.getLE s.onchip.opbuf (opKey r.core (r.off + r.layout.scaleAt + slab * r.layout.ssz + (n * vectors r.fmt.toNat + j) * u)) u

/-- A element (i, k), its run of `kk` elements a row (R259). -/
def eltA (r : Reserv) (img : Store 32) (kk i k : Nat) : Nat :=
  let w := eltBits r.codeA
  imageBits img ((i * kk + k) * w) w

/-- The scale unit of row `i`, block `j` (R259). -/
def scaleA (r : Reserv) (img : Store 32) (i j : Nat) : Nat :=
  let u := scaleBytes r.codeA
  imageBits img (8 * (128 * r.span.1 + (16 * j + i) * u)) (8 * u)

/-- The pairs (logical K of A, stored k of B, block) that column `n` multiplies (R264, R265). -/
def State.stepPairs (s : State) (r : Reserv) (slab n : Nat) : List (Nat × Nat × Nat) :=
  if r.sparse then
    let v := vectors r.fmt.toNat
    let base := opKey r.core (r.off + r.layout.metaAt + slab * r.layout.msz)
    (List.range v).flatMap fun j =>
      if s.opBits base (n * v + j) 1 = 0 then []
      else
        let idx := Store.getLE s.onchip.opbuf (base + 64 + 4 * (n * v + j)) 4
        (List.range 16).map fun e => (32 * j + 4 * (e / 2) + bits idx (4 * (e / 2) + 2 * (e % 2) + 1) (4 * (e / 2) + 2 * (e % 2)), 16 * j + e, j)
  else (List.range (stepK r.codeB)).map fun k => (k, k, k / 32)

/-- C(i, n) after STEP (R264). -/
def State.stepElt (s : State) (r : Reserv) (img : Store 32) (slab i n : Nat) (c : W32) : W32 :=
  let ps := s.stepPairs r slab n
  let kk := logicalK r.fmt.toNat
  if intCode r.codeB then
    kstepInt c (ps.map fun p => (intVal r.codeA (eltA r img kk i p.1), intVal r.codeB (s.eltB r slab n p.2.1)))
  else
    kstep c (ps.map fun p =>
      (scaledVal r.codeA (r.fmt.getLsbD 13) (eltA r img kk i p.1) (scaleA r img i p.2.2),
       scaledVal r.codeB (r.fmt.getLsbD 5) (s.eltB r slab n p.2.1) (s.scaleB r slab n p.2.2)))

/-- A K-step on a slab reads operand-buffer data that carry a poison mark (R274, R432): elements and scales; of a sparse slab the bitmap, and the values, the scales and the
index words of its live vectors alone (R265). -/
def State.stepPoisoned (s : State) (r : Reserv) (slab : Nat) : Bool :=
  let ly := r.layout
  let meets := fun (off n : Nat) => s.onchip.marked (opKey r.core (r.off + off)) n
  let (vals, scales, metas) := (slab * ly.bsz, ly.scaleAt + slab * ly.ssz, ly.metaAt + slab * ly.msz)
  if s.onchip.opmark.isEmpty then false
  else if !r.sparse then meets vals ly.bsz || meets scales ly.ssz
  else
    let v := vectors r.fmt.toNat
    let (w, u) := (eltBits r.codeB, scaleBytes r.codeB)
    meets metas (8 * v) || (List.range (64 * v)).any fun k =>
      decide (s.opBits (opKey r.core (r.off + metas)) k 1 ≠ 0) &&
        (meets (metas + 64 + 4 * k) 4 || meets (scales + k * u) u || meets (vals + 2 * w * k) (2 * w))

/-- The place of C(i, n) in a group's tiles. -/
def accKey (tile i n : Nat) : Nat := 1024 * tile + 64 * i + n

/-- STEP: every element of the tile takes the K-step (R264). -/
def State.applyStep (s : State) (r : Reserv) (img : Store 32) (slab tile : Nat) (acc : Store 32) : Store 32 :=
  (List.range 1024).foldl (fun m k =>
    Store.put m (1024 * tile + k) (s.stepElt r img slab (k / 64) (k % 64) (Store.get acc (1024 * tile + k)))) acc

/-! ### Running and finishing operations -/

/-- Changes the operation at the head of a group's queue. -/
def Group.onHead (g : Group) (f : MOp → MOp) : Group :=
  match g.mqueue with
  | o :: t => { g with mqueue := f o :: t }
  | [] => g

/-- An operation of a batch has finished, with a fault code or 0 (R267, R274). -/
def Group.leaveBatch (g : Group) (batch : Option Nat) (code : Nat) : Group :=
  match batch with
  | none => if g.mpend = 0 then { g with mpend := code } else g
  | some n =>
    let upd := fun (b : Batch) => if b.n = n then { b with left := b.left - 1, fault := if b.fault = 0 then code else b.fault } else b
    { g with batches := (g.batches.map upd).filter fun b => decide (b.left ≠ 0) || decide (b.fault ≠ 0) }

/-- The split that an ACCRD holds is released. DESIGN CHOICE (log 85): so is that of an ACCRD which a fault discards, its registers unwritten. -/
def Group.releaseRead (g : Group) (o : MOp) : Group :=
  if o.kind = .accrd then (g.disown o.seq).onSplit o.entry fun x => { x with wait := .none } else g

/-- The head of the queue is done (R267). -/
def Group.finishHead (g : Group) : Group :=
  match g.mqueue with
  | o :: t => ({ g with mqueue := t }.releaseRead o).leaveBatch o.batch 0
  | [] => g

/-- The running operation ends with a fault: it and every later one are discarded, their batches finish faulted (R274). -/
def Group.discardQueue (g : Group) (code : Nat) : Group :=
  g.mqueue.foldl (fun g o => (g.releaseRead o).leaveBatch o.batch code) { g with mqueue := [], mheld := 0, maddr := 0, mtime := 0, mrec := false }

/-- The running operation of a group ends with a fault, and every later one (R274). -/
def State.endQueue (s : State) (g : Group) (code : Nat) : State :=
  ((s.forgetWaits fun n => g.mqueue.any fun o => decide (o.seq = n) || decide (walkName o.seq = n)).onGroup g.gid fun y => y.discardQueue code).settleGroup g.gid

/-- A K-step consumes poison: the first time its context rolls back, a repeat ends the queue with code 0x08; the step is not applied (R274, R433). -/
def State.poisonedStep (s : State) (g : Group) : State :=
  match s.consumeBy g.ctx 0 with
  | (s1, .fault c _ _) => s1.endQueue g c
  | (s1, _) => s1

/-- The row and column of element m, lane l of a quarter (R270). -/
def quarterKey (o : MOp) (m l : Nat) : Nat := accKey o.tile (4 * bits o.word.toNat 5 4 + m / 2) (32 * (m % 2) + l)

/-- The head of the chosen group's queue runs: one K-step of a multiplication, or a whole ACCZ, ACCRD or ACCWR (R263–R270). -/
def State.runHead (s : State) (g : Group) (o : MOp) : State :=
  match o.kind with
  | .step =>
    match s.reserv g.tid o.handle, o.images[o.done]? with
    | some r, some img =>
      let slab := o.slab + o.done * o.inc
      if s.stepPoisoned r slab then (s.poisonedStep g).ranOn g.core g.ctx
      else
        let acc := s.applyStep r img slab o.tile g.acc
        let s1 := s.onGroup g.gid fun g =>
          let g1 := ({ g with acc := acc } : Group).onHead fun x => { x with done := x.done + 1 }
          if o.done + 1 < o.images.length then g1 else g1.finishHead
        (s1.event g.core g.ctx 0x05).ranOn g.core g.ctx
    | _, _ => s.onGroup g.gid Group.finishHead
  | .accz => s.onGroup g.gid fun g => ({ g with acc := Store.clear g.acc (1024 * o.tile) 1024 } : Group).finishHead
  | .accrd => s.onGroup g.gid fun g =>
      ((List.range 8).foldl (fun g m => (lanesOf o.grd).foldl (fun g l =>
        g.deliver o.seq ((o.dst + m) % g.nregs) l (Store.get g.acc (quarterKey o m l))) g) g).finishHead
  | .accwr => s.onGroup g.gid fun g =>
      let img := o.images.headD []
      let acc := (List.range 8).foldl (fun a m => (lanesOf o.grd).foldl (fun a l => Store.put a (quarterKey o m l) (Store.get img (32 * m + l))) a) g.acc
      ({ g with acc := acc } : Group).finishHead
  | .accst => s

/-- MATRIX_KSTEP (R263, R264). -/
def execMatrixKstep (core : Nat) (s : State) : Result :=
  occur s fun s =>
    match s.unitGroup core with
    | none => s
    | some g =>
      match g.mqueue with
      | o :: _ => (s.runHead g o).settleGroup g.gid
      | [] => s

/-! ### ACCST (R271, R272, R274) -/

/-- A value rounded to E4M3 (R272). -/
def toE4m3 (sat : Bool) (v : FVal) : Nat :=
  match v with
  | .nan => 0x7F
  | .inf n => if sat then (if n then 0xFE else 0x7E) else 0x7F
  | .fin n m e =>
    if m = 0 then (if n then 0x80 else 0)
    else
      let mag := ({ eb := 4, fb := 3 } : FFmt).roundMag 0 n m e false
      if 0x7E < mag then (if sat then (if n then 0xFE else 0x7E) else 0x7F) else (if n then 0x80 + mag else mag)

/-- The conversion of an element (R272). -/
def accstConvert (w : W32) (e : W32) : Nat :=
  let int := decide (bits w.toNat 4 4 = 1)
  let sat := w.getLsbD 8
  let v := if int then FVal.ofInt e.toInt else f32.val e.toNat
  let r : Rnd := { rm := 0, sat := sat, flush := false }
  let clip := fun (sg : Bool) (n : Nat) => (if sat then satInt sg n e.toInt else e.toInt).emod (2 ^ n) |>.toNat
  match bits w.toNat 7 5 with
  | 0 => e.toNat
  | 1 => bf16.rnd r false v
  | 2 => f16.rnd r false v
  | 3 => toE4m3 sat v
  | 4 => e5m2.rnd r false v
  | 5 => clip true 8
  | 6 => clip false 8
  | _ => clip true 16

/-- The bytes of row `i` as one number. -/
def accstRow (g : Group) (o : MOp) (i : Nat) : Nat :=
  let n := rowBytes o.word / 64
  (List.range 64).foldl (fun v c => v + accstConvert o.word (Store.get g.acc (accKey o.tile i c)) * 2 ^ (8 * n * c)) 0

/-- The address of row `i` in virtual memory. -/
def rowVa (o : MOp) (i : Nat) : W64 := o.addr + BitVec.ofNat 64 i * o.stride.setWidth 64

/-- The place of piece `p` of row `i` in the space the operation stores to: an offset, or an address (R271). -/
def pieceVa (o : MOp) (i p : Nat) : W64 :=
  if bits o.word.toNat 10 9 = 1 then BitVec.ofNat 64 (rowOff o.addr o.stride i + 16 * p) else rowVa o i + BitVec.ofNat 64 (16 * p)

/-- What a 16-byte piece of a row meets: a place, a fault of R274, a wait before its home is known, or the end of the context's work, which has consumed poison (R433). -/
inductive Piece where
  | mem (pa : Nat) (ms : Bool)
  | chip (sp : Space) (key : Nat)
  | fault (code : Nat) (va : W64) (restart : Bool)
  | wait
  | over
  deriving DecidableEq, Repr

/-- The operations of a group's queue ask for translations; those issued by APP code have its rights (R271). -/
def Group.opAsker (g : Group) (o : MOp) : Asker := { core := g.core, who := o.seq, ctx := g.ctx, inc := g.inc, app := decide (o.dst = 1) }

/-- A piece that a higher row which has landed covers is not written again (R271). -/
def coveredAbove (o : MOp) (i p : Nat) : Bool :=
  (List.range 16).any fun j => decide (i < j) && o.rows.getLsbD j &&
    (List.range (rowBytes o.word / 16)).any fun q => decide (pieceVa o j q = pieceVa o i p)

/-- The place of piece `p` of row `i` (R274). -/
def State.pieceOf (s : State) (g : Group) (o : MOp) (i p : Nat) : State × Piece :=
  if bits o.word.toNat 10 9 = 1 then
    let off := rowOff o.addr o.stride i + 16 * p
    match s.scratchPlace g off with
    | none => (s, .fault 0x03 (pieceVa o i p) false)
    | some (sp, key) =>
      if sp = .scratch ∧ (s.armedIn g.tid off 16).isSome then (s, .fault 0x07 (pieceVa o i p) false)
      else if sp = .column ∧ !s.onchip.columnRoom (key - 16 * p) (rowBytes o.word) then (s, .wait) else (s, .chip sp key)
  else
    match s.xlate (g.opAsker o) .write (pieceVa o i p) with
    | (s1, .over) => (s1, .over)
    | (s1, .ok pa pte) =>
      (s1, if pte.getLsbD 56 then .wait else .mem pa (pteMs pte))
    | (s1, .wait) => (s1, .wait)
    | (s1, .fault cause w) =>
      if cause = 0x10 then (s1, .fault 0x08 (pieceVa o i p) false)
      else
        let last := decide (w = 0#64) && (decide (cause = 0x09) || s.onFlash (g.opAsker o) .write (pieceVa o i p))
        (s1, .fault (if last then 0x06 else 0x05) (pieceVa o i p) !last)

/-- The pieces of a row in order, none after one that ends the context's work. -/
def State.rowPieces (s : State) (g : Group) (o : MOp) (i : Nat) : State × List Piece :=
  (List.range (rowBytes o.word / 16)).foldl (fun r p => if r.2.contains .over then r else let q := r.1.pieceOf g o i p; (q.1, r.2 ++ [q.2])) (s, [])

/-- The first fault of a list of pieces. -/
def firstFault (ps : List Piece) : Option (Nat × W64 × Bool) :=
  ps.findSome? fun p => match p with | .fault c v r => some (c, v, r) | _ => none

/-- Who a queued operation writes as (R184). -/
def MOp.writer (o : MOp) (g : Group) : Writer :=
  { gid := g.gid, log := o.seq, core := g.core, slot := g.slot, lane := 32, ostamp := o.ostamp, always := false }

/-- The 16 bytes of a piece are written: at the home of memory word by word, under the rank and the order stamp of the operation (R184, R186), or in an on-chip
array. -/
def State.landPiece (s : State) (g : Group) (o : MOp) (x : Nat) : Piece → State
  | .mem pa ms =>
    ((List.range 4).foldl (fun s k => (s.newPool 4 (pa + 4 * k) 4 g.gid o.seq o.lanes g.ctx g.inc).performWrite g.ctx (o.writer g) ms (pa + 4 * k) 4
      (x / 2 ^ (32 * k) % 2 ^ 32)) s).forgetAt o.seq pa
  | .chip sp key =>
    { s with onchip := s.onchip.putLE sp key 16 x, m := (List.range 4).foldl (fun m k => m.note (o.writer g) (placeNo sp key + k) s.dev.time 0) s.m }
  | _ => s

/-- The places in memory of the pieces of a row. -/
def memPieces (ps : List Piece) : List Nat := ps.filterMap fun p => match p with | .mem pa _ => some pa | _ => none

/-- A row lands whole (R271); until every home can take its bytes, it waits at all of them (R164, R388). From then on every read at the home gives its bytes: a group-path load without the crossing of R276 sees them too, of the two
values that R276 allows it (DESIGN CHOICE, log 86). -/
def State.landRow (s : State) (g : Group) (o : MOp) (i : Nat) : State :=
  let (s1, ps) := s.rowPieces g o i
  let v := accstRow g o i
  if ps.any fun p => match p with | .wait => true | .fault .. => true | .over => true | _ => false then s1
  else if !((memPieces ps).all fun pa => s1.homeFree o.seq g.ctx pa) then s1.awaitAll o.seq (memPieces ps)
  else
    let s2 := (ps.zip (List.range ps.length)).foldl (fun s q =>
      if coveredAbove o i q.2 then s else s.landPiece g o (v / 2 ^ (128 * q.2) % 2 ^ 128) q.1) s1
    s2.onGroup g.gid fun g =>
      let g1 := g.onHead fun x => { x with rows := x.rows ||| (1#16 <<< i) }
      match g1.mqueue with
      | x :: _ => if x.rows = BitVec.allOnes 16 then g1.finishHead else g1
      | [] => g1

/-- The ACCST at the head of the queue of the group a unit serves. -/
def State.storing (s : State) (core : Nat) : Option (Group × MOp) :=
  match s.unitGroup core with
  | none => none
  | some g => match g.mqueue with | o :: _ => if o.kind = .accst then some (g, o) else none | [] => none

/-- ACCST_ROW_LAND (R271): a row that has not landed lands. -/
def execAccstRowLand (core : Nat) (row : BitVec 4) (s : State) : Result :=
  occur s fun s =>
    match s.storing core with
    | some (g, o) => if o.rows.getLsbD row.toNat then s else ((s.landRow g o row.toNat).ranOn core g.ctx).settleGroup g.gid
    | none => s

/-- The fault that some row which has not landed meets, with the state after its translations; none where one of them ends the context's work. -/
def State.storeFault (s : State) (g : Group) (o : MOp) : State × Option (Nat × W64 × Bool) :=
  (List.range 16).foldl (fun r i =>
    if r.2.isSome ∨ o.rows.getLsbD i ∨ (r.1.find g.gid).isNone then r
    else
      let q := r.1.rowPieces g o i
      (q.1, firstFault q.2)) (s, none)

/-- The record of a held matrix operation is written where the ring has room (R357). -/
def State.recordOp (s : State) (g : Group) : State :=
  match s.ctx g.ctx, g.mqueue with
  | some x, o :: _ =>
    let tag := BitVec.ofNat 32 (2 * 2 ^ 30 + g.core % 1024 * 2 ^ 20 + g.slot % 64 * 2 ^ 14)
    let w1 := BitVec.ofNat 32 (g.ctx.toNat * 2 ^ 20 + g.inc.toNat * 2 ^ 12 + g.mheld)
    match s.ringRecord o.seq x tag w1 g.maddr (o.rows.setWidth 32) g.mtime 0x0C with
    | (s1, true) => s1.onGroup g.gid fun y => { y with mrec := true }
    | (s1, false) => s1
  | _, _ => s

/-- MATRIX_OP_FAULT (R274): a restartable fault holds the queue and is reported; a terminal one discards it. Without a ring a restartable
fault ends the operation at once (R357). -/
def execMatrixOpFault (core : Nat) (s : State) : Result :=
  occur s fun s =>
    match s.storing core with
    | none => s
    | some (g, o) =>
      match s.storeFault g o with
      | (_, none) => s
      | (s1, some (code, va, restart)) =>
        let ring : Bool := match s.ctx g.ctx with | some x => decide (x.ring ≠ 0) | none => false
        if restart ∧ ring then
          let s2 := (s1.forgetName o.seq).onGroup g.gid fun y => { y with mheld := code, maddr := va, mtime := s.dev.time, mrec := false }
          s2.recordOp { g with mheld := code, maddr := va, mtime := s.dev.time }
        else s1.endQueue g code

end Sys2Proof.Machine
end

