-- ==== Sys2Proof/Machine/NearMemory.lean ====
section
/-!
DEFINITION. Sys2Proof/Machine/NearMemory.lean: work in the memory stacks, majors 0x70 to 0x73: indexed reduction (R281–R284), near-bank
sequences (R285–R294), collective landing (R295, R296, R396), and self-refresh (R298).
-/

namespace Sys2Proof.Machine

open Sys2Proof

/-! ## Places in the stacks -/

/-- A memory-side read of a line recalls a dirty copy first: it reaches its home and then DRAM (R279). -/
def State.msRecall (s : State) (pa : Nat) : State :=
  match s.m.dirOf (lineOf pa) with
  | some d => if d.owner.isSome then (let s1 := s.recallOwner (lineOf pa); { s1 with m := s1.m.cleanL2 (lineOf pa) }) else s
  | none => s

/-! ## IRED (R281–R284) -/

/-- Bytes of an element, and its format; none is i32. -/
def iredElt (f : BitVec 3) : Nat × Option FFmt :=
  match f.toNat with
  | 0 => (4, some f32)
  | 1 => (2, some bf16)
  | 2 => (2, some f16)
  | _ => (4, none)

/-- Register `r` of a lane's block in the log. -/
def LogEntry.breg (e : LogEntry) (r l : Nat) : W32 := (Store.get e.val (32 * r + l)).setWidth 32

/-- A 64-bit value of two registers of a lane's block. -/
def LogEntry.blong (e : LogEntry) (r l : Nat) : W64 := (e.breg (r + 1) l ++ e.breg r l : BitVec 64)

/-- The table rows a lane names: their addresses (R281). -/
def iredRows (e : LogEntry) (l : Nat) : List W64 :=
  let ctl := (e.breg 6 l).toNat
  let st := bits (e.breg 7 l).toNat 23 0
  let stride := 64 * if st = 0 then bits ctl 11 0 else st
  (List.range (bits ctl 15 12)).map fun j => e.blong 2 l + BitVec.ofNat 64 ((e.breg (8 + j) l).toNat * stride)

/-- The lines of a lane, each address with the access it takes and whether it must be memory-side, in the order they are checked. -/
def iredPlaces (e : LogEntry) (l : Nat) : List (W64 × Acc × Bool) :=
  let n := bits (e.breg 6 l).toNat 11 0
  let line := fun (a : W64) (k : Nat) => a + BitVec.ofNat 64 (64 * k)
  ((List.range n).map fun k => (line (e.blong 0 l) k, Acc.write, true)) ++ [(e.blong 4 l, Acc.write, true)] ++
    (iredRows e l).flatMap fun a => (List.range n).map fun k => (line a k, Acc.read, false)

/-- A line's table rows and its own place wait for no owner and no sleeping stack (R279, R298). -/
def State.awake (s : State) (pas : List Nat) : Bool := pas.all fun pa => !s.stackHeld pa

/-- What the checks of a lane find; `over` where its walk has read poison and ended the context's work (R433). -/
inductive IredLane where
  | ok (pas : List Nat)
  | bad (order cause : Nat) (val wdet : W64)
  | wait
  | over
  deriving DecidableEq, Repr

/-- Translations and attributes of a lane's places (R282): every translation comes before the first attribute. -/
def State.iredXlate (s : State) (g : Group) : List (W64 × Acc × Bool) → List Nat → Option (W64) → State × IredLane
  | [], pas, none => if s.awake pas then (s, .ok pas.reverse) else (s, .wait)
  | [], _, some v => (s, .bad 4 0x0F v 0)
  | (va, acc, ms) :: t, pas, odd =>
    match s.xlate g.asker acc va with
    | (s1, .fault c w) => (s1, .bad 3 c va w)
    | (s1, .wait) => (s1, .wait)
    | (s1, .over) => (s1, .over)
    | (s1, .ok pa p) =>
      let ok := decide (pteTier p = .hbm) && (!ms || pteMs p)
      State.iredXlate s1 g t (pa :: pas) (match odd with | some v => some v | none => if ok then none else some va)

/-- The checks of a lane in the order of R282. DESIGN CHOICE (log 101): where its control word and its stride word both fail, TVAL is the control word. -/
def State.iredLane (s : State) (g : Group) (e : LogEntry) (l : Nat) : State × IredLane :=
  let ctl := e.breg 6 l
  let st := e.breg 7 l
  let odd := [(e.blong 0 l, 64), (e.blong 2 l, 64), (e.blong 4 l, 4)].find? fun p => decide (p.1.toNat % p.2 ≠ 0)
  match odd with
  | some p => (s, .bad 1 0x05 p.1 0)
  | none =>
    let n := bits ctl.toNat 15 12
    let len := bits ctl.toNat 11 0
    if bits ctl.toNat 31 16 ≠ 0 ∨ n = 0 ∨ 12 < n ∨ len = 0 ∨ 1024 < len then (s, .bad 2 0x02 (ctl.setWidth 64) 0)
    else if bits st.toNat 31 24 ≠ 0 then (s, .bad 2 0x02 (st.setWidth 64) 0)
    else s.iredXlate g (iredPlaces e l) [] none

/-- A passing lane's command is accepted by the base die. -/
def State.acceptIred (s : State) (g : Group) (e : LogEntry) (l : Nat) (pas : List Nat) : State :=
  let len := bits (e.breg 6 l).toNat 11 0
  let n := bits (e.breg 6 l).toNat 15 12
  let c : IredCmd :=
    { cid := s.seq + 1, ls := g.lslot.toNat, gid := g.gid, core := g.core, slot := g.slot, ctx := g.ctx, inc := g.inc,
      fmt := BitVec.ofNat 3 e.aux,
      lines := (List.range len).map fun k => (pas.getD k 0, (List.range n).map fun j => pas.getD (len + 1 + j * len + k) 0),
      counter := pas.getD len 0, since := s.dev.time, begun := false }
  ({ s with seq := s.seq + 1, eng := { s.eng with ired := s.eng.ired ++ [c] } } : State).onG fun x => x.doneLanes e.seq (laneBit l)

/-- The pending lanes of an IRED are checked; the passing ones become commands (R282). -/
def State.launchIred (s : State) (seq : Nat) : State :=
  match s.g.entryOf seq with
  | none => s
  | some e =>
    let (s1, fs) := (lanesOf e.pend).foldl (fun (r : State × List (Nat × Nat × Nat × W64 × W64)) l =>
      if (r.1.find s.g.gid).isNone then r else match r.1.iredLane s.g e l with
      | (s1, .ok pas) => (s1.acceptIred s.g e l pas, r.2)
      | (s1, .bad o c v w) => (s1, r.2 ++ [(o, c, l, v, w)])
      | (s1, _) => (s1, r.2)) (s, [])
    if (s1.find s.g.gid).isNone then s1
    else
      match accessTrap e fs with
      | none => s1
      | some t => s1.report t

/-- Some lane of an IRED must wait for the home of a leaf, or for a stack that holds what it has accepted (R298). -/
def State.iredWaits (s : State) (e : LogEntry) : Bool := (lanesOf e.pend).any fun l => decide ((s.iredLane s.g e l).2 = .wait)

/-- The checks of the lanes of an IRED that must wait, with what they mark at the homes of leaves (R164). -/
def State.iredProbe (s : State) (e : LogEntry) : State :=
  (lanesOf e.pend).foldl (fun t l => if (t.find s.g.gid).isNone then t else (t.iredLane s.g e l).1) s

/-- The log entry of an IRED: every lane's block as it stands at issue. -/
def State.iredEntry (s : State) (i : Instr) (a : Reg) (f : BitVec 3) : LogEntry :=
  { id := s.g.freeEntry.getD 0, seq := s.seq, i := i, mode := s.md, entry := s.entry, lanes := s.act, pend := s.work, flight := 0, addr := [],
    val := (List.range 20).foldl (fun m r => (lanesOf s.work).foldl (fun m l => Store.put m (32 * r + l) ((s.blk a r l).setWidth 64)) m) [],
    val2 := [], dst := .none, aux := f.toNat }

/-- IRED (R281). -/
def execIred (a : Reg) (l : BitVec 4) (f : BitVec 3) (s : State) : Result :=
  issueOr (.ired a l f) s (fun s => !s.iredWaits (s.iredEntry (.ired a l f) a f))
    (fun s => s.holdMarked (s.iredProbe (s.iredEntry (.ired a l f) a f))) fun s =>
    let e := s.iredEntry (.ired a l f) a f
    let s1 := (s.openWin l.toNat false).onG fun g => { g with log := if e.pend = 0#32 then g.log else g.log ++ [e] }
    s1.done.launchIred e.seq

/-- The new value of a destination element (R283): `d` and the table's elements `ts`. -/
def iredSum (f : BitVec 3) (d : Nat) (ts : List Nat) : Nat :=
  match (iredElt f).2 with
  | none => (ts.foldl (· + ·) d) % 2 ^ 32
  | some F =>
    let acc := ts.foldl (fun a t => f32.rnd rne false (FVal.add false (f32.val a) (F.val t))) (f32.rnd rne false (F.val d))
    F.rnd rne false (f32.val acc)

/-- Who writes for an IRED command. -/
def IredCmd.writer (c : IredCmd) : Writer := { gid := c.gid, log := c.cid, core := c.core, slot := c.slot, lane := 32, ostamp := 0, always := true }

/-- 64 bytes of memory-side pages are written: words, each replacing what its home holds, and whole sectors, whose poison goes (R279, R432). -/
def State.sideUnit (s : State) (c : BitVec 12) (w : Writer) (pa v : Nat) : State :=
  (List.range 16).foldl (fun s k => s.performSide c w (pa + 4 * k) 4 (v / 2 ^ (32 * k) % 2 ^ 32)) (s.meventAt pa (some c) 0x02)

/-- Changes an IRED command; one with nothing left to do leaves. -/
def State.onIred (s : State) (cid : Nat) (f : IredCmd → Option IredCmd) : State :=
  { s with eng := { s.eng with ired := s.eng.ired.filterMap fun c => if c.cid = cid then f c else some c } }

/-- The home of the counter adds 1 (R284). -/
def State.iredCount (s : State) (c : IredCmd) : State :=
  if s.homeFree c.cid c.ctx c.counter then
    let s1 := s.msRecall c.counter
    let v := Store.getLE s1.m.mem c.counter 4
    ((s1.performSide c.ctx c.writer c.counter 4 ((v + 1) % 2 ^ 32)).forgetName c.cid).onIred c.cid fun _ => none
  else s.await c.cid c.counter

/-- A destination line can take its sum now, and the lines that the sum reads have no dirty copy that cannot be written back yet. -/
def State.iredReady (s : State) (c : IredCmd) (p : Nat × List Nat) : Bool :=
  s.homeFree c.cid c.ctx p.1 && p.2.all fun t => !s.ownerHeld (lineOf t) && !s.stackHeld t

/-- One destination line is read, added to and written as one memory-side atomic, after the recalls (R279, R283). Poisoned data are consumed (R433). -/
def State.iredLine (s : State) (c : IredCmd) (p : Nat × List Nat) : State :=
  let s1 := (p.1 :: p.2).foldl State.msRecall s
  if !s.iredReady c p then (s.await c.cid p.1).awaitAll (walkName c.cid) (p.2.filter fun t => s.ownerHeld (lineOf t))
  else if (p.1 :: p.2).any fun a => s1.m.bankPoisoned a 64 then
    match s1.consumeBy c.ctx 0 with
    | (s2, .rolled) => s2
    | (s2, _) => ((s2.forgetName c.cid).onIred c.cid fun _ => none).onGroup c.gid fun g =>
        g.found { cause := 0x10, async := false, val := 0, ins := 0, fmask := 0, wdet := 0, logged := none, entry := 0 }
  else
    let n := (iredElt c.fmt).1
    let v := (List.range (64 / n)).foldl (fun v k =>
      v + iredSum c.fmt (Store.getLE s1.m.mem (p.1 + n * k) n) (p.2.map fun t => Store.getLE s1.m.mem (t + n * k) n) * 2 ^ (8 * n * k)) 0
    let s2 := ((s1.sideUnit c.ctx c.writer p.1 v).forgetName c.cid).onIred c.cid fun x => some { x with lines := x.lines.erase p, begun := true }
    if c.lines.length = 1 then s2.iredCount c else s2

/-- Some line that the command has still to perform lies in a sleeping stack, which holds it (R298). -/
def State.iredHeld (s : State) (c : IredCmd) : Bool := c.lines.any fun p => s.stackHeld p.1

/-- What is left of a stale command is dropped: the lines that have performed stand (R305, R360). -/
def State.dropIred (s : State) (c : IredCmd) : State :=
  let s1 := (s.forgetName c.cid).onIred c.cid fun _ => none
  { s1 with dev := { s1.dev with dropc := s1.dev.dropc + 1 } }

/-- IRED_COMMAND (R283, R284): the base die applies a command to the destination line of a physical address, or, when every line has
performed, adds 1 to the counter; of a stale command that alone (R305). -/
def execIredCommand (cid line : Nat) (s : State) : Result :=
  occur s fun s =>
    match s.eng.ired.find? fun c => decide (c.cid = cid) with
    | none => s
    | some c =>
      if c.lines.isEmpty then s.iredCount c
      else if !s.liveTag c.ctx c.inc then (if s.iredHeld c then s else s.dropIred c)
      else
        match c.lines.find? fun p => decide (p.1 = line) with
        | some p => s.iredLine c p
        | none => s

/-! ## Near-bank sequences (R285–R294) -/

def uOp (u : W32) : Nat := bits u.toNat 31 28
def uK (u : W32) : Nat := bits u.toNat 27 26
def uJ (u : W32) : Nat := bits u.toNat 25 24
def uRow (u : W32) : Nat := bits u.toNat 7 0

/-- The micro-operation touches a DRAM row (R288). -/
def uRows (u : W32) : Bool := decide (1 ≤ uOp u) && decide (uOp u ≤ 4)

/-- A micro-operation with a reserved op or a nonzero field that its op does not use (R289). -/
def uBad (u : W32) : Bool :=
  decide (uOp u = 0) || decide (6 < uOp u) || decide (bits u.toNat 23 8 ≠ 0) ||
    (match uOp u with
     | 3 | 4 => decide (2 ≤ uJ u)
     | 5 => false
     | _ => decide (uJ u ≠ 0))

/-- The operands of NBRUN. -/
structure NbOps where
  base : W64
  ctl : W32
  scal : W32
  us : List W32
  deriving DecidableEq, Repr

/-- NBRUN's block in the issuing lane. -/
def State.nbOps (s : State) (a : Reg) (l : Nat) : NbOps :=
  let ctl := s.blk a 2 l
  { base := s.rd64 a l, ctl := ctl, scal := s.blk a 3 l, us := (List.range (bits ctl.toNat 21 20 + 1)).map fun k => s.blk a (4 + k) l }

def NbOps.inc (o : NbOps) : Nat := bits o.ctl.toNat 15 12
def NbOps.steps (o : NbOps) : Nat := bits o.ctl.toNat 7 0 + 1

/-- The first row operation past the page, in sequence order: its row slot (R289). -/
def NbOps.outside (o : NbOps) : Option Nat :=
  ((List.range o.steps).flatMap fun t => (o.us.filter uRows).map fun u => uRow u + t * o.inc).find? fun r => decide (128 ≤ r)

/-- What the checks of NBRUN find: the physical page and whether it is memory-side; a trap; a wait for the home of the leaf; `over` where the walk has read poison and
ended the context's work (R433). -/
inductive NbCheck where
  | page (pa : Nat) (ms : Bool)
  | trap (cause : Nat) (val wdet : W64)
  | wait
  | over
  deriving DecidableEq, Repr

/-- A page base translates (R289): its physical address, or the fault, or an attribute mismatch. -/
def State.nbPage (s : State) (va : W64) : State × NbCheck :=
  match s.xlate s.g.asker .read va with
  | (s1, .fault c w) => (s1, .trap c va w)
  | (s1, .wait) => (s1, .wait)
  | (s1, .over) => (s1, .over)
  | (s1, .ok pa p) =>
    let level := match s.walkFor s.g.asker .read va with | .leaf l => l.level | _ => 0
    if p.getLsbD 10 ∧ p.getLsbD 8 ∧ level = 2 then (s1, .page pa (pteMs p)) else (s1, .trap 0x0F va 0)

/-- The checks of NBRUN but for the queues (R289). DESIGN CHOICE (log 101): of several words that fail, TVAL is the control word, else the lowest micro-operation. -/
def State.nbCheck (s : State) (o : NbOps) : State × NbCheck :=
  if bits o.ctl.toNat 31 22 ≠ 0 ∨ bits o.ctl.toNat 19 19 ≠ 0 ∨ bits o.ctl.toNat 11 8 ≠ 0 then (s, .trap 0x02 (o.ctl.setWidth 64) 0)
  else
    match o.us.find? uBad with
    | some u => (s, .trap 0x02 (u.setWidth 64) 0)
    | none =>
      if o.base.toNat % 0x200000 ≠ 0 then (s, .trap 0x05 o.base 0)
      else
        match s.nbPage o.base, o.outside with
        | (s1, .page _ _), some r => (s1, .trap 0x0E (o.base + BitVec.ofNat 64 (16384 * r)) 0)
        | x, _ => x

/-- The unfinished sequences of a group. -/
def State.groupSeqs (s : State) (gid : Nat) : List NbSeq := s.eng.nb.filter fun q => decide (q.gid = gid)

/-- NBRUN need not wait: no issuing lane, a trap, or room for the sequence at a stack that takes new requests (R289, R298). -/
def State.nbGo (s : State) (a : Reg) : Bool :=
  match s.issuer with
  | none => true
  | some l =>
    match s.nbCheck (s.nbOps a l) with
    | (_, .page pa _) => !s.stackHeld pa && decide ((s.groupSeqs s.g.gid).length < 4) && decide ((s.eng.nb.filter fun q => decide (q.pc = pcOf pa)).length < 9)
    | (_, .wait) => false
    | _ => true

/-- The check of an NBRUN that must wait, with what it marks at the home of a leaf (R164). -/
def State.nbProbe (s : State) (a : Reg) : State := match s.issuer with | none => s | some l => (s.nbCheck (s.nbOps a l)).1

/-- NBRUN (R287): a sequence is queued at its pseudo-channel; d gets its ticket. -/
def execNbrun (d a : Reg) (l : BitVec 4) (s : State) : Result :=
  issueOr (.nbrun d a l) s (fun s => s.nbGo a) (fun s => s.sleepMarked (s.nbProbe a)) fun s =>
    match s.issuer with
    | none => s.done
    | some n =>
      let o := s.nbOps a n
      match s.nbCheck o with
      | (s1, .trap c v w) => s1.raiseWalk (.nbrun d a l) c v w
      | (s1, .wait) => s1
      | (s1, .over) => s1
      | (s1, .page pa ms) =>
        let q : NbSeq :=
          { sid := s1.seq, ls := s1.g.lslot.toNat, pc := pcOf pa, gid := s1.g.gid, ctx := s1.g.ctx, inc := s1.g.inc, ticket := s1.g.nextTicket.toNat, page := pa, ms := ms,
            steps := o.steps, winc := o.inc, yields := bits o.ctl.toNat 18 16 + 1, x0 := o.scal.setWidth 16, x1 := (o.scal >>> 16).setWidth 16,
            uops := o.us, t := 0, idx := 0, acc := [], ops := 0, serving := false, since := s1.dev.time }
        let s2 : State := { s1 with eng := { s1.eng with nb := s1.eng.nb ++ [q] } }
        let s3 := (s2.openWin l.toNat (decide (d ≠ 63#6))).wrLong d s2.grd fun _ => BitVec.ofNat 32 q.ticket
        (s3.onG fun g =>
          let ts := g.tickets ++ [{ n := q.ticket, sid := q.sid, done := false, code := 0, steps := 0 }]
          { g with nextTicket := g.nextTicket + 1#4, tickets := ts.drop (ts.length - 4) }).done

/-- Byte offset in the page of element `p` of bank `b` in a row slot (R285, R286). -/
def rowPlace (slot b p : Nat) : Nat := 16384 * slot + 1024 * (p / 32) + 64 * b + 2 * (p % 32)

/-- The key of an accumulator's element. -/
def nbKey (b k p : Nat) : Nat := 512 * (4 * b + k) + p

/-- The bank and position of every element of a row slot. -/
def bankElts : List (Nat × Nat) := (List.range 16).flatMap fun b => (List.range 512).map fun p => (b, p)

/-- A bf16 result, formed exactly and rounded once (R288). -/
def nbRnd (v : FVal) : BitVec 16 := BitVec.ofNat 16 (bf16.rnd rne false v)

/-- The value of a bf16 encoding. -/
def bfVal (v : BitVec 16) : FVal := bf16.val v.toNat

/-- The accumulators after a micro-operation that reads `row` where it reads one (R288). -/
def NbSeq.accAfter (q : NbSeq) (u : W32) (row : Nat → Nat → BitVec 16) : Store 16 :=
  let k := uK u
  let x := if uJ u % 2 = 1 then q.x1 else q.x0
  let new := fun (b p : Nat) =>
    let a := Store.get q.acc (nbKey b k p)
    match uOp u with
    | 1 => row b p
    | 3 => nbRnd (FVal.add false (bfVal a) (FVal.mul (bfVal x) (bfVal (row b p))))
    | 4 => nbRnd (FVal.mul (bfVal x) (bfVal (row b p)))
    | 5 => nbRnd (FVal.add false (bfVal a) (bfVal (Store.get q.acc (nbKey b (uJ u) p))))
    | 6 => 0
    | _ => a
  bankElts.foldl (fun m e => Store.put m (nbKey e.1 k e.2) (new e.1 e.2)) q.acc

/-- The counter after a micro-operation. -/
def NbSeq.nextOp (q : NbSeq) : NbSeq :=
  if q.idx + 1 < q.uops.length then { q with idx := q.idx + 1 } else { q with idx := 0, t := q.t + 1 }

/-- A sequence changes. -/
def State.onNb (s : State) (q : NbSeq) : State :=
  { s with eng := { s.eng with nb := s.eng.nb.map fun x => if x.sid = q.sid then q else x } }

/-- A refresh of the pseudo-channel that is due is performed (R291). -/
def State.refreshDue (s : State) (q : NbSeq) : State :=
  if s.eng.refresh.any fun p => decide (p = q.pc) then
    ({ s with eng := { s.eng with refresh := s.eng.refresh.filter fun p => decide (p ≠ q.pc) } } : State).mevent (q.pc / 2) none 0x05
  else s

/-- NB_SEQUENCE_FINISH (R293): the sequence leaves, its ticket's status is written, and a refresh that is due is performed. -/
def State.finishNb (s : State) (q : NbSeq) (code : Nat) : State :=
  let s0 := (s.refreshDue q).forgetName q.sid
  let s1 : State := { s0 with eng := { s0.eng with nb := s0.eng.nb.filter fun x => decide (x.sid ≠ q.sid) } }
  s1.onGroup q.gid fun g =>
    let upd := fun (t : Ticket) => if t.sid = q.sid then { t with done := true, code := code, steps := q.t } else t
    { g with tickets := g.tickets.map upd }

/-- STORE writes a row slot into DRAM, its old lines logged first (R288, R424); the checkpoint store takes none (R421). -/
def State.storeRow (s : State) (q : NbSeq) (slot k : Nat) : State :=
  let base := q.page + 16384 * slot
  if inStore base then s.forgetName q.sid else
  let s1 := (List.range 128).foldl (fun s j => s.logWrite q.ctx (base + 128 * j) 128) s
  let mem := bankElts.foldl (fun m e => Store.putLE m (q.page + rowPlace slot e.1 e.2) 2 (Store.get q.acc (nbKey e.1 k e.2)).toNat) s1.m.mem
  { s1 with m := { s1.m with mem := mem }.unpoison base 16384 }.forgetName q.sid

/-- The lines of a row slot that a STORE may not write yet: the log has no room (R424). On a memory-side page the base die is their home, whose leases and order it waits for
(R164, R278); on another it writes DRAM past the home, at once (R196, R280, R399). -/
def State.rowHeld (s : State) (q : NbSeq) (slot : Nat) : List Nat :=
  ((List.range 128).map fun j => q.page + 16384 * slot + 128 * j).filter fun pa =>
    !s.logRoom q.ctx pa || (q.ms && !(s.homeReady q.ctx pa && s.lineTurn (lineOf pa) q.sid))

/-- The row that a STORE may not write yet waits at a memory-side home, for all its lines. -/
def State.awaitRow (s : State) (q : NbSeq) (slot : Nat) : State :=
  if q.ms then s.awaitAll q.sid ((List.range 128).map fun j => q.page + 16384 * slot + 128 * j) else s

/-- A request takes its place in a list by arrival. -/
def byArrival (r : Req) : List Req → List Req
  | [] => [r]
  | q :: t => if r.arrived < q.arrived then r :: q :: t else q :: byArrival r t

/-- The ordinary requests pending at a pseudo-channel, in the order in which they reached it (R292). -/
def State.pendingAt (s : State) (pc : Nat) : List Req :=
  (s.m.reqs.filter fun r => decide (r.arrived ≠ 0) && !r.performed && decide (r.space = .vm) && decide (tierOf r.key = some .hbm) && decide (pcOf r.key = pc) &&
    (s.m.l2Line (lineOf r.key)).isNone).foldr byArrival []

/-- A pending request is served (R292). -/
def State.serveReq (s : State) (r : Req) : State :=
  match r.kind with
  | .load => s.loadResponse r.rid .home
  | .atomic => s.atomicPerform r.rid
  | .store => s.writePerform r.rid

/-- The row boundary (R291): a due refresh is performed; after W row operations the requests pending then are served, up to 64, and the count restarts. -/
def State.boundary (s : State) (q : NbSeq) : State :=
  let s1 := s.refreshDue q
  let rs := s1.pendingAt q.pc
  if q.yields ≤ q.ops ∧ rs ≠ [] then
    (((rs.take 64).foldl State.serveReq (s1.onNb { q with serving := true })).onNb { q with ops := 0 }).mevent (q.pc / 2) (some q.ctx) 0x04
  else s1.onNb q

/-- Micro-operations run up to the end of the next row operation (R290). -/
def State.runNb : Nat → NbSeq → State → State
  | 0, q, s => s.onNb q
  | n + 1, q, s =>
    match q.uops[q.idx]? with
    | none => s.finishNb q 0
    | some u =>
      let slot := uRow u + q.t * q.winc
      let base := q.page + 16384 * slot
      if uOp u = 2 ∧ s.rowHeld q slot ≠ [] then (s.awaitRow q slot).onNb q
      else if (decide (uOp u = 1) || decide (uOp u = 3) || decide (uOp u = 4)) && s.m.bankPoisoned base 16384 then
        match s.consumeBy q.ctx 0 with
        | (s1, .rolled) => s1.onNb q
        | (s1, _) => s1.finishNb q 0x08
      else
        let row := fun (b p : Nat) => BitVec.ofNat 16 (Store.getLE s.m.mem (q.page + rowPlace slot b p) 2)
        let s1 := if uOp u = 2 then s.storeRow q slot (uK u) else s
        let q1 := (if uOp u = 2 then q else { q with acc := q.accAfter u row }).nextOp
        let q2 := if uRows u then { q1 with ops := q1.ops + 1 } else q1
        if uRows u then
          let s2 := (s1.mevent (q.pc / 2) (some q.ctx) 0x03).onNb q2
          if q2.steps ≤ q2.t then s2.finishNb q2 0 else s2.boundary q2
        else if q2.steps ≤ q2.t then s1.finishNb q2 0
        else State.runNb n q2 s1

/-- The sequence that runs at a pseudo-channel: the first in arrival order (R290). -/
def State.running (s : State) (pc : Nat) : Option NbSeq := s.eng.nb.find? fun q => decide (q.pc = pc)

/-- NB_ROW_OPERATION (R290, R291): the running sequence of a pseudo-channel completes its next row operation; that of a killed context
stops with code 0x09 (R294). -/
def execNbRowOperation (pc : Nat) (s : State) : Result :=
  occur s fun s =>
    match s.running pc with
    | none => s
    | some q =>
      if !s.liveTag q.ctx q.inc then s.finishNb q 0x09
      else if s.stackHeld q.page then s
      else State.runNb (1 + 4 * q.steps) q s

/-- REFRESH_DUE (R291): a refresh of a pseudo-channel is due; a running sequence performs it at its next row boundary. -/
def execRefreshDue (pc : Nat) (s : State) : Result :=
  occur s fun s =>
    match s.running pc with
    | none => s.mevent (pc / 2) none 0x05
    | some _ => if s.eng.refresh.any fun p => decide (p = pc) then s else { s with eng := { s.eng with refresh := s.eng.refresh ++ [pc] } }

/-- The status word of a ticket (R293). -/
def Ticket.word (t : Ticket) (steps : Nat) : W32 :=
  BitVec.ofNat 32 ((if t.done then 0x80000000 else 0) + (if t.code ≠ 0 then 0x40000000 + t.code % 64 * 0x1000000 else 0) + steps % 512)

/-- The word that NBWAIT and NBQ write for a ticket (R293). -/
def State.ticketWord (s : State) (n : Nat) : W32 :=
  match s.g.tickets.find? fun t => decide (t.n = n) with
  | none => 0x80000000#32
  | some t => t.word (match s.eng.nb.find? fun q => decide (q.sid = t.sid) with | some q => q.t | none => t.steps)

/-- Sequence n or an earlier one of the group has not finished (R293). -/
def State.ticketBusy (s : State) (n : Nat) : Bool :=
  match s.g.tickets.find? fun t => decide (t.n = n) with
  | none => false
  | some t => (s.groupSeqs s.g.gid).any fun q => decide (q.sid ≤ t.sid)

/-- NBWAIT and NBQ write their word (R293). -/
def State.ticketRun (s : State) (i : Instr) (d a : Reg) : State :=
  match s.issuer with
  | none => s.done
  | some l =>
    let w := s.rd a l
    if bits w.toNat 31 4 ≠ 0 then s.raise i 0x02 (w.setWidth 64) else (s.wr d fun _ => s.ticketWord w.toNat).done

/-- NBWAIT (R293). -/
def execNbwait (d a : Reg) (s : State) : Result :=
  issueWhen (.nbwait d a) s
    (fun s => match s.issuer with
      | none => true
      | some l => decide (bits (s.rd a l).toNat 31 4 ≠ 0) || !s.ticketBusy (s.rd a l).toNat)
    fun s => s.ticketRun (.nbwait d a) d a

/-- NBQ (R293). -/
def execNbq (d a : Reg) (s : State) : Result := issue (.nbq d a) s fun s => s.ticketRun (.nbq d a) d a

/-! ## Collective landing (R295, R296, R396) -/

/-- Bytes of an element of a landing format. -/
def landBytes (f : Nat) : Nat :=
  match f with
  | 0 | 5 => 4
  | 1 | 2 => 2
  | _ => 1

/-- The landing goes through the FP32 buffer (R296). -/
def landBuffered (f : Nat) : Bool := decide (1 ≤ f) && decide (f ≤ 4)

/-- The value of an element of a buffered format. -/
def landVal (f v : Nat) : FVal :=
  match f with
  | 1 => bf16.val v
  | 2 => f16.val v
  | 3 => e4m3Val v
  | 4 => e5m2.val v
  | _ => f32.val v

/-- An FP32 value rounded once to a buffered format (R296). -/
def landRound (f v : Nat) : Nat :=
  match f with
  | 1 => bf16.rnd rne false (f32.val v)
  | 2 => f16.rnd rne false (f32.val v)
  | 3 => toE4m3 true (f32.val v)
  | _ =>
    match f32.val v with
    | .inf n => e5m2.pack n (e5m2.infMag - 1)
    | x => e5m2.rnd { rm := 0, sat := true, flush := false } false x

/-- The landing of a region in a context. -/
def State.landing (s : State) (c : BitVec 12) (va : W64) : Option Landing :=
  s.eng.landings.find? fun x => decide (x.ctx = c) && decide (x.va = va)

/-- The open landing that a packet adds to: its region has not been written (R296, R396). -/
def State.openLanding (s : State) (c : BitVec 12) (va : W64) : Option Landing := (s.landing c va).filter fun x => !x.written

/-- Changes a landing. -/
def State.onLanding (s : State) (k : Nat) (f : Landing → Landing) : State :=
  { s with eng := { s.eng with landings := s.eng.landings.map fun x => if x.k = k then f x else x } }

/-- Who writes for a landing. -/
def Landing.writer (x : Landing) : Writer := { gid := 0, log := x.k, core := 0, slot := 0, lane := 32, ostamp := 0, always := true }

/-- The elements of one unit are added straight into DRAM, or into the buffer (R296). -/
def State.addUnit (s : State) (x : Landing) (unit : Nat) (data : List Byte) : State :=
  let n := landBytes x.fmt
  let elt := fun (k : Nat) => leOf (fun j => data.getD j 0) (n * k) n
  if landBuffered x.fmt then
    s.onLanding x.k fun y =>
      let add := fun (m : Store 32) (k : Nat) =>
        let i := unit * (64 / n) + k
        Store.put m i (BitVec.ofNat 32 (f32.rnd rne false (FVal.add false (f32.val (Store.get m i).toNat) (landVal x.fmt (elt k)))))
      { y with buffer := (List.range (64 / n)).foldl add y.buffer }
  else
    let pa := x.pas.getD unit 0
    let s1 := s.msRecall pa
    let sum := fun (k : Nat) =>
      let d := Store.getLE s1.m.mem (pa + n * k) n
      if x.fmt = 5 then (d + elt k) % 2 ^ 32 else f32.rnd rne false (FVal.add false (f32.val d) (f32.val (elt k)))
    if s1.m.bankPoisoned pa 64 then (s1.consumeBy x.ctx 0).1
    else s1.sideUnit x.ctx x.writer pa ((List.range (64 / n)).foldl (fun v k => v + sum k * 2 ^ (8 * n * k)) 0)

/-- The fields of a landing header (R396). -/
def hdrRegion (h : BitVec 128) : W64 := h.setWidth 64
def hdrFirst (h : BitVec 128) : Nat := bits h.toNat 79 64
def hdrCount (h : BitVec 128) : Nat := bits h.toNat 111 96
def hdrFmt (h : BitVec 128) : Nat := bits h.toNat 115 112
/-- A reserved bit of the header is set. -/
def hdrBad (h : BitVec 128) : Bool := decide (bits h.toNat 95 80 ≠ 0) || decide (bits h.toNat 127 116 ≠ 0)

/-- The homes of a packet's units can take the additions that `who` makes now. -/
def State.landReady (s : State) (who : Nat) (x : Landing) (first n : Nat) : Bool :=
  (List.range n).all fun k =>
    let pa := x.pas.getD (first + k) 0
    !s.stackHeld pa && (landBuffered x.fmt || s.homeFree who x.ctx pa)

/-- A packet's elements are added, unit by unit, and its units counted (R296, R396). -/
def State.applyPacket (s : State) (x : Landing) (h : BitVec 128) (data : List Byte) : State :=
  let s1 := (List.range (hdrCount h)).foldl (fun s k =>
    match s.eng.landings.find? fun y => decide (y.k = x.k) with
    | some y => s.addUnit y (hdrFirst h + k) ((data.drop (64 * k)).take 64)
    | none => s) s
  s1.onLanding x.k fun y => { y with landed := y.landed + hdrCount h }

/-- What becomes of packet `k` now: it is applied, rejected, or held (R396). -/
def State.takePacket (s : State) (k : Nat) (c : BitVec 12) (h : BitVec 128) (data : List Byte) : Option State :=
  if hdrBad h ∨ hdrCount h = 0 ∨ 64 < hdrCount h ∨ data.length ≠ 64 * hdrCount h then some s
  else
    match s.openLanding c (hdrRegion h) with
    | none => none
    | some x =>
      if hdrFmt h ≠ x.fmt ∨ x.pas.length < hdrFirst h + hdrCount h then some s
      else if s.landReady k x (hdrFirst h) (hdrCount h) then some (s.applyPacket x h data) else none

/-- A sleeping stack holds a packet that has reached it (R298). -/
def State.packetHeld (s : State) (p : HeldPacket) : Bool := match p.stack with | some k => s.eng.selfRefresh.any fun j => decide (j = k) | none => false

/-- A held packet is taken where that is possible now; a stale one is dropped (R395), once no sleeping stack holds it. -/
def State.retryPacket (s : State) (p : HeldPacket) : State :=
  let gone := ({ s with eng := { s.eng with held := s.eng.held.filter fun q => decide (q.k ≠ p.k) } } : State).forgetName p.k
  if !s.liveTag p.ctx p.inc then (if s.packetHeld p then s else { gone with dev := { gone.dev with dropc := gone.dev.dropc + 1 } })
  else
    match gone.takePacket p.k p.ctx p.hdr p.data with
    | some s1 => s1
    | none =>
      match s.openLanding p.ctx (hdrRegion p.hdr) with
      | some x =>
        let reached := fun (q : HeldPacket) => if q.k = p.k then { q with stack := some x.stack } else q
        let s1 : State := { s with eng := { s.eng with held := s.eng.held.map reached } }
        if landBuffered x.fmt then s1 else s1.awaitAll p.k ((x.pas.drop (hdrFirst p.hdr)).take (hdrCount p.hdr))
      | none => s

/-- Every held packet is tried again, in arrival order. -/
def State.retryPackets (s : State) : State := s.eng.held.foldl State.retryPacket s

/-- LANDING_PACKET (R396): a packet arrives at an endpoint; that of a stale binding is dropped (R395). -/
def execLandingPacket (ep : Nat) (hdr : BitVec 128) (data : List (BitVec 8)) (s : State) : Result :=
  occur s fun s =>
    match s.fab.endpoints.find? fun e => decide (e.1 = ep) with
    | none => s
    | some (_, c, j) =>
      if !s.liveTag c j then { s with dev := { s.dev with dropc := s.dev.dropc + 1 } }
      else
        let p : HeldPacket := { k := s.seq + 1, ctx := c, inc := j, hdr := hdr, data := data, stack := none, since := s.dev.time }
        ({ s with seq := s.seq + 1, eng := { s.eng with held := s.eng.held ++ [p] } } : State).retryPacket p

/-- LANDING_PACKET_HOLD_EXPIRY (R396): a held packet is taken if it can be; one that names no open landing is rejected after 1 ms. -/
def execLandingPacketHoldExpiry (k : Nat) (s : State) : Result :=
  occur s fun s =>
    match s.eng.held.find? fun p => decide (p.k = k) with
    | none => s
    | some p =>
      let s1 := s.retryPacket p
      if (s1.openLanding p.ctx (hdrRegion p.hdr)).isNone ∧ p.since.toNat + 1000000 ≤ s.dev.time.toNat then
        { s1 with eng := { s1.eng with held := s1.eng.held.filter fun q => decide (q.k ≠ k) } }
      else s1

/-- The region of a closed landing is written: each element of a buffered format rounded once (R296). -/
def State.writeLanding (s : State) (x : Landing) : State :=
  let n := landBytes x.fmt
  let per := 64 / n
  let s1 := if landBuffered x.fmt then
      (List.range x.pas.length).foldl (fun s u => s.sideUnit x.ctx x.writer (x.pas.getD u 0)
        ((List.range per).foldl (fun v k => v + landRound x.fmt (Store.get x.buffer (u * per + k)).toNat * 2 ^ (8 * n * k)) 0)) s
    else s
  (s1.forgetName x.k).onLanding x.k fun y => { y with written := true }

/-- The landed units have reached the expected count, and the region can be written. -/
def State.landDone (s : State) (x : Landing) : Bool :=
  decide (x.expected ≤ x.landed) && (!landBuffered x.fmt || x.pas.all fun pa => s.homeFree x.k x.ctx pa)

/-- LANDING_CLOSE_COMPLETE (R296): the last expected unit has landed: the region of a landing whose close waits is written. -/
def execLandingCloseComplete (k : Nat) (s : State) : Result :=
  occur s fun s =>
    match s.eng.landings.find? fun x => decide (x.k = k) with
    | some x =>
      if x.closing.isNone || x.written then s
      else if s.landDone x then s.writeLanding x
      else if x.expected ≤ x.landed ∧ landBuffered x.fmt then s.awaitAll x.k x.pas
      else s
    | none => s

/-- The operands of LAND. -/
structure LandOps where
  va : W64
  ctl : W32
  expected : W32
  deriving DecidableEq, Repr

/-- LAND's operands in a lane. -/
def State.landOps (s : State) (a b : Reg) (l : Nat) : LandOps :=
  { va := s.rd64 a l, ctl := (s.rd64 b l).setWidth 32, expected := (s.rd64 b l >>> 32).setWidth 32 }

def LandOps.op (o : LandOps) : Nat := bits o.ctl.toNat 31 30
def LandOps.fmt (o : LandOps) : Nat := bits o.ctl.toNat 27 24
def LandOps.length (o : LandOps) : Nat := bits o.ctl.toNat 15 0

/-- What the checks of LAND find: the physical places of its region's units, each with whether its page is memory-side on HBM4E; a trap; a wait for the home of a leaf; `over`
where a walk has read poison and ended the context's work (R433). -/
inductive LandCheck where
  | units (ps : List (Nat × Bool))
  | trap (cause : Nat) (val wdet : W64)
  | wait
  | over
  deriving DecidableEq, Repr

/-- The units of a region are translated, in ascending order (R295, order 3). DESIGN CHOICE (log 101): TVAL of a later unit's failure is the region's address. -/
def State.regionUnits (s : State) (va : W64) : Nat → State × LandCheck
  | 0 => (s, .units [])
  | n + 1 =>
    match State.regionUnits s va n with
    | (s1, .units ps) =>
      match s1.xlate s.g.asker .write (va + BitVec.ofNat 64 (64 * n)) with
      | (s2, .fault c wd) => (s2, .trap c va wd)
      | (s2, .wait) => (s2, .wait)
      | (s2, .over) => (s2, .over)
      | (s2, .ok pa p) => (s2, .units (ps ++ [(pa, decide (pteTier p = .hbm) && pteMs p)]))
    | r => r

/-- The units lie on memory-side HBM4E pages within one 2 MiB range (R295, order 4). -/
def regionOk (ps : List (Nat × Bool)) : Bool := ps.all fun p => p.2 && decide (p.1 / 0x200000 = (ps.headD p).1 / 0x200000)

/-- The checks of LAND in their order (R295). -/
def State.landCheck (s : State) (o : LandOps) : State × LandCheck :=
  if o.op = 3 ∨ bits o.ctl.toNat 29 28 ≠ 0 ∨ 5 < o.fmt ∨ bits o.ctl.toNat 23 16 ≠ 0 ∨ o.length = 0 ∨ 32768 < o.length then
    (s, .trap 0x02 (o.ctl.setWidth 64) 0)
  else if o.va.toNat % 64 ≠ 0 then (s, .trap 0x05 o.va 0)
  else
    match s.regionUnits o.va o.length with
    | (s1, .units ps) => (s1, if regionOk ps then .units ps else .trap 0x0F o.va 0)
    | r => r

/-- The bytes of landing buffer that a landing of a format and a number of units takes. -/
def landRoom (fmt units : Nat) : Nat := if landBuffered fmt then units * (64 / landBytes fmt) * 4 else 0

/-- A landing and buffer space are free at the stack of a region (R295, R296). -/
def State.landFree (s : State) (o : LandOps) (pas : List Nat) : Bool :=
  let mine := s.eng.landings.filter fun x => decide (x.stack = stackAt (pas.headD 0))
  decide (mine.length < 16) && decide (mine.foldl (fun m y => m + landRoom y.fmt y.pas.length) 0 + landRoom o.fmt pas.length ≤ 0x100000)

/-- LAND open records the region, with the values of a buffered format (R296). -/
def State.landOpen (s : State) (o : LandOps) (pas : List Nat) : State :=
  let n := landBytes o.fmt
  let per := 64 / n
  let fill := fun (m : Store 32) (i : Nat) =>
    Store.put m i (BitVec.ofNat 32 (f32.rnd rne false (landVal o.fmt (Store.getLE s.m.mem (pas.getD (i / per) 0 + n * (i % per)) n))))
  let x : Landing :=
    { k := s.seq, stack := stackAt (pas.headD 0), ctx := s.g.ctx, inc := s.g.inc, va := o.va, pas := pas, fmt := o.fmt, expected := o.expected.toNat,
      landed := 0, buffer := if landBuffered o.fmt then (List.range (pas.length * per)).foldl fill [] else [], closing := none, written := false }
  ({ s with eng := { s.eng with landings := s.eng.landings ++ [x] } } : State).retryPackets

/-- The status word of a landing (R293, R296). -/
def landWord (done : Bool) (landed : Nat) : W32 := BitVec.ofNat 32 ((if done then 0x80000000 else 0) + min landed 0xFFFFFF)

/-- An open that fills a buffer reads the region: the owner of a line of it can be recalled now (R279, R296). -/
def State.openReady (s : State) (o : LandOps) (pas : List Nat) : Bool :=
  !s.landFree o pas || !landBuffered o.fmt || pas.all fun pa => !s.ownerHeld (lineOf pa) && !s.stackHeld pa

/-- LAND must hold its split: a close, where the landing is open and its units have not all landed, or its region cannot be written yet; an open, where its
region cannot be read. -/
def State.landGo (s : State) (a b : Reg) : Bool :=
  match s.issuer with
  | none => true
  | some l =>
    let o := s.landOps a b l
    match s.landCheck o with
    | (_, .units ps) =>
      (decide (o.op ≠ 0) || s.openReady o (ps.map (·.1))) && (decide (o.op ≠ 1) || (match s.landing s.g.ctx o.va with | some x => x.written || s.landDone x | none => true))
    | (_, .wait) => false
    | _ => true

/-- The check of a LAND that must wait, with what it marks at the homes of leaves, and of the lines that an open reads (R164). -/
def State.landProbe (s : State) (a b : Reg) : State :=
  match s.issuer with
  | none => s
  | some l =>
    match s.landCheck (s.landOps a b l) with
    | (s1, .units ps) =>
      if (s.landOps a b l).op ≠ 0 then s1 else s1.awaitAll (walkName s.g.gid) ((ps.map (·.1)).filter fun pa => s.ownerHeld (lineOf pa))
    | (s1, _) => s1

/-- A close that waits says so to the base die (R296). -/
def State.landAsk (s : State) (a b : Reg) : State :=
  match s.issuer with
  | none => s
  | some l =>
    let o := s.landOps a b l
    if o.op ≠ 1 then s
    else
      match s.landing s.g.ctx o.va with
      | some x => s.onLanding x.k fun y => { y with closing := some s.g.gid }
      | none => s

/-- A read of poisoned bytes by the issuing instruction: the context rolls back, or at a repeat the instruction traps (R433). -/
def State.poisonStop (s : State) (i : Instr) (va : W64) : State :=
  match s.eatPoison s.g.ctx with
  | (s1, true) => s1
  | (s1, false) => s1.raise i 0x10 va

/-- LAND open (R296): d gets 0x8000_0000, or 0x0100_0000 when no landing or no buffer is free. A buffer that would be filled from poisoned data consumes it (R433). -/
def State.landBegin (s : State) (i : Instr) (d : Reg) (o : LandOps) (pas : List Nat) : State :=
  let s1 := if landBuffered o.fmt then pas.foldl (fun s pa => (s.msRecall pa).forgetAt (walkName s.g.gid) pa) s else s
  if !s.landFree o pas then (s.wr d fun _ => 0x01000000#32).done
  else if landBuffered o.fmt && pas.any fun pa => s1.m.bankPoisoned pa 64 then s1.poisonStop i o.va
  else ((s1.landOpen o pas).wr d fun _ => 0x80000000#32).done

/-- LAND (R295, R296). A close or query of a region without an open landing completes with a free value in d (log 18). -/
def State.landRun (s : State) (i : Instr) (d a b : Reg) : State :=
  match s.issuer with
  | none => s.done
  | some l =>
    let o := s.landOps a b l
    match s.landCheck o with
    | (s1, .trap c v w) => s1.raiseWalk i c v w
    | (s1, .wait) => s1
    | (s1, .over) => s1
    | (s1, .units ps) =>
      if o.op = 0 then s1.landBegin i d o (ps.map (·.1))
      else
        match s1.landing s1.g.ctx o.va with
        | none => (s1.wr d fun _ => (Config.unpredictable s1.fresh 0).setWidth 32).done
        | some x =>
          if o.op = 2 then (s1.wr d fun _ => landWord (decide (x.expected ≤ x.landed)) x.landed).done
          else
            let s2 := if x.written then s1 else s1.writeLanding x
            let s3 : State := { s2 with eng := { s2.eng with landings := s2.eng.landings.filter fun y => decide (y.k ≠ x.k) } }
            ((s3.onG fun g => g.raiseF s.dev.time).wr d fun _ => landWord true x.landed).done

/-- LAND (R295). -/
def execLand (d a b : Reg) (s : State) : Result :=
  issueOr (.land d a b) s (fun s => s.landGo a b) (fun s => (s.landAsk a b).holdMarked (s.landProbe a b)) fun s => s.landRun (.land d a b) d a b

/-! ## Self-refresh (R298) -/

/-- THERMAL_SELF_REFRESH (R298): a stack holds what it has accepted. -/
def execThermalSelfRefresh (stack : Nat) (s : State) : Result :=
  occur s fun s => if s.eng.selfRefresh.any fun k => decide (k = stack) then s
    else { s with eng := { s.eng with selfRefresh := s.eng.selfRefresh ++ [stack] } }

/-- THERMAL_SELF_REFRESH_EXIT (R298): held requests go on. -/
def execThermalSelfRefreshExit (stack : Nat) (s : State) : Result :=
  occur s fun s => ({ s with eng := { s.eng with selfRefresh := s.eng.selfRefresh.filter fun k => decide (k ≠ stack) } } : State).retryPackets

end Sys2Proof.Machine
end

