-- ==== Sys2Proof/Machine/Launch.lean ====
section
/-!
DEFINITION. Sys2Proof/Machine/Launch.lean: launches (R306–R313), majors 0x74 and 0x75: LAUNCH, LWAIT, LQUERY, ITER and FIXUP (R316, R317), and
the events of the launch table.
-/

namespace Sys2Proof.Machine

open Sys2Proof

/-! ## The packet at LAUNCH (R306, R311) -/

/-- A reserved field of a packet is nonzero (R306). -/
def pktReserved (p : Store 8) : Bool :=
  decide (bits (pktWord p 8) 31 24 ≠ 0) || decide (bits (pktWord p 12) 28 27 ≠ 0) || decide (bits (pktWord p 12) 10 0 ≠ 0) ||
    decide (bits (pktWord p 16) 31 15 ≠ 0) || decide (bits (Store.get p 21).toNat 7 6 ≠ 0) || decide (bits (Store.get p 23).toNat 7 6 ≠ 0) ||
    decide (bits (pktWord p 72) 31 15 ≠ 0) || decide (pktWord p 76 ≠ 0) || decide (Store.slice p 88 40 ≠ [])

/-- Check 3 of R311 fails. -/
def pktBad (p : Store 8) : Bool :=
  pktReserved p || decide (bits (pktWord p 12) 14 12 = 7) || decide (pktTeams p = 0) || decide (pktTeams p % pktGang p ≠ 0) ||
    decide (pktSize p ≤ pktProducer p) || decide (16384 < bits (pktWord p 16) 14 0) || decide (124 < pktXregs p) || decide (48 < pktXtiles p) ||
    decide (2048 < pktSlice p) || decide (32 < pktLast p) || decide (16384 < pktPerTile p) ||
    (decide (pktIters p = 0) != decide (pktPerTile p = 0)) || (decide (pktIters p ≠ 0) && decide (pktFixup p = 0#64)) ||
    (pktControl p && (decide (1 < pktLast p) || decide (1 < pktSize p) || decide (1 < pktGang p) || decide (pktScratch p ≠ 0) ||
      decide (pktXregs p ≠ 0) || decide (pktXtiles p ≠ 0) || decide (pktIters p ≠ 0)))

/-- Check 4 of R311: the first field that is misaligned. -/
def pktMisaligned (p : Store 8) : Option W64 :=
  (([(pktEntry p, 4), (pktSliceBase p, 128), (pktDone p, 8), (pktFixup p, 4)] : List (W64 × Nat)).find? fun f => decide (f.1.toNat % f.2 ≠ 0)).map (·.1)

/-- A team that no core can ever hold (R311, R125, R140, R141). -/
def pktTooBig (p : Store 8) : Bool :=
  !pktControl p && (decide (4096 < pktSize p * pktRegs p + 32 * pktXregs p) || decide (64 < pktSize p + pktXtiles p))

/-- The dependences of a packet (R306). -/
def pktDeps (p : Store 8) : List W32 := ((List.range 4).map fun k => BitVec.ofNat 32 (pktDep p k)).filter fun h => decide (h ≠ 0#32)

/-- The weight set with a handle. -/
def State.wset (s : State) (h : Nat) : Option WSet := if h = 0 ∨ 63 < h then none else s.fl.sets.find? fun w => decide (w.ws = h)

/-- A packet's weight set is none or a published one (R311). -/
def State.wsetOk (s : State) (p : Store 8) : Bool :=
  decide (pktWset p = 0) || match s.wset (pktWset p) with | some w => decide (w.cur ≠ 0) | none => false

/-! ## LAUNCH (R311) -/

/-- A place of a memory line that the part reads at its home for an instruction that holds its split; `over` where its walk has read poison and ended the context's work
(R433). -/
inductive HomeRead where
  | ok (pa : Nat) (ms : Bool)
  | trap (cause : Nat) (wdet : W64)
  | wait
  | over
  deriving DecidableEq, Repr

/-- An address read at its home: translated, its stack awake, its flash page not being relocated. -/
def State.homeProbe (s : State) (va : W64) : State × HomeRead :=
  match s.xlate s.g.asker .read va with
  | (s1, .fault c w) => (s1, .trap c w)
  | (s1, .wait) => (s1, .wait)
  | (s1, .over) => (s1, .over)
  | (s1, .ok pa p) =>
    let away := decide (tierOf pa = some .flash) && (s1.fl.relocating.any fun k => decide (k = pa / 4096)) && (s1.m.l2Line (lineOf pa)).isNone
    (s1, if away || s1.stackHeld pa then .wait else .ok pa (pteMs p))

/-- The trap of a packet's fields. -/
def pktTrap (p : Store 8) (addr : W64) : Option (Nat × W64) :=
  if pktBad p then some (0x02, addr) else (pktMisaligned p).map fun v => (0x05, v)

/-- LAUNCH traps on its address, or every earlier group-path access of the split is complete: the packet is read with the split's own stores in it (R185, R311).
DESIGN CHOICE (log 102): as R311's pseudocode has it, it waits for the group path alone; what the split's engine commands, matrix operations, IREDs and near-bank sequences have
still to do is not ordered before the launch, though R311's last sentence speaks of every access. -/
def State.launchGo (s : State) (a : Reg) : Bool :=
  match s.issuer with
  | none => true
  | some l =>
    let addr := s.rd64 a l
    decide (addr.toNat % 128 ≠ 0) ||
      match s.homeProbe addr with
      | (_, .wait) => false
      | (_, .ok ..) => !s.releaseWaits s.g s.here s.act 6 && (s.ownDirty s.g).all (s.lineReady s.g.gid)
      | _ => true

/-- The read of the packet that a LAUNCH tries, with what it marks at the home of a leaf (R164). -/
def State.launchProbe (s : State) (a : Reg) : State := match s.issuer with | none => s | some l => (s.homeProbe (s.rd64 a l)).1

/-- LAUNCH holds its split; meanwhile its lines are written back. -/
def State.launchHold (s : State) (a : Reg) : State := s.pushDirty.holdMarked (s.pushDirty.launchProbe a)

/-- What the split made before LAUNCH crosses every path to the launch (R311, R197, R280). -/
def State.crossAll (s : State) : State := (s.crossWords fun d => decide (d.gid = s.g.gid)).forgetName s.g.gid

/-- The lowest-numbered slot in the Free state (R309). -/
def State.freeSlot (s : State) : Option Nat := (List.range 256).find? s.slotFree

/-- A slot's sequence number advances by 1, from 65,535 to 1 (R309). -/
def nextSeq (q : BitVec 16) : BitVec 16 := if q = 0xFFFF#16 then 1#16 else q + 1#16

/-- The slot is allocated: the launch waits (R309, R311). -/
def State.allocate (s : State) (k : Nat) (p : Store 8) : State × W32 :=
  let q := nextSeq (match s.slot k with | some l => l.sequ | none => 0#16)
  let l : Launch := { slot := k, sequ := q, st := .waiting, fault := false, free := false, packet := p, ctx := s.g.ctx, inc := s.g.inc, order := s.seq,
                      placed := 0, ended := 0, wgen := 0, endedIn := 0, victims := [], vcores := [] }
  ({ s with launches := (s.launches.filter fun x => decide (x.slot ≠ k)) ++ [l] }, BitVec.ofNat 32 (0x80000000 + q.toNat * 256 + k))

/-- The fate of a packet that passed the checks: the result word (R311). -/
def State.launchPacket (s : State) (p : Store 8) : State × W32 :=
  if pktTooBig p then (s, 0x02000000#32)
  else if (pktDeps p).any fun h => decide (s.handle h = .unknown) then (s, 0x03000000#32)
  else if !s.wsetOk p then (s, 0x04000000#32)
  else
    match s.freeSlot with
    | none => (s, 0x01000000#32)
    | some k => s.allocate k p

/-- LAUNCH in its issuing lane. -/
def State.launchRun (s : State) (d a : Reg) (l : BitVec 4) (addr : W64) : State :=
  let i := Instr.launch d a l
  if addr.toNat % 128 ≠ 0 then s.raise i 0x05 addr
  else
    match s.homeProbe addr with
    | (s1, .trap c w) => s1.raiseWalk i c addr w
    | (s1, .wait) => s1
    | (s1, .over) => s1
    | (s1, .ok pa ms) =>
      if s1.m.poisoned pa 128 then s1.poisonStop i addr
      else
        let p := s1.m.homeLine (lineOf pa)
        match pktTrap p addr with
        | some (c, v) => s1.raise i c v
        | none =>
          let s2 := ({ s1 with m := if inL2 ms pa then s1.m.readL2 (lineOf pa) 0 else s1.m } : State).crossAll
          let (s3, r) := s2.launchPacket p
          ((s3.openWin l.toNat (decide (d ≠ 63#6))).wrLong d s3.grd fun _ => r).done

/-- LAUNCH (R311): one operation in the issuing lane, none without one. -/
def execLaunch (d a : Reg) (l : BitVec 4) (s : State) : Result :=
  issueOr (.launch d a l) s (fun s => s.launchGo a) (fun s => s.launchHold a) fun s =>
    match s.issuer with
    | none => s.done
    | some n => s.launchRun d a l (s.rd64 a n)

/-! ## LWAIT and LQUERY (R312) -/

/-- An LWAIT in the log tests its launch, and waits where that has not Ended (R312, R404). -/
def State.launchLwait (s : State) (seq : Nat) : State :=
  (s.onG fun g => { g with log := g.log.map fun x => if x.seq = seq then { x with flight := x.pend } else x }).settleLwaits

/-- LWAIT (R312): the status word once the launch has Ended. -/
def execLwait (d a : Reg) (l : BitVec 4) (s : State) : Result :=
  issue (.lwait d a l) s fun s =>
    match s.issuer with
    | none => s.done
    | some n =>
      let e : LogEntry :=
        { id := s.g.freeEntry.getD 0, seq := s.seq, i := .lwait d a l, mode := s.md, entry := s.entry, lanes := s.act, pend := s.grd, flight := 0,
          addr := [], val := Store.put [] 0 ((s.rd a n).setWidth 64), val2 := [], dst := s.g.dst d false, aux := 0 }
      (((s.openWin l.toNat true).onG fun g => ({ g with log := g.log ++ [e] }).owe e.seq e.dst e.pend).done).launchLwait e.seq

/-- LQUERY (R312): the status word at once. -/
def execLquery (d a : Reg) (l : BitVec 4) (s : State) : Result :=
  issue (.lquery d a l) s fun s =>
    match s.issuer with
    | none => s.done
    | some n =>
      let r := s.launchStatus (s.rd a n)
      ((s.openWin l.toNat (decide (d ≠ 63#6))).wrLong d s.grd fun _ => r).done

/-! ## Persistent mode (R316, R317) -/

/-- The tiles of a persistent launch. -/
def pktTiles (p : Store 8) : Nat := (pktIters p + pktPerTile p - 1) / pktPerTile p

/-- The first iteration of team `t`. -/
def rangeStart (p : Store 8) (t : Nat) : Nat := t * pktIters p / pktTeams p

/-- The next segment from a cursor for the team with index `t`: the two result words and the new cursor (R316). -/
def segment (p : Store 8) (t cursor : Nat) : W32 × W32 × Nat :=
  let stop := rangeStart p (t + 1)
  if stop ≤ cursor then (0, 0, cursor)
  else
    let tile := cursor / pktPerTile p
    let tend := min ((tile + 1) * pktPerTile p) (pktIters p)
    let stop' := min tend stop
    let word := 0x80000000 + (if cursor = tile * pktPerTile p then 0x40000000 else 0) + (if stop' = tend then 0x20000000 else 0) +
      (stop' - cursor - 1) * 0x4000 + (cursor - tile * pktPerTile p)
    (BitVec.ofNat 32 tile, BitVec.ofNat 32 word, stop')

/-- ITER (R316): the team's next segment; nothing without an issuing lane. -/
def execIter (d : Reg) (s : State) : Result :=
  issue (.iter d) s fun s =>
    let p := s.packetOf s.g
    if pktIters p = 0 then s.raise (.iter d) 0x01 (wordVal (.iter d))
    else
      match s.issuer, s.teamOf s.g with
      | some _, some t =>
        let (w0, w1, c) := segment p t.tidx t.cursor
        ((s.onTeam t.tid fun x => { x with cursor := c }).wr64 d fun _ => (w1 ++ w0 : BitVec 64)).done
      | _, _ => s.done

/-- The team that owns an iteration: the `t` with ⌊t × iters ÷ P⌋ ≤ x < ⌊(t + 1) × iters ÷ P⌋. -/
def ownerOf (p : Store 8) (x : Nat) : Nat := ((x + 1) * pktTeams p + pktIters p - 1) / pktIters p - 1

/-- The teams that meet a tile (R317). -/
def contributors (p : Store 8) (j : Nat) : Nat :=
  let lo := j * pktPerTile p
  ((List.range (min ((j + 1) * pktPerTile p) (pktIters p) - lo)).filter fun k =>
    decide (k = 0) || decide (ownerOf p (lo + k) ≠ ownerOf p (lo + k - 1))).length

/-- The address of a tile's fix-up counter. -/
def fixupAddr (p : Store 8) (j : W32) : W64 := pktFixup p + 4#64 * j.setWidth 64

/-- What an access of FIXUP meets. -/
def State.fixupTarget (s : State) (va : W64) : State × Target := s.globalTarget s.g (.amo 63 63 63 0 0) .atomic false va

/-- What a FIXUP that must wait tries: its write waits at the home of the counter, or of the leaf (R164). -/
def State.fixupProbe (s : State) (a : Reg) : State :=
  match s.issuer with
  | none => s
  | some l =>
    match s.fixupTarget (fixupAddr (s.packetOf s.g) (s.rd a l)) with
    | (s1, .ok _ pa _ _) => s1.await s.g.gid pa
    | (s1, _) => s1

/-- FIXUP traps, or it may perform: no FENCE holds it back, earlier accesses are complete, and the counter's home is ready (R194, R195). -/
def State.fixupGo (s : State) (a : Reg) : Bool :=
  let p := s.packetOf s.g
  match s.issuer with
  | none => true
  | some l =>
    let j := s.rd a l
    decide (pktIters p = 0) || decide (pktTiles p ≤ j.toNat) ||
      match s.fixupTarget (fixupAddr p j) with
      | (_, .bad ..) => true
      | (_, .over) => true
      | (s1, .ok _ pa _ _) => !s.heldByFence (.fixup 63 a) && !s.releaseWaits s.g s.here s.act 6 && s1.homeFree s.g.gid s.g.ctx pa
      | _ => false

/-- The counter of a tile is raised by 1 at its home, as a release and an acquire at device scope (R194, R317). -/
def State.fixupAdd (s : State) (l pa : Nat) (ms : Bool) : State × Nat :=
  let new := (s.m.homeRead pa 4 + 1) % 2 ^ 32
  let w : Writer := { gid := s.g.gid, log := s.seq, core := s.g.core, slot := s.g.slot, lane := l, ostamp := s.g.ostamp, always := true }
  let s1 := ((s.newPool 0 pa 4 s.g.gid s.seq s.act s.g.ctx s.g.inc).performWrite s.g.ctx w ms pa 4 new).forgetName s.g.gid
  let s2 := { s1 with m := s1.m.dropL1 s.g.core pa }
  (s2.onG fun g => g.stampF s.dev.time, new)

/-- FIXUP in its issuing lane. -/
def State.fixupRun (s : State) (d a : Reg) (l : Nat) (j : W32) : State :=
  let p := s.packetOf s.g
  let i := Instr.fixup d a
  if pktIters p = 0 then s.raise i 0x01 (wordVal i)
  else if pktTiles p ≤ j.toNat then s.raise i 0x09 (j.setWidth 64)
  else
    match s.fixupTarget (fixupAddr p j) with
    | (s1, .bad _ c v w) => s1.raiseWalk i c v w
    | (s1, .ok _ pa va ms) =>
      let s2 := s1.recall (lineOf pa)
      if s2.m.poisoned pa 4 then s2.poisonStop i va
      else
        let (s3, n) := s2.fixupAdd l pa ms
        let k := contributors p j.toNat
        (s3.wr d fun _ => BitVec.ofNat 32 ((if n = k then 0x80000000 else 0) + k % 0x8000 * 0x10000 + n % 0x10000)).done
    | (s1, _) => s1

/-- FIXUP (R317): one arrival at a tile; nothing without an issuing lane. -/
def execFixup (d a : Reg) (s : State) : Result :=
  issueOr (.fixup d a) s (fun s => s.fixupGo a) (fun s => s.holdMarked (s.fixupProbe a)) fun s =>
    match s.issuer with
    | none => s.done
    | some l => s.fixupRun d a l (s.rd a l)

/-! ## Events of the launch table (R310, R313) -/

/-- The part itself asks for the translation of a completion word, under no core's TLB and the name of the launch. -/
def Launch.asker (l : Launch) : Asker := { core := 1024, who := l.order, ctx := l.ctx, inc := l.inc, app := decide (l.ctx ≠ 0#12) }

/-- The completion word is written as a release at device scope (R313); none while its home must wait. A context that is not Live writes none,
nor does an address that does not translate. -/
def State.completionWord (s : State) (l : Launch) (fault : Bool) : State × Bool :=
  if pktDone l.packet = 0#64 ∨ !s.liveTag l.ctx l.inc then (s, true)
  else
    let handle := l.sequ.toNat * 256 + l.slot
    match s.xlate l.asker .write (pktDone l.packet) with
    | (s1, .ok pa p) =>
      if s1.homeFree l.order l.ctx pa then
        let w : Writer := { gid := 0, log := l.order, core := 0, slot := 0, lane := 0, ostamp := s.dev.time, always := true }
        let s2 := (s1.newPool 0 pa 8 0 0 0 l.ctx l.inc).performWrite l.ctx w (pteMs p) pa 8 (handle * 2 ^ 32 + (l.word .ended fault).toNat)
        (s2.forgetName l.order, true)
      else (s1.await l.order pa, false)
    | (s1, .wait) => (s1, false)
    | (s1, .over) => (s1, false)
    | (s1, .fault ..) => (s1, true)

/-- An access is one of a launch: of its slot, under its tag. -/
def Launch.owns (l : Launch) (ls : Nat) (c : BitVec 12) (j : BitVec 8) : Bool := decide (ls = l.slot) && decide (c = l.ctx) && decide (j = l.inc)

/-- Every access of a launch has performed but for the words its commands left in staging caches, and those can be written back (R198, R301). -/
def State.launchQuiet (s : State) (l : Launch) : Bool :=
  (s.m.reqs.all fun r => !l.owns r.ls r.ctx r.inc || r.performed) && (s.eng.ired.all fun c => !l.owns c.ls c.ctx c.inc) &&
    (s.eng.nb.all fun q => !l.owns q.ls q.ctx q.inc) && (s.dirtyLines fun d => l.owns d.ls d.ctx d.inc).all (s.lineReady l.order)

/-- A launch reaches Ended: every access of it is complete and crosses every path (R197, R198), then its completion word, then its state (R310, R313). -/
def State.finishLaunch (s : State) (l : Launch) (fault : Bool) : State :=
  if !s.launchQuiet l then s.pushLines l.order (s.dirtyLines fun d => l.owns d.ls d.ctx d.inc)
  else
    match (s.crossWords fun d => l.owns d.ls d.ctx d.inc).completionWord l fault with
    | (s1, true) => (s1.endLaunch l.slot fault false).forgetName l.order
    | (s1, false) => s1

/-- A dependence has ended with fault (R310). -/
def State.depFault (s : State) (h : W32) : Bool := match s.handle h with | .current l => decide (l.st = .ended) && l.fault | _ => false

/-- A dependence is met (R310). -/
def State.depMet (s : State) (h : W32) : Bool := match s.handle h with | .current l => decide (l.st = .ended) && !l.fault | _ => true

/-- A launch leaves Waiting: it binds and pins the current generation of its weight set (R308, R378). -/
def State.queueLaunch (s : State) (l : Launch) : State :=
  let gen := match s.wset (pktWset l.packet) with | some w => w.cur | none => 0
  let s1 := if gen = 0 then s else s.onRec (pktWset l.packet) gen fun _ r => { r with lpins := r.lpins + 1 }
  s1.onSlot l.slot fun x => { x with st := .queued, wgen := gen }

/-- LAUNCH_DEPENDENCES_MET (R310): a waiting launch of a Live pair is queued once every dependence has ended without fault, and ends with fault
when one has ended with fault. -/
def execLaunchDependencesMet (ls : Nat) (s : State) : Result :=
  occur s fun s =>
    match s.slot ls with
    | none => s
    | some l =>
      if l.st ≠ .waiting ∨ !s.liveTag l.ctx l.inc then s
      else if (pktDeps l.packet).any s.depFault then s.finishLaunch l true
      else if (pktDeps l.packet).all s.depMet then s.queueLaunch l
      else s

/-- LAUNCH_COMPLETION (R310, R313): every team of a running launch has ended, with fault where system software ended a group. -/
def execLaunchCompletion (ls : Nat) (s : State) : Result :=
  occur s fun s =>
    match s.slot ls with
    | none => s
    | some l => if l.st = .running ∧ l.left = 0 ∧ s.liveTag l.ctx l.inc then s.finishLaunch l l.fault else s

end Sys2Proof.Machine
end

