-- ==== Sys2Proof/Machine/Flash.lean ====
section
/-!
DEFINITION. Sys2Proof/Machine/Flash.lean: streams, weight sets and the storage processor (R333, R334, R369–R382), majors 0x7B and 0x7C: APPEND,
APSEAL, APWAIT, WSGET, WSREL and WSSET.
-/

namespace Sys2Proof.Machine

open Sys2Proof

/-! ## Streams (R369, R370) -/

/-- The stream whose range holds a physical address. -/
def State.streamAt (s : State) (pa : Nat) : Option Stream := s.fl.streams.find? fun x => decide (x.base ≤ pa) && decide (pa < x.base + x.size)

/-- The stream with a physical base. -/
def State.stream (s : State) (base : Nat) : Option Stream := s.fl.streams.find? fun x => decide (x.base = base)

/-- Changes a stream. -/
def State.onStream (s : State) (base : Nat) (f : Stream → Stream) : State :=
  { s with fl := { s.fl with streams := s.fl.streams.map fun x => if x.base = base then f x else x } }

/-- Where a page of a stream's range now lies (R334). -/
def Flash.place (f : Flash) (page : Nat) : Nat := match f.moved.find? fun m => decide (m.1 = page) with | some m => m.2 | none => page

/-- No cache keeps a copy of the lines of a range. -/
def MemSys.forget (m : MemSys) (pa n : Nat) : MemSys :=
  let out := fun (line : Nat) => decide (line < pa / 128) || decide ((pa + n - 1) / 128 < line)
  { m with l2 := m.l2.filter fun x => out x.line, l1 := m.l1.filter fun x => out x.line, keel := m.keel.filter fun x => out x.line,
           dir := m.dir.filter fun x => out x.line }

/-- Bytes are placed in flash. -/
def MemSys.flashWrite (m : MemSys) (pa : Nat) (bs : List Byte) : MemSys :=
  { m.forget pa bs.length with mem := Store.putBytes m.mem pa bs }.unpoison pa bs.length

/-- Bytes of flash are filled with zeros. -/
def MemSys.flashZero (m : MemSys) (pa n : Nat) : MemSys := { m.forget pa n with mem := Store.clear m.mem pa n }.unpoison pa n

/-- A page of the flash tier takes the bytes of another. -/
def MemSys.flashCopy (m : MemSys) (src dst : Nat) : MemSys :=
  { m.forget dst 4096 with mem := Store.replace m.mem dst 4096 (Store.slice m.mem src 4096) }

/-! ## Checks on a stream address (R371, orders 2 to 4) -/

/-- What a stream address names: a stream, or the cause and WDET of the trap; or the walk has read poison (R433). -/
inductive Named where
  | stream (x : Stream)
  | trap (cause : Nat) (wdet : W64)
  | poison
  deriving DecidableEq, Repr

/-- The stream that an address names. -/
def State.nameStream (s : State) (va : W64) : Named :=
  if va.toNat % 4096 ≠ 0 then .trap 0x05 0
  else if !canonical va then .trap 0x07 0
  else
    match s.leafFor s.g.asker va with
    | .bad v r => .trap 0x07 (wdetOf v r)
    | .poison => .poison
    | .leaf l =>
      if !l.pte.getLsbD 11 then .trap 0x16 0
      else
        match s.streamAt (ptePa l.pte + va.toNat % pageBytes l.level) with
        | none => .trap 0x16 0
        | some x => if x.owner = s.g.ctx then .stream x else .trap 0x16 0

/-! ## Sealing (R375) -/

/-- A leaf at a level maps bytes of a stream's range. -/
def Stream.mappedBy (x : Stream) (level : Nat) (p : W64) : Bool := decide (ptePa p < x.base + x.size) && decide (x.base < ptePa p + pageBytes level)

/-- The leaves of a stream's range in its owner's table: the entry's place, its level, its value (R369, R375). -/
def State.streamLeaves (s : State) (x : Stream) : List (Nat × Nat × W64) :=
  ((s.m.leavesOf (fun p => p.getLsbD 11 && decide (pteTier p = .flash)) 5 (s.rootOf x.owner)).filter fun l => x.mappedBy l.level l.pte).map
    fun l => (l.slot, l.level, l.pte)

/-- The stream's pages that a leaf at a level maps, as far as they lie where it points. -/
def State.pagesUnder (s : State) (x : Stream) (level : Nat) (p : W64) : List Nat :=
  (List.range (x.size / 4096)).filterMap fun k =>
    let at_ := 4096 * s.fl.place (x.base / 4096 + k)
    if ptePa p ≤ at_ ∧ at_ < ptePa p + pageBytes level then some (x.base / 4096 + k) else none

/-- The stream as its seal is accepted: its seal length, and the leaves to rewrite (R374, R375). -/
def State.toSeal (s : State) (x : Stream) : Stream := { x with sealv := x.accepted, leaves := s.streamLeaves x }

/-- Nothing holds back the updates of the leaves that `who` makes. -/
def State.sealReady (s : State) (who : Nat) (x : Stream) : Bool := x.leaves.all fun p => s.partReady who p.1

/-- A cached translation comes from a leaf: from its own entry, from a 64 KiB entry of its group, or it has its PPN. -/
def TlbEntry.fromLeaf (t : TlbEntry) (slot : Nat) (old : W64) : Bool :=
  decide (t.slot = slot) || (decide (t.level = 1) && t.pte.getLsbD 54 && decide (t.slot / 128 = slot / 128)) || decide (ptePa t.pte = ptePa old)

/-- A leaf is rewritten at its home; its translations are removed on every core, as TLBINV removes them. -/
def State.putLeaf (s : State) (slot : Nat) (old new : W64) : State :=
  let s1 := s.partWrite slot 8 new.toNat
  { s1 with m := { s1.m with tlb := s1.m.tlb.filter fun t => !t.fromLeaf slot old } }

/-- One leaf of a stream at the moment it is Sealed; one that has changed since keeps its value (R375). -/
def State.sealLeaf (s : State) (x : Stream) (p : Nat × Nat × W64) : State :=
  let (slot, level, pte) := p
  if s.m.homeRead slot 8 ≠ pte.toNat then s
  else if ptePa pte - x.base < x.sealv then
    let s1 := s.putLeaf slot pte ((pte &&& ~~~0x800#64) ||| 2#64)
    { s1 with fl := { s1.fl with registry := s1.fl.registry ++ (s1.pagesUnder x level pte).map fun k => { leaf := slot, page := k, level := level } } }
  else s.putLeaf slot pte (pte &&& ~~~1#64)

/-- The result of APSEAL for an instruction that waits for it (R374). -/
def sealWord (x : Stream) (fault : Bool) : W32 := BitVec.ofNat 32 ((if fault then 0xC2000000 else 0x80000000) + x.sealv / 128)

/-- The APSEALs that wait for a stream write their result. -/
def State.settleSeals (s : State) (x : Stream) : State :=
  let mine := fun (e : LogEntry) => (match e.i with | .apseal .. => true | _ => false) && decide (e.aux = x.base) && decide (e.flight ≠ 0#32)
  s.mapGroups Group.present fun g => (g.log.filter mine).foldl (fun g e => g.logResult e (sealWord x false)) g

/-- Where the last page of a stream ends: the page of 4 KiB, or that of a larger leaf, that holds bytes on both sides of the seal length (R375). -/
def Stream.lastEnd (x : Stream) : Nat :=
  let at_ := x.base + x.sealv
  x.leaves.foldl (fun m p => if ptePa p.2.2 < at_ ∧ at_ < ptePa p.2.2 + pageBytes p.2.1 then max m (min (ptePa p.2.2 + pageBytes p.2.1) (x.base + x.size)) else m)
    ((at_ + 4095) / 4096 * 4096)

/-- A stream becomes Sealed (R375): its leaves are rewritten, the last page is filled with zeros. -/
def State.sealStream (s : State) (x : Stream) : State :=
  let s1 := x.leaves.foldl (fun s p => s.sealLeaf x p) s
  let pad := x.lastEnd - (x.base + x.sealv)
  let s2 := ({ s1 with m := if pad = 0 then s1.m else s1.m.flashZero (x.base + x.sealv) pad } : State).forgetWaits fun n => decide (n = sealName x.base)
  (s2.onStream x.base fun _ => { x with st := .sealed }).settleSeals x

/-- The result word of APWAIT against an accepted length (R373). -/
def waitWordOf (x : Stream) (t : Nat) : W32 :=
  BitVec.ofNat 32 ((if t ≤ x.durable ∨ x.st = .sealed then 0x80000000 else 0) + (if x.st = .opened then 0 else 0x40000000) + x.durable / 128 % 0x1000000)

/-- The APWAITs whose length has become durable write their result (R373). -/
def State.settleApwaits (s : State) : State :=
  let one := fun (g : Group) (e : LogEntry) =>
    match e.i with
    | .apwait .. =>
      if e.flight = 0#32 then g
      else
        match s.stream e.aux with
        | some x => if (Store.get e.val2 0).toNat ≤ x.durable then g.logResult e (waitWordOf x (Store.get e.val2 0).toNat) else g
        | none => g
    | _ => g
  s.mapGroups Group.present fun g => g.log.foldl one g

/-! ## APPEND (R371, R372) -/

/-- The bytes that an APPEND moves. -/
def appendCount (ctl : W32) : Nat := 128 * bits ctl.toNat 23 0

/-- The pages of a source in memory. -/
def pagesOf (va : W64) (n : Nat) : List W64 :=
  let first := va.toNat % 4096
  (List.range ((first + n + 4095) / 4096)).map fun k => if k = 0 then va else va - BitVec.ofNat 64 first + BitVec.ofNat 64 (4096 * k)

/-- The physical places of a source's pages, each with whether it is memory-side; the first trap; a wait; the end of the context's work (R433). -/
inductive Source where
  | ok (pas : List (Nat × Bool))
  | trap (cause : Nat) (val wdet : W64)
  | wait
  | over
  deriving DecidableEq, Repr

/-- Every page of a source is read at its home (R329). -/
def State.sourcePages (s : State) : List W64 → State × Source
  | [] => (s, .ok [])
  | va :: t =>
    match s.homeProbe va with
    | (s1, .trap c w) => (s1, .trap c va w)
    | (s1, .wait) => (s1, .wait)
    | (s1, .over) => (s1, .over)
    | (s1, .ok pa ms) =>
      match State.sourcePages s1 t with
      | (s2, .ok ps) => (s2, .ok ((pa, ms) :: ps))
      | r => r

/-- What an APPEND finds at issue. -/
inductive AppendCheck where
  | ok (x : Stream) (src : List (Nat × Bool) ⊕ OcBase)
  | trap (cause : Nat) (val wdet : W64)
  | wait
  | over
  deriving DecidableEq, Repr

/-- The checks of R371 in their order, in the issuing lane. -/
def State.appendCheck (s : State) (a : Reg) (l : Nat) : State × AppendCheck :=
  let ctl := s.blk a 4 l
  let onchip := ctl.getLsbD 31
  let desc := s.blk a 2 l
  let sva := s.rd64 a l
  let src := s.rd64 (a + 2) l
  let n := appendCount ctl
  if bits ctl.toNat 30 24 ≠ 0 ∨ n = 0 ∨ 131072 * 128 < n ∨ (onchip ∧ (bits desc.toNat 31 30 % 2 = 1 ∨ bits desc.toNat 29 25 ≠ 0)) then
    (s, .trap 0x02 (ctl.setWidth 64) 0)
  else if sva.toNat % 4096 ≠ 0 then (s, .trap 0x05 sva 0)
  else if onchip ∧ bits desc.toNat 24 0 % 16 ≠ 0 then (s, .trap 0x05 (desc.setWidth 64) 0)
  else if !onchip ∧ src.toNat % 128 ≠ 0 then (s, .trap 0x05 src 0)
  else
    match s.nameStream sva with
    | .trap c w => (s, .trap c sva w)
    | .poison => (match s.eatPoison s.g.ctx with | (s1, true) => (s1, .over) | (s1, false) => (s1, .trap 0x10 sva 0))
    | .stream x =>
      if onchip then
        match s.ocSpan s.g desc with
        | some (b, room) => if room < n then (s, .trap 0x09 (desc.setWidth 64) 0) else (s, .ok x (.inr b))
        | none => (s, .trap 0x09 (desc.setWidth 64) 0)
      else
        match s.sourcePages (pagesOf src n) with
        | (s1, .ok pas) => (s1, .ok x (.inl pas))
        | (s1, .trap c v w) => (s1, .trap c v w)
        | (s1, .wait) => (s1, .wait)
        | (s1, .over) => (s1, .over)

/-- The place of byte `k` of a source in memory, whose first byte lies `first` bytes into its page. -/
def sourceAt (pas : List (Nat × Bool)) (first k : Nat) : Nat :=
  if (first + k) / 4096 = 0 then (pas.headD (0, false)).1 + k else (pas.getD ((first + k) / 4096) (0, false)).1 + (first + k) % 4096

/-- The source bytes as 8-byte words, by number; those of a compressed page that the engine does not keep are unpredictable (R327). -/
def State.sourceWords (s : State) (src : List (Nat × Bool) ⊕ OcBase) (va : W64) (n : Nat) : Store 64 :=
  (List.range (n / 8)).foldl (fun m k =>
    let v := match src with
      | .inr b => BitVec.ofNat 64 (s.ocRead b (8 * k) 8)
      | .inl pas =>
        let pa := sourceAt pas (va.toNat % 4096) (8 * k)
        if s.wild s.g.ctx (va + BitVec.ofNat 64 (8 * k)) pa then Config.unpredictable s.fresh k else BitVec.ofNat 64 (s.m.homeRead pa 8)
    Store.put m k v) []

/-- Some source byte is poisoned. -/
def State.sourcePoison (s : State) (src : List (Nat × Bool) ⊕ OcBase) (va : W64) (n : Nat) : Bool :=
  match src with
  | .inr _ => false
  | .inl pas => (List.range (n / 128)).any fun k => s.m.poisoned (sourceAt pas (va.toNat % 4096) (128 * k)) 128

/-- The reads of a source at their homes: one of each line, which a miss fills and a counted line counts (R166, R372). -/
def State.sourceReads (s : State) (src : List (Nat × Bool) ⊕ OcBase) (va : W64) (n : Nat) : State :=
  match src with
  | .inr _ => s
  | .inl pas =>
    { s with m := (List.range (n / 128)).foldl (fun m k =>
        let pa := sourceAt pas (va.toNat % 4096) (128 * k)
        if inL2 (pas.getD ((va.toNat % 4096 + 128 * k) / 4096) (0, false)).2 pa then m.readL2 (lineOf pa) 0 else m) s.m }

/-- The checks of an APPEND need not wait for the home of a leaf. -/
def State.appendGo (s : State) (a : Reg) : Bool :=
  match s.issuer with
  | none => true
  | some l => decide ((s.appendCheck a l).2 ≠ .wait)

/-- The checks of an APPEND that must wait, with what they mark at the homes of leaves (R164). -/
def State.appendProbe (s : State) (a : Reg) : State := match s.issuer with | none => s | some l => (s.appendCheck a l).1

/-- The source of an APPEND as its log entry holds it, where it can be read now: none where it must wait, fault code 0x04 where the read faults (R372). -/
def State.appendSource (s : State) (e : LogEntry) : State × Option ((List (Nat × Bool) ⊕ OcBase) ⊕ Nat) :=
  let n := (Store.get e.addr 0).toNat
  let va := Store.get e.addr 1
  if Store.get e.addr 2 = 0#64 then
    match s.sourcePages (pagesOf va n) with
    | (s1, .ok pas) => (s1, some (.inl (.inl pas)))
    | (s1, .trap c _ _) => (s1, some (.inr (if c = 0x10 then 8 else 4)))
    | (s1, _) => (s1, none)
  else
    match s.ocSpan s.g (va.setWidth 32) with
    | some (b, room) => (s, some (if room < n then .inr 4 else .inl (.inr b)))
    | none => (s, some (.inr 4))

/-- The source of an APPEND has been read: the block, or the fault code of the read, is on its way (R372). -/
def Group.sentAppend (g : Group) (seq code : Nat) (words : Store 64) : Group :=
  { g with log := g.log.map fun x =>
      if x.seq = seq then { x with val := Store.put (Store.put [] 0 (BitVec.ofNat 64 code)) 1 1#64, val2 := words } else x }

/-- Once every earlier group-path access of the split is complete, and no FENCE holds a group read back (R195), the group in focus reads the source of its APPEND (R372). -/
def State.readAppend (s : State) (e : LogEntry) : State :=
  let n := (Store.get e.addr 0).toNat
  let va := Store.get e.addr 1
  if s.g.place ≠ .resident ∨ s.releaseWaits s.g e.seq e.lanes 6 ∨ s.g.fenced e.seq e.lanes 0 then s
  else
    match s.appendSource e with
    | (s1, none) => s1
    | (s1, some (.inr code)) => s1.onG fun g => g.sentAppend e.seq code []
    | (s1, some (.inl src)) =>
      if s1.sourcePoison src va n then
        match s1.consumeBy s1.g.ctx va with
        | (s2, .rolled) => s2
        | (s2, _) => s2.onG fun g => g.sentAppend e.seq 8 []
      else (s1.sourceReads src va n).onG fun g => g.sentAppend e.seq 0 (s1.sourceWords src va n)

/-- An APPEND that passed its checks takes its log entry; its source is read now, or when the split's earlier accesses are complete. -/
def State.sendAppend (s : State) (i : Instr) (d a : Reg) (l : Nat) (x : Stream) : State :=
  let ctl := s.blk a 4 l
  let onchip := ctl.getLsbD 31
  let e : LogEntry :=
    { id := s.g.freeEntry.getD 0, seq := s.seq, i := i, mode := s.md, entry := s.entry, lanes := s.act, pend := s.grd, flight := s.grd,
      addr := Store.put (Store.put (Store.put [] 0 (BitVec.ofNat 64 (appendCount ctl))) 1
        (if onchip then (s.blk a 2 l).setWidth 64 else s.rd64 (a + 2) l)) 2 (if onchip then 1#64 else 0#64),
      val := [], val2 := [], dst := s.g.dst d false, aux := x.base }
  ((((s.openWin (lookOf i) (decide (d ≠ 63#6))).onG fun g => ({ g with log := g.log ++ [e] }).owe e.seq e.dst e.pend)).done).readAppend e

/-- APPEND (R371, R372): one operation in the issuing lane, none without one. -/
def execAppend (d a : Reg) (l : BitVec 4) (s : State) : Result :=
  issueOr (.append d a l) s (fun s => s.appendGo a) (fun s => s.holdMarked (s.appendProbe a)) fun s =>
    match s.issuer with
    | none => s.done
    | some n =>
      match s.appendCheck a n with
      | (s1, .trap c v w) => s1.raiseWalk (.append d a l) c v w
      | (s1, .wait) => s1
      | (s1, .over) => s1
      | (s1, .ok x _) => s1.sendAppend (.append d a l) d a n x

/-- The bytes of an APPEND in the log. -/
def LogEntry.bytes (e : LogEntry) (n : Nat) : List Byte := (List.range n).map fun k => byteOf (Store.get e.val2 (k / 8)).toNat (k % 8)

/-- An earlier APPEND of the same split is still on its way (R372). -/
def Group.appendsBefore (g : Group) (e : LogEntry) : Bool :=
  g.log.any fun x => decide (x.seq < e.seq) && decide (x.lanes &&& e.lanes ≠ 0#32) && decide (x.flight ≠ 0#32) && (match x.i with | .append .. => true | _ => false)

/-- The block reaches the storage processor (R372): it is placed whole, or nothing is. -/
def State.acceptAppend (s : State) (g : Group) (e : LogEntry) : State :=
  let n := (Store.get e.addr 0).toNat
  match s.stream e.aux with
  | none => s.onGroup g.gid fun g => g.logResult e 0xC2000000#32
  | some x =>
    if Store.get e.val 0 ≠ 0#64 then s.onGroup g.gid fun g => g.logResult e (BitVec.ofNat 32 (0xC0000000 + (Store.get e.val 0).toNat * 0x1000000))
    else if x.st ≠ .opened then s.onGroup g.gid fun g => g.logResult e 0xC2000000#32
    else if x.size < x.accepted + n then s.onGroup g.gid fun g => g.logResult e 0xC1000000#32
    else
      let open_ := match s.ctx g.ctx with | some c => c.opened | none => 0
      let s1 := { s with m := s.m.flashWrite (x.base + x.accepted) (e.bytes n) }
      (s1.onStream x.base fun y => { y with accepted := y.accepted + n }).onGroup g.gid fun g =>
        { g with appended := open_ }.logResult e (BitVec.ofNat 32 (0x80000000 + x.accepted / 128))

/-- APPEND_ACCEPT (R372): `rid` names the APPEND; one whose source has not been read yet reads it. -/
def execAppendAccept (rid : Nat) (s : State) : Result :=
  occur s fun s =>
    match s.groups.find? fun g => g.present && g.log.any fun x => decide (x.seq = rid) with
    | none => s
    | some g =>
      match g.entryOf rid with
      | none => s
      | some e =>
        match e.i with
        | .append .. =>
          if e.flight = 0#32 then s
          else if e.unread then s.inGroup g.gid fun s => s.readAppend e
          else if g.appendsBefore e then s else s.acceptAppend g e
        | _ => s

/-! ## APSEAL (R374) -/

/-- APSEAL traps, or the split's earlier accesses and appends are complete and the seal can be applied. -/
def State.apsealGo (s : State) (a : Reg) : Bool :=
  match s.issuer with
  | none => true
  | some l =>
    match s.nameStream (s.rd64 a l) with
    | .trap .. => true
    | .poison => true
    | .stream x => !s.releaseWaits s.g s.here s.act 6 && !(s.g.log.any fun e => flashCommand e.i && decide (e.lanes &&& s.act ≠ 0#32) && decide (e.flight ≠ 0#32)) &&
        (decide (x.st ≠ .opened) || decide (x.durable < x.accepted) || s.sealReady (walkName s.g.gid) (s.toSeal x))

/-- The rewriting of leaves that an APSEAL must wait for waits at their homes (R164). -/
def State.apsealProbe (s : State) (a : Reg) : State :=
  match s.issuer with
  | none => s
  | some l =>
    match s.nameStream (s.rd64 a l) with
    | .stream x => s.awaitAll (walkName s.g.gid) ((s.toSeal x).leaves.map (·.1))
    | _ => s

/-- The seal at the storage processor. -/
def State.sealRun (s : State) (i : Instr) (d : Reg) (x : Stream) : State :=
  let s0 := s.openWin (lookOf i) (decide (d ≠ 63#6))
  if x.st ≠ .opened then (s0.wrLong d s0.grd fun _ => sealWord x true).done
  else
    let y := s.toSeal x
    if x.durable = x.accepted then (((s0.forgetName s0.g.gid).sealStream y).wrLong d s0.grd fun _ => sealWord y false).done
    else
      let e : LogEntry :=
        { id := s0.g.freeEntry.getD 0, seq := s0.seq, i := i, mode := s0.md, entry := s0.entry, lanes := s0.act, pend := s0.grd, flight := s0.grd,
          addr := [], val := [], val2 := [], dst := s0.g.dst d false, aux := x.base }
      ((s0.onStream x.base fun _ => { y with st := .sealing }).onG fun g => ({ g with log := g.log ++ [e] }).owe e.seq e.dst e.pend).done

/-- APSEAL (R374): one operation in the issuing lane, none without one. -/
def execApseal (d a : Reg) (l : BitVec 4) (s : State) : Result :=
  issueOr (.apseal d a l) s (fun s => s.apsealGo a) (fun s => s.holdMarked (s.apsealProbe a)) fun s =>
    match s.issuer with
    | none => s.done
    | some n =>
      match s.nameStream (s.rd64 a n) with
      | .trap c w => s.raiseWalk (.apseal d a l) c (s.rd64 a n) w
      | .poison => s.poisonStop (.apseal d a l) (s.rd64 a n)
      | .stream x => s.sealRun (.apseal d a l) d x

/-! ## APWAIT (R373) -/

/-- An APWAIT in the log reaches the storage processor: it takes the accepted length, and waits where that is not durable (R373, R404). -/
def State.launchApwait (s : State) (seq : Nat) : State :=
  match s.g.entryOf seq with
  | none => s
  | some e =>
    let t := match s.stream e.aux with | some x => x.accepted | none => 0
    let take := fun (x : LogEntry) => if x.seq = seq then { x with flight := x.pend, val2 := Store.put [] 0 (BitVec.ofNat 64 t) } else x
    (s.onG fun g => { g with log := g.log.map take }).settleApwaits

/-- APWAIT in its issuing lane. -/
def State.apwaitRun (s : State) (i : Instr) (d : Reg) (va : W64) (w : W32) : State :=
  if bits w.toNat 31 1 ≠ 0 then s.raise i 0x02 (w.setWidth 64)
  else
    match s.nameStream va with
    | .trap c wd => s.raiseWalk i c va wd
    | .poison => s.poisonStop i va
    | .stream x =>
      let s0 := s.openWin (lookOf i) true
      if !w.getLsbD 0 then (s0.wrLong d s0.grd fun _ => waitWordOf x x.accepted).done
      else
        let e : LogEntry :=
          { id := s0.g.freeEntry.getD 0, seq := s0.seq, i := i, mode := s0.md, entry := s0.entry, lanes := s0.act, pend := s0.grd, flight := 0,
            addr := [], val := [], val2 := [], dst := s0.g.dst d false, aux := x.base }
        ((s0.onG fun g => ({ g with log := g.log ++ [e] }).owe e.seq e.dst e.pend).done).launchApwait e.seq

/-- APWAIT (R373): one operation in the issuing lane, none without one. -/
def execApwait (d a b : Reg) (l : BitVec 4) (s : State) : Result :=
  issue (.apwait d a b l) s fun s =>
    match s.issuer with
    | none => s.done
    | some n => s.apwaitRun (.apwait d a b l) d (s.rd64 a n) (s.rd b n)

/-! ## Weight sets (R378–R382) -/

/-- The record of a generation. -/
def WSet.rec_ (w : WSet) (gen : Nat) : Option GenRec := w.recs.find? fun r => decide (r.gen = gen)

/-- Four registers from d on are written by an instruction with a window. -/
def State.wrFour (s : State) (d : Reg) (v : Nat → W32) : State :=
  (List.range 4).foldl (fun s k => s.wrLong (d + BitVec.ofNat 6 k) s.grd fun _ => v k) s

/-- The four result words for a generation, or for a failure (R380). -/
def genWords (r : Option GenRec) (fail : Nat) (k : Nat) : W32 :=
  match r, k with
  | some r, 0 => BitVec.ofNat 32 (0x80000000 + r.gen)
  | some r, 1 => BitVec.ofNat 32 r.pages
  | some r, 2 => r.gbase.setWidth 32
  | some r, 3 => (r.gbase >>> 32).setWidth 32
  | none, 0 => BitVec.ofNat 32 (fail * 0x1000000)
  | _, _ => 0

/-- WSGET with a handle word (R380). -/
def State.wsgetRun (s : State) (i : Instr) (d : Reg) (w : W32) : State :=
  let h := bits w.toNat 5 0
  let out := fun (s : State) (r : Option GenRec) (fail : Nat) => ((s.openWin (lookOf i) true).wrFour d (genWords r fail)).done
  if bits w.toNat 30 6 ≠ 0 then s.raise i 0x02 (w.setWidth 64)
  else if w.getLsbD 31 then
    match s.launchOf s.g, s.wset h with
    | some l, some ws => if pktWset l.packet = h ∧ l.wgen ≠ 0 then out s (ws.rec_ l.wgen) 2 else out s none 2
    | _, _ => out s none 2
  else if h = 0 then out s none 2
  else
    match (s.wset h).bind fun ws => ws.rec_ ws.cur with
    | none => out s none 1
    | some r =>
      if 4 ≤ s.g.pins.length ∨ 65535 ≤ r.gpins then s.raise i 0x17 (BitVec.ofNat 64 h)
      else
        let s1 := s.onRec h r.gen fun _ x => { x with gpins := x.gpins + 1 }
        out (s1.onG fun g => { g.stampF s.dev.time with pins := g.pins ++ [{ ws := h, gen := r.gen }] }) (some r) 0

/-- WSGET (R380): one operation in the issuing lane, none without one. -/
def execWsget (d a : Reg) (l : BitVec 4) (s : State) : Result :=
  issue (.wsget d a l) s fun s =>
    match s.issuer with
    | none => s.done
    | some n => s.wsgetRun (.wsget d a l) d (s.rd a n)

/-- WSREL with its two words (R381). -/
def State.wsrelRun (s : State) (i : Instr) (w v : W32) : State :=
  let p : Pin := { ws := bits w.toNat 5 0, gen := bits v.toNat 15 0 }
  if bits w.toNat 31 6 ≠ 0 then s.raise i 0x02 (w.setWidth 64)
  else if bits v.toNat 31 16 ≠ 0 then s.raise i 0x02 (v.setWidth 64)
  else if s.g.pins.all fun x => decide (x ≠ p) then s.raise i 0x17 (BitVec.ofNat 64 (0x80000000 + p.ws))
  else ((((s.openWin (lookOf i) false).unpin p.ws p.gen false s.g.ctx).onG fun g => { g with pins := g.pins.erase p })).done

/-- WSREL (R381): it waits until every earlier load of its split is complete. -/
def execWsrel (a b : Reg) (l : BitVec 4) (s : State) : Result :=
  issueWhen (.wsrel a b l) s (fun s => s.issuer.isNone || !s.readsPending s.g s.here s.act) fun s =>
    match s.issuer with
    | none => s.done
    | some n => s.wsrelRun (.wsrel a b l) (s.rd a n) (s.rd b n)

/-- A leaf maps a page of a sealed stream as publish demands (R379): V, G, R = 1, W = X = 0, tier flash, the page's place. -/
def publishLeaf (p : W64) (pa : Nat) : Bool :=
  p.getLsbD 0 && p.getLsbD 5 && p.getLsbD 1 && !p.getLsbD 2 && !p.getLsbD 3 && decide (pteTier p = .flash) && decide (ptePa p = pa)

/-- A walk of a publish reads poison (R433). -/
def State.publishPoison (s : State) (x : Stream) (gbase : W64) : Bool :=
  (List.range ((x.sealv + 4095) / 4096)).any fun k => decide (s.m.walk (gbase + BitVec.ofNat 64 (4096 * k)) 5 (s.rootOf s.g.ctx) = .poison)

/-- The leaves of a publish with the stream's page each maps, or none where one does not match. -/
def State.publishLeaves (s : State) (x : Stream) (gbase : W64) : Option (List Mapping) :=
  (List.range ((x.sealv + 4095) / 4096)).foldl (fun r k =>
    let va := gbase + BitVec.ofNat 64 (4096 * k)
    match r, s.m.walk va 5 (s.rootOf s.g.ctx) with
    | some ps, .leaf l =>
      let page := x.base / 4096 + k
      if publishLeaf l.pte (4096 * s.fl.place page - va.toNat % pageBytes l.level) then some (ps ++ [{ leaf := l.slot, page := page, level := l.level }]) else none
    | _, _ => none) (some [])

/-- The outcome of a WSSET op: the state, failure, detail and physical base. -/
abbrev WsOut := State × Nat × Nat × Nat

/-- Op 0, create (R379): a Free stream becomes Open at the lowest free range. -/
def State.wsCreate (s : State) (size : Nat) (owner : BitVec 12) : WsOut :=
  let n := size * 0x200000
  if size = 0 ∨ 512 < size then (s, 1, 0, 0)
  else if 4096 ≤ s.fl.streams.length then (s, 2, 0, 0)
  else
    let used := (s.fl.streams.map fun x => (x.base, x.size)) ++ s.fl.moved.map fun m => (4096 * m.2 / 0x200000 * 0x200000, 0x200000)
    match firstFit 0x40000000000 0x80000000000 used n with
    | none => (s, 1, 0, 0)
    | some base =>
      let x : Stream := { base := base, size := n, owner := owner, st := .opened, accepted := 0, durable := 0, sealv := 0, leaves := [], closes := [] }
      ({ s with fl := { s.fl with streams := s.fl.streams ++ [x] } }, 0, 0, base)

/-- Op 1, publish (R379). -/
def State.wsPublish (s : State) (h base : Nat) (gbase : W64) : WsOut :=
  let w : WSet := (s.wset h).getD { ws := h, cur := 0, recs := [] }
  match s.stream base with
  | none => (s, 6, 0, 0)
  | some x =>
    if x.st ≠ .sealed then (s, 6, 0, 0)
    else
      match if gbase.toNat % 4096 = 0 then s.publishLeaves x gbase else none with
      | none => (s, 3, 0, 0)
      | some ps =>
        if 4 ≤ w.recs.length then (s, 4, 0, 0)
        else
          let gen := w.cur % 65535 + 1
          let r : GenRec := { gen := gen, stream := base, gbase := gbase, pages := (x.sealv + 4095) / 4096, gpins := 0, lpins := 0, released := [] }
          let w1 := { w with cur := gen, recs := w.recs ++ [r] }
          ({ s with fl := { s.fl with registry := s.fl.registry ++ ps, sets := (s.fl.sets.filter fun y => decide (y.ws ≠ h)) ++ [w1] } }, 0, gen, 0)

/-- Op 2, delete (R379). -/
def State.wsDelete (s : State) (base : Nat) : WsOut :=
  match s.stream base with
  | none => (s, 6, 0, 0)
  | some x =>
    if x.st = .sealing ∨ (s.fl.sets.any fun w => w.recs.any fun r => decide (r.stream = base)) then (s, 5, 0, 0)
    else
      let out := fun (page : Nat) => decide (page < base / 4096) || decide ((base + x.size) / 4096 ≤ page)
      ({ s with fl := { s.fl with streams := s.fl.streams.filter fun y => decide (y.base ≠ base),
                                  registry := s.fl.registry.filter fun r => out r.page, moved := s.fl.moved.filter fun r => out r.1 } }, 0, 0, 0)

/-- The pages of a stream that a leaf maps: one of 4 KiB, or those of the 2 MiB or 1 GiB that its level maps, as far as they are the stream's (R324, R379). -/
def State.leafPages (s : State) (x : Stream) (leaf : Nat) : List Nat :=
  let p := BitVec.ofNat 64 (s.m.homeRead leaf 8)
  if !p.getLsbD 0 ∨ !pteLeaf (s.leafLevel leaf) p ∨ pteTier p ≠ .flash then [] else s.pagesUnder x (s.leafLevel leaf) p

/-- Ops 3 and 4, register and unregister (R379). -/
def State.wsRegister (s : State) (add : Bool) (leaf base : Nat) : WsOut :=
  match s.stream base with
  | none => (s, 6, 0, 0)
  | some x =>
    if x.st ≠ .sealed then (s, 6, 0, 0)
    else if add then
      match if leaf % 8 = 0 then s.leafPages x leaf else [] with
      | [] => (s, 3, 0, 0)
      | ps => ({ s with fl := { s.fl with registry := s.fl.registry ++ ps.map fun k => { leaf := leaf, page := k, level := s.leafLevel leaf } } }, 0, 0, 0)
    else
      let mine := fun (r : Mapping) => decide (r.leaf = leaf) && decide (base / 4096 ≤ r.page) && decide (r.page < (base + x.size) / 4096)
      ({ s with fl := { s.fl with registry := s.fl.registry.filter fun r => !mine r } }, 0, 0, 0)

/-- The op word breaks R379. -/
def wssetBad (w : W32) : Bool :=
  decide (4 < bits w.toNat 31 28) || decide (bits w.toNat 27 6 ≠ 0) ||
    (if bits w.toNat 31 28 = 1 then decide (bits w.toNat 5 0 = 0) else decide (bits w.toNat 5 0 ≠ 0))

/-- WSSET in its issuing lane. -/
def State.wssetRun (s : State) (i : Instr) (d b : Reg) (w : W32) (n : Nat) : State :=
  if wssetBad w then s.raise i 0x02 (w.setWidth 64)
  else if decide (bits w.toNat 31 28 = 1) && (match s.stream (s.rd64 b n).toNat with | some x => s.publishPoison x (s.rd64 (b + 2) n) | none => false) then
    s.poisonStop i (s.rd64 (b + 2) n)
  else
    let x := s.rd64 b n
    let y := s.rd64 (b + 2) n
    let r : WsOut := match bits w.toNat 31 28 with
      | 0 => s.wsCreate (s.blk b 0 n).toNat ((s.blk b 1 n).setWidth 12)
      | 1 => s.wsPublish (bits w.toNat 5 0) x.toNat y
      | 2 => s.wsDelete x.toNat
      | 3 => s.wsRegister true x.toNat y.toNat
      | _ => s.wsRegister false x.toNat y.toNat
    let out := fun (k : Nat) => match k with
      | 0 => BitVec.ofNat 32 (if r.2.1 = 0 then 0x80000000 + r.2.2.1 else r.2.1 * 0x1000000)
      | 1 => 0#32
      | 2 => BitVec.ofNat 32 r.2.2.2
      | _ => BitVec.ofNat 32 (r.2.2.2 / 2 ^ 32)
    ((r.1.openWin (lookOf i) true).wrFour d out).done

/-- WSSET (R379): publish first waits as ST.rel.dev. -/
def execWsset (d a b : Reg) (l : BitVec 4) (s : State) : Result :=
  issueWhen (.wsset d a b l) s
    (fun s => match s.issuer with
      | none => true
      | some n => wssetBad (s.rd a n) || decide (bits (s.rd a n).toNat 31 28 ≠ 1) || !s.releaseWaits s.g s.here s.act 6)
    fun s =>
      match s.issuer with
      | none => s.done
      | some n => s.wssetRun (.wsset d a b l) d b (s.rd a n) n

/-! ## Events of the storage processor -/

/-- A context that rolls back will hold pins of a generation again: those of its boundary images (R380, R427). -/
def State.pinsBack (s : State) (ws gen : Nat) : Bool :=
  s.ctxs.any fun x => x.rolling && s.ck.bounds.any fun b => decide (b.c = x.c) &&
    ((b.groups.any fun g => g.pins.any fun p => decide (p = { ws := ws, gen := gen })) ||
      b.launches.any fun l => decide (pktWset l.packet = ws) && decide (l.wgen = gen))

/-- A record that is not current may be reclaimed (R382). -/
def State.reclaims (s : State) (w : WSet) (r : GenRec) : Bool :=
  decide (w.cur ≠ r.gen) && decide (r.gpins = 0) && decide (r.lpins = 0) && !s.pinsBack w.ws r.gen && r.released.all fun p => s.resolved p.1 p.2

/-- GENERATION_RECLAIM (R382). -/
def execGenerationReclaim (ws : Nat) (gen : BitVec 16) (s : State) : Result :=
  occur s fun s =>
    let drop := fun (w : WSet) => if w.ws = ws then { w with recs := w.recs.filter fun r => !(decide (r.gen = gen.toNat) && s.reclaims w r) } else w
    { s with fl := { s.fl with sets := s.fl.sets.map drop } }

/-- The leaves that the registry lists for a page and that still map its place. -/
def State.pageLeaves (s : State) (page : Nat) : List Mapping :=
  s.fl.registry.filter fun r =>
    let p := BitVec.ofNat 64 (s.m.homeRead r.leaf 8)
    decide (r.page = page) && p.getLsbD 0 && decide (pteTier p = .flash) && decide (ptePa p ≤ 4096 * s.fl.place page) &&
      decide (4096 * s.fl.place page < ptePa p + pageBytes r.level)

/-- Some leaf keeps the page where it is: PIN (R376), or a leaf that maps more than the page, at level 2 or 3 or with CONT, which no new place of one page fits (DESIGN
CHOICE, log 88). -/
def State.pagePinned (s : State) (page : Nat) : Bool :=
  (s.pageLeaves page).any fun r =>
    let p := BitVec.ofNat 64 (s.m.homeRead r.leaf 8)
    p.getLsbD 8 || decide (r.level ≠ 1) || p.getLsbD 54

/-- The relocation ends: the bytes are copied, each listed leaf's PPN is replaced, and old translations are removed (R334). -/
def State.relocate (s : State) (page dest : Nat) : State :=
  let old := s.fl.place page
  let marks := fun (p : Nat) => (List.range 128).map fun k => 128 * p + k
  let m1 := s.m.flashCopy (4096 * old) (4096 * dest)
  let s1 := { s with m := { m1 with poison := (m1.poison.filter fun k => decide (k / 128 ≠ dest)) ++ marks old } }
  let move := fun (s : State) (r : Mapping) =>
    let p := BitVec.ofNat 64 (s.m.homeRead r.leaf 8)
    s.putLeaf r.leaf p ((p &&& ~~~0x000FFFFFFFFFF000#64) ||| BitVec.ofNat 64 (4096 * dest))
  let s2 := ((s.pageLeaves page).foldl move s1).forgetWaits fun n => decide (n = sealName (4096 * page))
  { s2 with fl := { s2.fl with moved := (s2.fl.moved.filter fun m => decide (m.1 ≠ page)) ++ [(page, dest)],
                               relocating := s2.fl.relocating.filter fun k => decide (k ≠ old) } }

/-- No read of a page is in flight (R332, R334). -/
def State.pageQuiet (s : State) (page : Nat) : Bool := s.m.reqs.all fun r => decide (r.space ≠ .vm) || r.performed || decide (r.key / 4096 ≠ page)

/-- FLASH_RELOCATION (R334): a first one starts moving a stream's sealed page, whose reads are deferred from then on; a second one ends the
move, to the place `dest`, once no read of the old place is in flight. The old page reads as poison until it is reassigned (R377). -/
def execFlashRelocation (page dest : Nat) (s : State) : Result :=
  occur s fun s =>
    match s.streamAt (4096 * page) with
    | none => s
    | some x =>
      let old := s.fl.place page
      if x.st ≠ .sealed ∨ s.pagePinned page then s
      else if s.fl.relocating.all fun k => decide (k ≠ old) then { s with fl := { s.fl with relocating := s.fl.relocating ++ [old] } }
      else if tierOf (4096 * dest) = some .flash ∧ (s.streamAt (4096 * dest)).isNone ∧ (s.fl.moved.all fun m => decide (m.2 ≠ dest)) ∧
          s.pageQuiet old then
        (if (s.pageLeaves page).all fun r => s.partReady (sealName (4096 * page)) r.leaf then s.relocate page dest
         else s.awaitAll (sealName (4096 * page)) ((s.pageLeaves page).map (·.leaf)))
      else s

end Sys2Proof.Machine
end

