-- ==== Sys2Proof/Machine/Shadow.lean ====
section
/-!
DEFINITION. Sys2Proof/Machine/Shadow.lean: the envelope shadow (R407–R410): images with their frames, header slots and commits; how a group
stands when it is stopped (R319, R411); and a team that is swapped out or back in (R320–R322).
-/

namespace Sys2Proof.Machine

open Sys2Proof

/-! ## Images (R408) -/

/-- The frames of a group image. -/
def Group.frames (g : Group) : Nat := 3 + g.nregs / 32 + g.ntiles

/-- The frames of a team image. -/
def Team.frames (t : Team) : Nat := 1 + (t.size + 4095) / 4096 + (t.size + 131071) / 131072

/-- The image of a group or a team. -/
def State.imageOf (s : State) (owner : Nat) (team : Bool) : Option Image :=
  s.ck.images.find? fun i => decide (i.owner = owner) && i.team == team

/-- Changes an image. -/
def State.onImage (s : State) (owner : Nat) (team : Bool) (f : Image → Image) : State :=
  { s with ck := { s.ck with images := s.ck.images.map fun i => if i.owner = owner ∧ i.team = team then f i else i } }

/-- The runs of image frames in use on a core, but for those of one owner. -/
def State.frameRuns (s : State) (core owner : Nat) (team : Bool) : List (Nat × Nat) :=
  (s.ck.images.filter fun i => decide (i.core = core) && !(decide (i.owner = owner) && i.team == team)).map fun i => (i.first, i.count)

/-- The lowest run of free image frames of a core. -/
def freeFrames (used : List (Nat × Nat)) (n : Nat) : Option Nat := firstFit 80 512 used n

/-- The lowest free entry of a core's header directory. -/
def State.freeDir (s : State) (core : Nat) : Option Nat :=
  (List.range 128).find? fun k => s.ck.images.all fun i => !(decide (i.core = core) && decide (i.entry = k))

/-- A core has a run of frames and an entry for one more image. -/
def State.imageRoom (s : State) (core n : Nat) : Bool := (freeFrames (s.frameRuns core 0 false) n).isSome && (s.freeDir core).isSome

/-- An image is allocated with both slots clear (R408, R409, R414); a control core has no shadow. -/
def State.newImage (s : State) (core owner : Nat) (team : Bool) (n : Nat) : State :=
  if 256 ≤ core then s
  else
    match freeFrames (s.frameRuns core owner team) n, s.freeDir core with
    | some f, some e =>
      { s with ck := { s.ck with images := s.ck.images ++
          [{ core := core, entry := e, owner := owner, team := team, first := f, count := n, slotA := .clear, slotB := .clear, snapG := none, snapT := none, clean := [] }] } }
    | _, _ => s

/-- Runs of some sizes fit one after another, each at its lowest place. -/
def fitRuns (lo hi : Nat) (used : List (Nat × Nat)) : List Nat → Bool
  | [] => true
  | n :: t =>
    match firstFit lo hi used n with
    | none => false
    | some x => fitRuns lo hi ((x, n) :: used) t

/-- The frames that the groups need which a gondola brings to a core: their images have no run there yet (R148, R408). -/
def State.inbound (s : State) (core : Nat) : List Nat :=
  (s.groups.filter fun g => match g.place with | .moving t => decide (t = core) | _ => false).map Group.frames

/-- An image takes another number of frames: where it lies if it shrinks, else at the lowest run that is free and leaves room for the groups on their way to the core; none
where no run is. -/
def State.resizeImage (s : State) (owner : Nat) (team : Bool) (n : Nat) : Option State :=
  match s.imageOf owner team with
  | none => some s
  | some i =>
    if n ≤ i.count then some (s.onImage owner team fun i => { i with count := n })
    else ((freeFrames (s.frameRuns i.core owner team) n).filter fun f => fitRuns 80 512 ((f, n) :: s.frameRuns i.core owner team) (s.inbound i.core)).map fun f =>
      s.onImage owner team fun i => { i with first := f, count := n, clean := [] }

/-- An image's run is freed. -/
def State.dropImage (s : State) (owner : Nat) (team : Bool) : State :=
  { s with ck := { s.ck with images := s.ck.images.filter fun i => !(decide (i.owner = owner) && i.team == team) } }

/-! ## Dirty frames (R408, R410) -/

/-- What frame 0 of a group image holds. -/
def Group.control (g : Group) : Group :=
  { Group.absent with stat := g.stat, mode := g.mode, helper := g.helper, uregs := g.uregs, preds := g.preds, win := g.win, splits := g.splits,
                      parked := g.parked, bc := g.bc, batches := g.batches, pins := g.pins, yreq := g.yreq, bankA := g.bankA, bankS := g.bankS,
                      bankF := g.bankF }

/-- Frame `k` holds in both groups what it held in the first. -/
def Group.sameFrame (o g : Group) (k : Nat) : Bool :=
  match k with
  | 0 => decide (o.control = g.control)
  | 1 => decide (o.log = g.log)
  | 2 => decide (o.latch = g.latch)
  | k + 3 =>
    if k < g.nregs / 32 then decide (k < o.nregs / 32) && decide (Store.slice o.vregs (1024 * k) 1024 = Store.slice g.vregs (1024 * k) 1024)
    else decide (o.nregs = g.nregs) && decide (Store.slice o.acc (1024 * (k - g.nregs / 32)) 1024 = Store.slice g.acc (1024 * (k - g.nregs / 32)) 1024)

/-- A team with its scratchpad and tags, as its image holds them. -/
def State.teamSnap (s : State) (t : Team) : Team × Store 8 × Store 1 :=
  if t.swapped then (t, t.image, t.imageTags)
  else (t, Store.slice s.onchip.scratch (scratchKey t.core t.base) t.size, Store.slice s.onchip.empty (tagKey t.core (t.base / 4)) (t.size / 4))

/-- Frame `k` of a team image holds what it held. -/
def sameTeamFrame (o n : Team × Store 8 × Store 1) (k : Nat) : Bool :=
  let pages := (n.1.size + 4095) / 4096
  if k = 0 then
    decide (o.1.xregs = n.1.xregs) && decide (o.1.xtiles = n.1.xtiles) && decide (o.1.cursor = n.1.cursor) && decide (o.1.queueR = n.1.queueR) &&
      decide (o.1.queueT = n.1.queueT)
  else if k ≤ pages then decide (Store.slice o.2.1 (4096 * (k - 1)) 4096 = Store.slice n.2.1 (4096 * (k - 1)) 4096)
  else decide (Store.slice o.2.2 (32768 * (k - 1 - pages)) 32768 = Store.slice n.2.2 (32768 * (k - 1 - pages)) 32768)

/-- Frame `k` of an image holds what was written there last. -/
def State.sameAsWritten (s : State) (i : Image) (k : Nat) : Bool :=
  if i.team then
    match i.snapT, s.team i.owner with
    | some o, some t => sameTeamFrame o (s.teamSnap t) k
    | _, _ => false
  else
    match i.snapG, s.find i.owner with
    | some o, some g => o.sameFrame g k
    | _, _ => false

/-- The dirty bits after a step: a frame that has changed stays dirty until it is written (R410). -/
def State.noteFrames (s : State) : State :=
  if s.ck.images.all fun i => i.clean.isEmpty then s
  else { s with ck := { s.ck with images := s.ck.images.map fun i => { i with clean := i.clean.filter (s.sameAsWritten i) } } }

/-- The frames of an image that a commit writes now, of so many. -/
def State.dirtyFrames (s : State) (i : Image) (n : Nat) : Nat :=
  ((List.range n).filter fun k => !(i.clean.contains k && s.sameAsWritten i k)).length

/-! ## Commits (R409, R410, R414) -/

/-- The header of a slot that is sealed. -/
def HSlot.header : HSlot → Option Header
  | .sealed h => some h
  | _ => none

/-- The newest sealed slot of an image. -/
def Image.newest (i : Image) : Option Header :=
  match i.slotA.header, i.slotB.header with
  | some a, some b => some (if a.sequ ≤ b.sequ then b else a)
  | some a, none => some a
  | none, b => b

/-- Slot A holds the newest sealed image: the next commit writes slot B. -/
def Image.writesB (i : Image) : Bool := i.slotA.header.isSome && decide (i.newest = i.slotA.header)

/-- A header is written in the slot that does not hold the newest sealed one, slot A if neither is sealed. -/
def Image.seal (i : Image) (epoch : W32) (reason : Nat) (c : BitVec 12) (j : BitVec 8) (ls : Nat) : Image :=
  let h : Header := { sequ := match i.newest with | some x => x.sequ + 1#32 | none => 1#32, epoch := epoch, first := i.first, count := i.count, team := i.team,
                      reason := reason, ctx := c, inc := j, ls := ls }
  if i.writesB then { i with slotB := .sealed h } else { i with slotA := .sealed h }

/-- The slot of an image that a commit has begun to write, and that no seal has ended: it is not sealed (R414). -/
def Image.tear (i : Image) : Image := if i.writesB then { i with slotB := .unsealed } else { i with slotA := .unsealed }

/-- The image of a group is written: its dirty frames, then the header and the seal; the number of frames. -/
def State.commitG (s : State) (g : Group) (epoch : W32) (reason : Nat) : State × Nat :=
  match s.imageOf g.gid false with
  | none => (s, 0)
  | some i => (s.onImage g.gid false fun x => { x.seal epoch reason g.ctx g.inc g.lslot.toNat with snapG := some g, clean := List.range g.frames }, s.dirtyFrames i g.frames)

/-- The current incarnation of a context. -/
def State.incOf (s : State) (c : BitVec 12) : BitVec 8 := match s.ctx c with | some x => x.cur | none => 0

/-- The image of a team is written. -/
def State.commitT (s : State) (t : Team) (epoch : W32) (reason : Nat) : State × Nat :=
  match s.imageOf t.tid true with
  | none => (s, 0)
  | some i => (s.onImage t.tid true fun x => { x.seal epoch reason t.ctx (s.incOf t.ctx) t.ls with snapT := some (s.teamSnap t), clean := List.range t.frames }, s.dirtyFrames i t.frames)

/-! ## A stopped group (R319, R411) -/

/-- The split waits in a tagged instruction or a TBWAIT, which the log holds (R168, R229). -/
def Group.waitsLogged (g : Group) (e : Nat) : Bool :=
  g.log.any fun x => decide (x.entry = e) && ((tagOp x.i).isSome || match x.i with | .tbwait .. => true | _ => false)

/-- What a split waits for once its group is stopped: a YIELD stays in force, an ACCRD keeps its place in the matrix queue, an instruction in the log is sent from there
again; every other held instruction is issued again (R171, R404). -/
def stoppedWait (g : Group) (e : Nat) (x : Split) : Wait :=
  match x.wait with
  | .yield p c n => .yield p c n
  | .queued => if g.waitsLogged e || g.mqueue.any fun o => decide (o.kind = .accrd) && decide (o.entry = e) then .queued else .none
  | .retryParked _ => .queued
  | _ => .none

/-- A group as it stands when it is stopped: its pending lanes are to re-issue; commands of the storage processor stay there. -/
def Group.stopped (g : Group) : Group :=
  let rest := fun (e : Nat) => (g.split e).map fun x => { x with wait := stoppedWait g e x }
  { g with splits := (List.range g.splits.length).map rest,
           log := g.log.map fun x => if flashCommand x.i then x else { x with flight := 0 } }

/-- Nothing of the group is half done: no atomic that has performed waits for its response, no GMIG for its move (R150, R319). -/
def State.evictable (s : State) (g : Group) : Bool :=
  g.trap.isNone && g.gmove.isNone && s.m.reqs.all fun r => decide (r.gid ≠ g.gid) || !r.performed

/-- Every store, atomic and reduction of the group is complete, and every APPEND accepted (R411). -/
def State.drainedGroup (s : State) (g : Group) : Bool :=
  g.trap.isNone && (s.m.reqs.all fun r => decide (r.gid ≠ g.gid) || decide (r.kind = .load) || (decide (r.kind = .store) && r.accepted)) &&
    g.log.all fun x => (match x.i with | .append .. => decide (x.flight = 0#32) | _ => true)

/-- A yield is requested of a resident group, with a deadline YGRACE ticks away (R122, R319). -/
def State.askYield (s : State) (gid : Nat) : State :=
  s.onGroup gid fun g =>
    if g.place = .resident ∧ g.yreq.getLsbD 63 = false then
      { g with yreq := 0x8000000000000000#64 ||| ((s.dev.time + s.dev.ygrace.setWidth 64).setWidth 48).setWidth 64 }
    else g

/-- A group is stopped where it is. -/
def State.stopGroup (s : State) (gid : Nat) : State :=
  ((s.withdraw gid).leaveQueues gid).onGroup gid Group.stopped

/-! ## A team swapped out and in (R320–R322) -/

/-- The core number under which a swapped-out team's reservations are kept. -/
def shelf (tid : Nat) : Nat := 1024 + tid

/-- The contents of a run of an operand buffer move, with their poison marks (R432). -/
def OnChip.moveOp (o : OnChip) (src so dst d n : Nat) : OnChip :=
  { o with opbuf := Store.replace (Store.clear o.opbuf (opKey src so) n) (opKey dst d) n (Store.slice o.opbuf (opKey src so) n),
           opmark := Store.replace (Store.clear o.opmark (opKey src so) n) (opKey dst d) n (Store.slice o.opmark (opKey src so) n) }

/-- The frames that the contents of a team's reservations take (R408). -/
def State.reservFrames (s : State) (tid : Nat) : Nat := (s.teamReservs tid).foldl (fun n r => n + (r.size + 4095) / 4096) 0

/-- The images of a team's swap fit the shadow (R320, R408). -/
def State.swapFits (s : State) (t : Team) : Bool := (s.resizeImage t.tid true (t.frames + s.reservFrames t.tid)).isSome

/-- The eviction of some groups of a team swaps it out: no other group of it is left that is not evicted (R320). -/
def State.lastOf (s : State) (t : Team) (vs : List Nat) : Bool :=
  !t.swapped && (s.teamGroups t.tid).all fun x => decide (x.place = .evicted) || vs.any fun v => decide (v = x.gid)

/-- The team's words, tags, armed slots and reservations leave the core (R320). -/
def State.swapOut (s : State) (tid : Nat) : State :=
  match s.team tid with
  | none => s
  | some t =>
    if t.swapped then s
    else
      let img := s.teamSnap t
      let rs := s.teamReservs tid
      let o1 := rs.foldl (fun (o : OnChip) r => o.moveOp r.core r.off (shelf tid) r.off r.size) s.onchip
      let o2 : OnChip := { o1 with
        scratch := Store.clear o1.scratch (scratchKey t.core t.base) t.size,
        empty := Store.clear o1.empty (tagKey t.core (t.base / 4)) (t.size / 4),
        reservs := o1.reservs.map fun r => if r.tid = tid then { r with core := shelf tid } else r,
        armed := o1.armed.map fun a => if a.tid = tid then { a with index := 64 } else a }
      let s1 := ((s.resizeImage tid true (t.frames + s.reservFrames tid)).getD s)
      { s1 with onchip := o2 }.onTeam tid fun x => { x with swapped := true, image := img.2.1, imageTags := img.2.2 }

/-- One reservation takes the lowest free run of a core (R322). -/
def State.placeReserv (s : State) (core : Nat) (r : Reserv) : Option State :=
  match s.freeOp core r.size with
  | none => none
  | some off =>
    let o := s.onchip.moveOp r.core r.off core off r.size
    let put := fun (x : Reserv) => if x.tid = r.tid ∧ x.idx = r.idx then { x with core := core, off := off } else x
    some { s with onchip := { o with reservs := o.reservs.map put } }

/-- One armed slot takes the lowest free entry of a core's table; word 3 of the slot names it (R174). -/
def State.placeArmed (s : State) (t : Team) (core : Nat) (a : Armed) : Option State :=
  match s.freeArmed core with
  | none => none
  | some k =>
    let put := fun (x : Armed) => if x.tid = a.tid ∧ x.slot = a.slot then { x with core := core, index := k } else x
    let s1 := s.setTeamWord t (a.slot + 12) (BitVec.ofNat 32 (0xBA000000 + k * 0x10000 + a.slot / 16))
    some { s1 with onchip := { s1.onchip with armed := s1.onchip.armed.map put } }

/-- A fold that stops at the first step that fails. -/
def foldSome {α : Type} (f : State → α → Option State) : List α → State → Option State
  | [], s => some s
  | x :: t, s => (f s x).bind (foldSome f t)

/-- A swapped-out team comes back to a core at a base of its scratchpad: entries, reservations and contents (R322); none where something
finds no room. -/
def State.swapIn (s : State) (tid core base : Nat) : Option State :=
  match s.team tid with
  | none => none
  | some t =>
    let rs := s.teamReservs tid
    if 32 < (s.onchip.reservs.filter fun r => decide (r.core = core)).length + rs.length then none
    else
      (foldSome (fun s a => s.placeArmed t core a) (s.onchip.armed.filter fun a => decide (a.tid = tid)) s).bind fun s1 =>
        (foldSome (fun s r => s.placeReserv core r) rs s1).map fun s2 =>
          let img := (s2.team tid).getD t
          let s3 := (s2.resizeImage tid true t.frames).getD s2
          { s3 with onchip := { s3.onchip with
              scratch := Store.replace s3.onchip.scratch (scratchKey core base) t.size img.image,
              empty := Store.replace s3.onchip.empty (tagKey core (base / 4)) (t.size / 4) img.imageTags } }.onTeam tid fun x =>
            { x with core := core, base := base, swapped := false, image := [], imageTags := [] }

end Sys2Proof.Machine
end

