-- ==== Sys2Proof/Machine/Reissue.lean ====
section
/-!
DEFINITION. Sys2Proof/Machine/Reissue.lean: the lanes that a return or a resume finds pending in the operand log are issued again (R171, R205,
R206, R404), with the operands as the log holds them.
-/

namespace Sys2Proof.Machine

open Sys2Proof

/-- A CKCLOSE in the log waits for the interval it closed (R404, R429). -/
def State.launchCk (s : State) (seq : Nat) : State :=
  (s.onG fun g => { g with log := g.log.map fun x => if x.seq = seq then { x with flight := x.pend } else x }).settleCk

/-- An APSEAL in the log is sent again: a rollback has taken its stream back to Open (R370, R374). While the home of a leaf cannot take its rewriting it is not in flight, and is
sent at a later try. -/
def State.launchApseal (s : State) (e : LogEntry) : State :=
  match s.stream e.aux with
  | none => s.onG fun g => g.logResult e 0xC2000000#32
  | some x =>
    if x.st ≠ .opened then s.onG fun g => g.logResult e (sealWord x true)
    else
      let y := s.toSeal x
      if x.durable = x.accepted then
        (if s.sealReady (sealName x.base) y then (s.sealStream y).onG fun g => g.logResult e (sealWord y false) else s.awaitAll (sealName x.base) (y.leaves.map (·.1)))
      else
        let fly := fun (z : LogEntry) => if z.seq = e.seq then { z with flight := z.pend } else z
        (s.onStream x.base fun _ => { y with st := .sealing }).onG fun g => { g with log := g.log.map fly }

/-- An APPEND in the log is sent again. -/
def Group.resend (g : Group) (seq : Nat) : Group :=
  { g with log := g.log.map fun x => if x.seq = seq then { x with flight := x.pend } else x }

/-- A split waits in the queue of a word or of a barrier slot, or is retry-parked. -/
def State.inQueue (s : State) (g : Group) (e : Nat) : Bool :=
  (s.onchip.waits.any fun x => x.queue.any fun w => decide (w.gid = g.gid) && decide (w.entry = e)) ||
    (s.onchip.barWaits.any fun w => decide (w.gid = g.gid) && decide (w.entry = e)) ||
    match g.split e with | some x => (match x.wait with | .retryParked _ => true | _ => false) | none => false

/-- The pending lanes of one log entry are issued again, unless the instruction waits already. -/
def State.reissueEntry (s : State) (seq : Nat) : State :=
  match s.g.entryOf seq with
  | none => s
  | some e =>
    let waits := s.inQueue s.g e.entry
    if (accSpec e.i e.mode).isSome then s.launchLog seq
    else if (tagOp e.i).isSome then (if waits then s else s.launchTag seq)
    else
      match e.i with
      | .tbwait .. => if waits then s else s.launchBar seq
      | .ired .. => s.launchIred seq
      | .lwait .. => s.launchLwait seq
      | .apwait .. => if e.flight = 0#32 then s.launchApwait seq else s
      | .ckclose .. => s.launchCk seq
      | .apseal .. => if e.flight = 0#32 then s.launchApseal e else s
      | .append .. => s.onG fun g => g.resend seq
      | _ => s

/-- The pending lanes of the named log entries of the group in focus are issued again; those of a parked group wait (R333). -/
def State.reissueAll (s : State) (seqs : List Nat) : State :=
  if s.g.parking.isSome then s else seqs.foldl State.reissueEntry s

/-- The pending lanes of the group in focus are issued again, in the order of their instructions. -/
def State.reissue (s : State) : State := s.reissueAll (s.g.log.map (·.seq))

end Sys2Proof.Machine
end

