-- ==== Sys2Proof/Machine/Checkpoint.lean ====
section
/-!
DEFINITION. Sys2Proof/Machine/Checkpoint.lean: checkpoint intervals (R422–R429), their close, commit and rollback, the scan rotation (R430, R431)
and memory and link errors (R432–R434), major 0x7D: CKCLOSE.
-/

namespace Sys2Proof.Machine

open Sys2Proof

/-! ## The close of an interval (R422, R423) -/

/-- The groups of a context. -/
def State.groupsOf (s : State) (c : BitVec 12) : List Group := s.groups.filter fun g => g.present && decide (g.ctx = c)

/-- The staging-cache lines that hold a dirty word of a context. -/
def State.dirtyOf (s : State) (c : BitVec 12) : List KeelLine := s.m.keel.filter fun k => k.dirty.any fun d => decide (d.ctx = c)

/-- A group stands where its image can be taken: drained (R411), and no gondola carries it. -/
def State.imageable (s : State) (g : Group) : Bool :=
  (match g.place with | .moving _ => false | _ => true) && s.drainedGroup g

/-- The context's work can be stopped and drained now; no IRED command is between two of its lines (R423). -/
def State.closeReady (s : State) (c : BitVec 12) : Bool :=
  (s.groupsOf c).all s.imageable && ((s.dirtyOf c).all fun k => s.lineReady (closeName c) k) && s.eng.ired.all fun q => decide (q.ctx ≠ c) || !q.begun

/-- A close that must wait writes back the dirty lines of the context that can be, the others wait at their homes. -/
def State.closeMark (s : State) (c : BitVec 12) : State := s.pushLines (closeName c) (s.dirtyOf c)

/-- A team as its boundary image holds it, with its words, tags and reservations taken off the core. -/
def State.shelved (s : State) (c : BitVec 12) : State := (s.teams.filter fun t => decide (t.ctx = c)).foldl (fun s t => s.swapOut t.tid) s

/-- A group of a boundary image: where it stood, with every pending lane to be issued again. DESIGN CHOICE (log 90): a request to yield and a parking end with the
rollback that restores it; what parked is deferred again where it still is. -/
def Group.boundary (g : Group) : Group :=
  { g with place := .evicted, yreq := 0, forced := false, parking := none, log := g.log.map fun x => { x with flight := 0 },
           gmove := g.gmove.map fun (m : GMove) => { m with dest := none, reason := 2 } }

/-- The boundary images of a context at the close of its open interval (R423). -/
def State.boundaryOf (s : State) (c : BitVec 12) (n : Nat) : Boundary :=
  let t := s.shelved c
  let mine := fun (tid : Nat) => t.teams.any fun x => decide (x.ctx = c) && decide (x.tid = tid)
  { c := c, n := n, groups := (s.groupsOf c).map Group.boundary, teams := t.teams.filter fun x => decide (x.ctx = c),
    launches := s.launches.filter fun l => decide (l.ctx = c) && !l.free, armed := t.onchip.armed.filter fun a => mine a.tid,
    reservs := t.onchip.reservs.filter fun r => mine r.tid,
    opbuf := t.onchip.opbuf.filter fun p => decide (1024 ≤ p.1 / 0x40000) && mine (p.1 / 0x40000 - 1024),
    opmark := t.onchip.opmark.filter fun p => decide (1024 ≤ p.1 / 0x40000) && mine (p.1 / 0x40000 - 1024),
    cmds := s.eng.cmds.filter fun k => decide (k.ctx = c), nb := s.eng.nb.filter fun q => decide (q.ctx = c),
    ired := s.eng.ired.filter fun q => decide (q.ctx = c) }

/-- INTERVAL_CLOSE (R423): everything of the context stops and drains, the homes take the next interval, the boundary images are written,
and what stopped goes on. `fix` changes what an image records of the group that executes CKCLOSE. -/
def State.closeInterval (s : State) (c : BitVec 12) (fix : Group → Group) : State :=
  match s.ctx c with
  | none => s
  | some x =>
    let run := ((s.groupsOf c).filter fun g => decide (g.place = .resident)).map (·.gid)
    let s1 := ((s.dirtyOf c).foldl (fun s k => s.writeBack k.cache k.line true) s).forgetName (closeName c)
    let s2 := run.foldl State.stopGroup s1
    let b := s2.boundaryOf c x.opened
    let iv : Interval := { c := c, n := x.opened, st := .closed, closedAt := s.dev.time,
                           cores := (s2.ck.ran.filter fun p => decide (p.2 = c)).map (·.1) }
    let mark := fun (y : Stream) => if y.owner = c then { y with closes := y.closes ++ [(x.opened, y.accepted)] } else y
    let s3 : State := { s2 with
      ck := { s2.ck with intervals := s2.ck.intervals ++ [iv], bounds := s2.ck.bounds ++ [{ b with groups := b.groups.map fix }],
                         ran := s2.ck.ran.filter fun p => decide (p.2 ≠ c) },
      fl := { s2.fl with streams := s2.fl.streams.map mark } }
    let s4 := s3.onCtx c fun y => { y with opened := y.opened + 1, openedAt := s.dev.time }
    run.foldl (fun s gid => s.inGroup gid State.reissue) s4

/-- The context is Live. -/
def State.isLive (s : State) (c : BitVec 12) : Bool := match s.ctx c with | some x => x.live | none => false

/-- The open interval of a Live context closes when a test of the context holds. -/
def State.closeWhen (s : State) (c : BitVec 12) (p : Ctx → Bool) : State :=
  match s.ctx c with
  | some x => if !(x.live && p x) then s else if s.closeReady c then s.closeInterval c id else s.closeMark c
  | none => s

/-- INTERVAL_AGE_EXPIRY (R422): 2^28 ticks after it opened. -/
def execIntervalAgeExpiry (c : BitVec 12) (s : State) : Result :=
  occur s fun s => s.closeWhen c fun x => decide (x.openedAt.toNat + 2 ^ 28 ≤ s.dev.time.toNat)

/-- The context's log has reached 75% of its share with the records of its open interval (R422). DEDUCED (log 91): a log that closed intervals alone keep above it
does not close the next one. -/
def State.shareReached (s : State) (x : Ctx) : Bool :=
  let own := s.ck.logs.filter fun r => decide (r.c = x.c)
  let old := own.filter fun r => decide (r.n ≠ x.opened)
  decide (3 * s.shareOf x.c ≤ 4 * own.length) && decide (4 * old.length < 3 * s.shareOf x.c)

/-- LOG_SHARE_THRESHOLD (R422). -/
def execLogShareThreshold (c : BitVec 12) (s : State) : Result := occur s fun s => s.closeWhen c s.shareReached

/-! ## CKCLOSE (R429) -/

/-- The trap of CKCLOSE's words. -/
def ckTrap (w f : W32) : Option W32 := if bits w.toNat 31 12 ≠ 0 then some w else if bits f.toNat 31 1 ≠ 0 then some f else none

/-- CKCLOSE need not wait: it traps, its context is not Live, or the close can be made; where it waits for the commit it needs a log entry (R429). -/
def State.ckGo (s : State) (a b : Reg) : Bool :=
  match s.issuer with
  | none => true
  | some l => (ckTrap (s.rd a l) (s.rd b l)).isSome || !s.isLive ((s.rd a l).setWidth 12) ||
      (s.closeReady ((s.rd a l).setWidth 12) && (!(s.rd b l).getLsbD 0 || s.g.freeEntry.isSome))

/-- The group that executes CKCLOSE, in its own boundary image: complete, with committed 1 (R423). -/
def ckImage (gid seq : Nat) (d : Reg) (m : W32) (n : Nat) (g : Group) : Group :=
  if g.gid ≠ gid then g
  else
    let g1 := { (g.freeLog seq).disown seq with wins := g.wins.filter fun w => decide (w.id ≠ seq) }
    match g1.regPlace d with
    | none => g1
    | some p => g1.assign seq p m fun _ => BitVec.ofNat 32 (0xC0000000 + n % 0x1000000)

/-- CKCLOSE of a Live context. -/
def State.ckRun (s : State) (i : Instr) (d : Reg) (c : BitVec 12) (wait : Bool) (n : Nat) : State :=
  let fix := ckImage s.g.gid s.seq d s.grd n
  if wait then
    let e : LogEntry :=
      { id := s.g.freeEntry.getD 0, seq := s.seq, i := i, mode := s.md, entry := s.entry, lanes := s.act, pend := s.grd, flight := 0, addr := [],
        val := Store.put [] 0 (c.setWidth 64), val2 := [], dst := s.g.dst d false, aux := n }
    ((((s.openWin 0 true).onG fun g => ({ g with log := g.log ++ [e] }).owe e.seq e.dst e.pend).done).closeInterval c fix).launchCk e.seq
  else ((s.wr d fun _ => BitVec.ofNat 32 (0x80000000 + n % 0x1000000)).done).closeInterval c fix

/-- CKCLOSE that cannot close yet holds its split. -/
def State.ckHold (s : State) (a : Reg) : State :=
  match s.issuer with
  | none => s.hold
  | some l => s.holdMarked (s.closeMark ((s.rd a l).setWidth 12))

/-- CKCLOSE (R429): one operation in the issuing lane, none without one. -/
def execCkclose (d a b : Reg) (s : State) : Result :=
  issueOr (.ckclose d a b) s (fun s => s.ckGo a b) (fun s => s.ckHold a) fun s =>
    match s.issuer with
    | none => s.done
    | some l =>
      let c := (s.rd a l).setWidth 12
      match ckTrap (s.rd a l) (s.rd b l), s.ctx c with
      | some w, _ => s.raise (.ckclose d a b) 0x02 (w.setWidth 64)
      | none, some x =>
        if x.live then s.ckRun (.ckclose d a b) d c ((s.rd b l).getLsbD 0) x.opened else (s.wr d fun _ => 0x01000000#32).done
      | none, none => (s.wr d fun _ => 0x01000000#32).done

/-! ## Commit (R425, R426) -/

/-- The lowest closed interval of a context; every earlier one is Committed or Discarded. -/
def State.oldestClosed (s : State) (c : BitVec 12) : Option Interval :=
  (s.ck.intervals.filter fun i => decide (i.c = c) && decide (i.st = .closed)).foldl (fun b i =>
    match b with
    | none => some i
    | some x => some (if i.n < x.n then i else x)) none

/-- Every core that ran the context in the interval has completed a passing scan that started after its close. -/
def State.scansPassed (s : State) (i : Interval) : Bool :=
  i.cores.all fun k => match (s.coreRec k).passAt with | some t => decide (i.closedAt < t) | none => false

/-- The length that a stream reaches durably with the commit of interval `n`. -/
def Stream.lengthAt (x : Stream) (n : Nat) : Nat := (x.closes.filter fun p => decide (p.1 ≤ n)).foldl (fun m p => max m p.2) x.durable

/-- The streams that are Sealed by the commit of interval `n` of a context (R375). -/
def State.sealsAt (s : State) (c : BitVec 12) (n : Nat) : List Stream :=
  s.fl.streams.filter fun x => decide (x.owner = c) && decide (x.st = .sealing) && decide (x.sealv ≤ x.lengthAt n)

/-- INTERVAL_COMMIT's effect. -/
def State.commit (s : State) (i : Interval) : State :=
  let done := fun (y : Interval) => if y.c = i.c ∧ y.n = i.n then { y with st := .committed } else y
  let grow := fun (x : Stream) => if x.owner = i.c then
      { x with durable := x.lengthAt i.n, closes := x.closes.filter fun p => decide (i.n < p.1) } else x
  let seals := (s.sealsAt i.c i.n).map (·.base)
  let s1 : State := { s with
    ck := { s.ck with intervals := s.ck.intervals.map done,
                      logs := s.ck.logs.filter fun r => !(decide (r.c = i.c) && decide (r.n ≤ i.n)),
                      bounds := s.ck.bounds.filter fun b => decide (b.c ≠ i.c) || decide (i.n ≤ b.n) },
    fl := { s.fl with streams := s.fl.streams.map grow } }
  let close := fun (s : State) (b : Nat) => match s.stream b with | some x => s.sealStream x | none => s
  ((seals.foldl close (s1.onCtx i.c fun x => { x with poisoned := false })).settleApwaits).settleCk

/-- INTERVAL_COMMIT (R426): the oldest closed interval of a Live context commits. -/
def execIntervalCommit (c : BitVec 12) (s : State) : Result :=
  occur s fun s =>
    match s.oldestClosed c with
    | none => s
    | some i =>
      if !s.isLive c || !s.scansPassed i then s
      else if (s.sealsAt c i.n).all fun x => s.sealReady (sealName x.base) x then s.commit i
      else (s.sealsAt c i.n).foldl (fun s x => s.awaitAll (sealName x.base) (x.leaves.map (·.1))) s

/-! ## Rollback (R427, R452) -/

/-- A sector of a line is clean in memory and in L2. -/
def MemSys.cleanOf (m : MemSys) (line j : Nat) : MemSys :=
  { m with poison := m.poison.filter fun k => decide (k ≠ 4 * line + j),
           l2 := m.l2.map fun y => if y.line = line then { y with bad := y.bad &&& ~~~(sectorBit j) } else y }

/-- The old words of a record return to DRAM and to an L2 copy, each as it stood (DESIGN CHOICE, log 107), as initial writes (R427); a sector it restores whole is clean
(R433). -/
def State.restoreLine (s : State) (r : LogRec) : State :=
  let words := (List.range 32).filter fun k => r.mask.getLsbD k
  let put := fun (m : MemSys) (k : Nat) =>
    let pa := 128 * r.line + 4 * k
    let m1 := { m with
      mem := Store.putLE m.mem pa 4 (Store.getLE r.bank (4 * k) 4),
      l2 := m.l2.map fun (y : L2Line) => if y.line = r.line then { y with count := 0, data := Store.putLE y.data (4 * k) 4 (Store.getLE r.old (4 * k) 4) } else y }
    m1.initial pa 4
  let clean := fun (m : MemSys) (j : Nat) => if (List.range 8).all fun k => r.mask.getLsbD (8 * j + k) then m.cleanOf r.line j else m
  { s with m := (List.range 4).foldl clean (words.foldl put s.m) }

/-- The lines that the records of a context name leave the staging caches, their dirty words performed: those of other contexts keep their value (R427). -/
def State.undoRecalls (s : State) (c : BitVec 12) : State := (s.ck.logs.filter fun r => decide (r.c = c)).foldl (fun s r => s.recall r.line) s

/-- The records of a context's Closed and Open intervals, newest interval first. -/
def State.undoLog (s : State) (c : BitVec 12) : List LogRec :=
  ((s.ck.logs.filter fun r => decide (r.c = c)).foldr (fun r l => (l.takeWhile fun x => decide (r.n < x.n)) ++ r :: l.dropWhile fun x => decide (r.n < x.n)) [])

/-- The last committed boundary of a context; an empty one where no interval has committed (R422). -/
def State.lastBound (s : State) (c : BitVec 12) : Boundary :=
  let ok := fun (b : Boundary) => decide (b.c = c) && s.ck.intervals.any fun i => decide (i.c = c) && decide (i.n = b.n) && decide (i.st = .committed)
  ((s.ck.bounds.filter ok).foldl (fun (r : Option Boundary) b => match r with | some x => some (if x.n < b.n then b else x) | none => some b) none).getD
    { c := c, n := 0, groups := [], teams := [], launches := [], armed := [], reservs := [], opbuf := [], opmark := [], cmds := [], nb := [], ired := [] }

/-- A launch of a context at its rollback (R452); one of an incarnation that a kill has ended stays as it is. -/
def rollLaunch (b : Boundary) (inc : BitVec 8) (l : Launch) : Launch :=
  if l.ctx ≠ b.c ∨ l.free then l
  else
    match b.launches.find? fun x => decide (x.slot = l.slot) && decide (x.sequ = l.sequ) with
    | some x => { x with inc := inc, victims := [], vcores := [] }
    | none => { l with st := .ended, fault := true, free := true, ended := pktTeams l.packet, wgen := 0, victims := [], vcores := [] }

/-- The launch pins that the launches of a context hold are taken from, or added to, their generations' counts. -/
def State.countPins (s : State) (ls : List Launch) (add : Bool) : State :=
  (ls.filter fun l => decide (l.wgen ≠ 0)).foldl (fun s l => s.onRec (pktWset l.packet) l.wgen fun _ r =>
    { r with lpins := if add then r.lpins + 1 else r.lpins - 1 }) s

/-- LAUNCH_ROLLBACK (R452). -/
def State.rollLaunches (s : State) (b : Boundary) (inc : BitVec 8) : State :=
  let mine := fun (s : State) => s.launches.filter fun l => decide (l.ctx = b.c)
  let s1 := s.countPins (mine s) false
  let s2 : State := { s1 with launches := s1.launches.map (rollLaunch b inc) }
  s2.countPins (mine s2) true

/-- A group of a boundary comes back under the new incarnation; no core holds it yet. DESIGN CHOICE (log 96): its stamps F and O, which neither R186 nor R202 gives, are
the TIME of the rollback. -/
def restoreGroup (inc : BitVec 8) (time : W64) (g : Group) : Group :=
  { g with core := 1023, inc := inc, fstamp := time, ostamp := time, appended := 0 }

/-- A command of a boundary comes back: one that ran waits for the streamer of the core where its team is placed, and goes on at its prefix (R236, R245). -/
def restoreCmd (inc : BitVec 8) (time : W64) (k : Command) : Command :=
  { k with core := shelf k.tid, inc := inc, st := if k.st = .running then .queued else k.st, since := time, deferred := none }

/-- The groups, teams and suspended work of a boundary come back (R423, R427). -/
def State.restoreWork (s : State) (b : Boundary) (inc : BitVec 8) : State :=
  let s1 := (b.groups.map (restoreGroup inc s.dev.time)).foldl State.addGroup s
  let s2 : State := { s1 with
    teams := s1.teams ++ b.teams.map fun t => { t with core := 1023, migrated := false },
    onchip := { s1.onchip with armed := s1.onchip.armed ++ b.armed, reservs := s1.onchip.reservs ++ b.reservs,
                               opbuf := Store.merge s1.onchip.opbuf 0 b.opbuf, opmark := Store.merge s1.onchip.opmark 0 b.opmark },
    eng := { s1.eng with cmds := s1.eng.cmds ++ b.cmds.map (restoreCmd inc s.dev.time),
                         nb := s1.eng.nb ++ b.nb.map fun q => { q with inc := inc }, ired := s1.eng.ired ++ b.ired.map fun q => { q with inc := inc } } }
  (b.groups.flatMap (·.pins)).foldl (fun s p => s.onRec p.ws p.gen fun _ r => { r with gpins := r.gpins + 1 }) s2

/-- The intervals of a context after its boundary are discarded, with their records, images and releases of pins. -/
def State.discard (s : State) (b : Boundary) : State :=
  let drop := fun (i : Interval) => if i.c = b.c ∧ i.st = .closed then { i with st := .discarded } else i
  let lift := fun (r : GenRec) => { r with released := r.released.filter fun p => !(decide (p.1 = b.c) && decide (b.n < p.2)) }
  { s with
    ck := { s.ck with intervals := s.ck.intervals.map drop, logs := s.ck.logs.filter fun r => decide (r.c ≠ b.c),
                      bounds := s.ck.bounds.filter fun x => decide (x.c ≠ b.c) || decide (x.n = b.n),
                      ran := s.ck.ran.filter fun p => decide (p.2 ≠ b.c) },
    fl := { s.fl with sets := s.fl.sets.map fun w => { w with recs := w.recs.map lift } } }

/-- ROLLBACK's effect: memory, then the work of the last committed boundary, under the current incarnation, in place of all that the context had. -/
def State.rollBack (s : State) (x : Ctx) : State :=
  let b := s.lastBound x.c
  let s0 := s.undoRecalls x.c
  let s1 := (s0.undoLog x.c).foldl State.restoreLine s0
  let s2 := (((s1.rollLaunches b x.cur).discard b).dropGroups fun g => decide (g.ctx = x.c)).restoreWork b x.cur
  let s3 := s2.onCtx x.c fun y =>
    { y with rolling := false, live := true, opened := y.opened + 1, openedAt := s.dev.time,
             draining := y.draining.filter fun j => decide (j ≠ x.cur) && decide (j ≠ x.cur - 1#8) }
  (s3.forgetName (rollName x.c)).settleLwaits.settleCk

/-- Nothing holds back the restoring of a context's lines. -/
def State.undoReady (s : State) (c : BitVec 12) : Bool := (s.ck.logs.filter fun r => decide (r.c = c)).all fun r => s.partReady (rollName c) (128 * r.line)

/-- ROLLBACK (R427): once the old incarnation has drained. -/
def execRollback (c : BitVec 12) (s : State) : Result :=
  occur s fun s =>
    match s.ctx c with
    | none => s
    | some x => 
      if !x.rolling || !s.tagGone c (x.cur - 1#8) || !s.tagGone c x.cur then s
      else if s.undoReady c then s.rollBack x
      else s.awaitAll (rollName c) ((s.ck.logs.filter fun r => decide (r.c = c)).map fun r => 128 * r.line)

/-! ## Scan rotation (R430, R431) -/

/-- The groups that are resident on a core. -/
def State.resident (s : State) (core : Nat) : List Group := s.groups.filter fun g => decide (g.place = .resident) && decide (g.core = core)

/-- A core is closed to placement: by DRAIN, by a failed scan, by its own scan, or while it waits for one (R366, R430, R431). -/
def State.shutCore (s : State) (core : Nat) : Bool :=
  let k := s.coreRec core
  k.closed || k.failed || k.scan.isSome || s.ck.scanSkipped.any fun x => decide (x = core)

/-- Some core is being scanned. -/
def State.scanning (s : State) : Bool := s.ck.cores.any fun k => k.scan.isSome

/-- The ticks of a scan, and from the start of one to the next. -/
def scanTicks : Nat := 8000000

/-- A gondola takes the group to the core, or away from it (R147). -/
def Group.inFlight (g : Group) (core : Nat) : Bool := match g.place with | .moving t => decide (t = core) || decide (g.core = core) | _ => false

/-- A core whose scan waits and that no group is resident on, or on its way. -/
def State.scannable (s : State) : Option Nat :=
  s.ck.scanSkipped.find? fun k => (s.resident k).isEmpty && (s.groups.all fun g => !g.inFlight k) && !s.lapsed k

/-- A group can leave its core: its image and, for the last of a team, the team's fit the shadow (R320). -/
def State.canLeave (s : State) (g : Group) : Bool := match s.teamOf g with | some t => !s.lastOf t [g.gid] || s.swapFits t | none => false

/-- The resident groups of a core whose images fit the shadow are asked to yield (R319, R366). -/
def State.clearCore (s : State) (core : Nat) : State := (((s.resident core).filter s.canLeave).map (·.gid)).foldl State.askYield s

/-- The next core of the rotation is closed to placement and its groups are asked to leave; a failed core is passed over. -/
def State.rotate (s : State) : State :=
  let k := s.ck.scanNext
  let s1 : State := { s with ck := { s.ck with scanNext := (k + 1) % 256, scanTime := s.ck.scanTime + BitVec.ofNat 64 scanTicks } }
  if (s.coreRec k).failed then s1
  else
    let s2 : State := { s1 with ck := { s1.ck with scanSkipped := if s1.ck.scanSkipped.any fun x => decide (x = k) then s1.ck.scanSkipped else s1.ck.scanSkipped ++ [k] } }
    s2.clearCore k

/-- SCAN_START (R430): while no core is being scanned, a drained core's scan begins; else the skipped cores are cleared of what now fits the
shadow, and at its time the next core is drained. -/
def execScanStart (s : State) : Result :=
  occur s fun s =>
    match (if s.scanning then none else s.scannable) with
    | some k =>
      ({ s with ck := { s.ck with scanSkipped := s.ck.scanSkipped.filter fun x => decide (x ≠ k) } } : State).onCore k fun r => { r with scan := some s.dev.time }
    | none =>
      let s1 := s.ck.scanSkipped.foldl State.clearCore s
      if s.dev.time < s.ck.scanTime then s1 else s1.rotate

/-- SCAN_PASS (R430): the patterns have run for 8,000,000 ticks; the core opens again. -/
def execScanPass (core : Nat) (s : State) : Result :=
  occur s fun s =>
    match (s.coreRec core).scan with
    | some t =>
      if t.toNat + scanTicks ≤ s.dev.time.toNat then s.onCore core fun r => { r with scan := none, passAt := some t, ranSince := [] } else s
    | none => s

/-- SCAN_FAIL (R431): the core is closed, every context that ran on it since its last pass is rolled back, its images are discarded. -/
def execScanFail (core : Nat) (s : State) : Result :=
  occur s fun s =>
    let k := s.coreRec core
    if k.scan.isNone then s
    else
      let mine := s.ck.images.filter fun i => decide (i.core = core)
      let held := s.groups.filter fun g => g.present && mine.any fun i => !i.team && decide (i.owner = g.gid)
      let s1 := (s.count 0x428 1).onCore core fun r => { r with scan := none, failed := true, ranSince := [] }
      let s2 := (k.ranSince ++ held.map (·.ctx)).foldl State.startRollback s1
      { s2 with ck := { s2.ck with images := s2.ck.images.filter fun i => decide (i.core ≠ core) } }

/-- The caches of a core are empty: its L1, its instruction cache, its TLBs and walk caches (R411). -/
def MemSys.coldCore (m : MemSys) (core : Nat) : MemSys :=
  { m with l1 := m.l1.filter fun x => decide (x.core ≠ core), icache := m.icache.filter fun x => decide (x.core ≠ core),
           tlb := m.tlb.filter fun x => decide (x.core ≠ core), tables := m.tables.filter fun x => decide (x.core ≠ core) }

/-- SPARE_REPAIR (R11, R431): once the rollbacks are done, a spare of the quarter that has passed a scan takes the identifier, its column memory
zero, its shadow empty. -/
def execSpareRepair (core : Nat) (s : State) : Result :=
  occur s fun s =>
    let q := quarterOf core
    if core < 256 ∧ (s.coreRec core).failed ∧ Store.get s.ck.spares q ≠ 0 ∧ Store.get s.ck.passed q ≠ 0 ∧ (s.ctxs.all fun x => !x.rolling) then
      let s1 : State := { s with
        ck := { s.ck with spares := Store.put s.ck.spares q (Store.get s.ck.spares q - 1), passed := Store.put s.ck.passed q (Store.get s.ck.passed q - 1) },
        onchip := { s.onchip with column := Store.clear s.onchip.column (columnKey core 0) 0x800000,
                                  colbuf := s.onchip.colbuf.filter fun u => decide (u.core ≠ core) },
        m := s.m.coldCore core }
      s1.onCore core fun r => { r with failed := false, epoch := 0, opened := false, commitAt := 0, resumedAt := none }
    else s

/-! ## Memory and link errors (R432–R434) -/

/-- What is kept of a channel. -/
def State.channel (s : State) (ch : Nat) : Channel :=
  (s.fab.channels.find? fun c => decide (c.ch = ch)).getD { ch := ch, calAt := 0, recovery := false, failing := 0 }

/-- Changes what is kept of a channel. -/
def State.onChannel (s : State) (ch : Nat) (f : Channel → Channel) : State :=
  { s with fab := { s.fab with channels := (s.fab.channels.filter fun c => decide (c.ch ≠ ch)) ++ [f (s.channel ch)] } }

/-- CHANNEL_RECALIBRATION (R434): at the interval that firmware sets. -/
def execChannelRecalibration (ch : Nat) (s : State) : Result :=
  occur s fun s =>
    if ch < 128 ∧ (s.channel ch).calAt.toNat + s.fab.calEvery.toNat ≤ s.dev.time.toNat then s.onChannel ch fun c => { c with calAt := s.dev.time } else s

/-- The channel has failed: every later request to it returns poison, and firmware is told (R434). -/
def State.deadChannel (s : State) (ch : Nat) : State :=
  if s.m.dead.any fun k => decide (k = ch) then s
  else { s with m := { s.m with dead := s.m.dead ++ [ch] }, fw := { s.fw with failed := s.fw.failed ++ [ch] } }

/-- An uncorrectable read of a sector: the channel retrains in recovery mode and reads again. A clean second read is a link error; else the sector is poisoned. After
three retrainings in a row that fail the channel has failed (R434). -/
def State.recoverChannel (s : State) (ch sector : Nat) (trained clean : Bool) : State :=
  let s1 := s.count 0x425 1
  if trained then
    let s2 := s1.onChannel ch fun c => { c with recovery := false, failing := 0 }
    if clean then s2.count 0x424 1 else s2.poisonSector sector
  else
    let s2 := s1.onChannel ch fun c => { c with recovery := true, failing := c.failing + 1 }
    if (s2.channel ch).failing < 3 then s2 else s2.deadChannel ch

/-- CHANNEL_RECOVERY (R434). -/
def execChannelRecovery (ch sector : Nat) (trained clean : Bool) (s : State) : Result :=
  occur s fun s => if tierOf (32 * sector) ≠ some .hbm ∨ channelAt (32 * sector) ≠ ch then s else s.recoverChannel ch sector trained clean

/-- MEMORY_ERROR (R432): a corrected error is counted; an uncorrectable one poisons its sector, in HBM4E once its channel has retrained and read it again (R434). -/
def execMemoryError (pa : Nat) (corrected : Bool) (s : State) : Result :=
  occur s fun s =>
    match corrected, tierOf pa with
    | true, some .hbm => (s.count 0x420 1).meventAt pa none 0x06
    | true, some .lpd => (s.count 0x422 1).meventAt pa none 0x06
    | true, _ => s
    | false, some .hbm => s.recoverChannel (channelAt pa) (pa / 32) true false
    | false, _ => s.poisonSector (pa / 32)

end Sys2Proof.Machine
end

