-- ==== Sys2Proof/Machine/Distributor.lean ====
section
/-!
DEFINITION. Sys2Proof/Machine/Distributor.lean: placement (R125, R126, R307, R308, R314, R315, R439), pre-emption, eviction and resume (R122, R123,
R318–R322), and DRAIN (R366).
-/

namespace Sys2Proof.Machine

open Sys2Proof

/-! ## The room of a core (R125) -/

/-- What a team needs of a core: a place among its teams, group slots, registers, tiles, scratchpad bytes, image runs, tether slots, armed entries, operand-buffer runs. -/
structure Need where
  teams : Nat
  groups : Nat
  regs : Nat
  tiles : Nat
  scratch : Nat
  frames : List Nat
  tether : Nat
  armed : Nat
  ops : List Nat
  deriving DecidableEq, Repr

/-- A group takes up room on a core: it is there, or a gondola brings it. -/
def Group.uses (g : Group) (core : Nat) : Bool :=
  match g.place with
  | .resident | .lapsed => decide (g.core = core)
  | .moving dest => decide (g.core = core) || decide (dest = core)
  | _ => false

/-- The groups that take up room on a core when those of a list are gone. -/
def State.users (s : State) (core : Nat) (gone : List Nat) : List Group := s.groups.filter fun g => g.uses core && gone.all fun x => decide (x ≠ g.gid)

/-- The teams that are on a core when the groups of a list are gone. -/
def State.teamsOn (s : State) (core : Nat) (gone : List Nat) : List Team :=
  let stays := fun (t : Team) => gone.isEmpty || s.groups.any fun g => g.present && decide (g.tid = t.tid) && decide (g.place ≠ .evicted) &&
    gone.all fun x => decide (x ≠ g.gid)
  s.teams.filter fun t => decide (t.core = core) && !t.swapped && stays t

/-- The packet of a team's launch. -/
def State.teamPacket (s : State) (t : Team) : Store 8 := match s.slot t.ls with | some l => l.packet | none => []

/-- The vector registers of a core in use (R125, R141). DESIGN CHOICE (log 77): the extended units of a team are those of the core where the team was placed, also
where a group that has migrated holds some of them. -/
def State.regsUsed (s : State) (core : Nat) (gone : List Nat) : Nat :=
  (s.users core gone).foldl (fun n g => n + g.base) ((s.teamsOn core gone).foldl (fun n t => n + 32 * pktXregs (s.teamPacket t)) 0)

/-- The accumulator tiles of a core in use (R125, R141). -/
def State.tilesUsed (s : State) (core : Nat) (gone : List Nat) : Nat :=
  (s.users core gone).length + (s.teamsOn core gone).foldl (fun n t => n + pktXtiles (s.teamPacket t)) 0

/-- The scratchpad runs of a core in use. -/
def State.scratchRuns (s : State) (core : Nat) (gone : List Nat) : List (Nat × Nat) :=
  ((s.teamsOn core gone).filter fun t => decide (t.size ≠ 0)).map fun t => (t.base, t.size)

/-- Registers, tiles, slots and teams of a core suffice when the groups of a list are gone. -/
def State.countsFit (s : State) (core : Nat) (gone : List Nat) (n : Need) : Bool :=
  decide (s.regsUsed core gone + n.regs ≤ 4096) && decide (s.tilesUsed core gone + n.tiles ≤ 64) &&
    decide ((s.users core gone).length + n.groups ≤ 64) && decide ((s.teamsOn core gone).length + n.teams ≤ 16)

/-- A core has a free scratchpad run when the groups of a list are gone. -/
def State.scratchFits (s : State) (core : Nat) (gone : List Nat) (n : Need) : Bool :=
  decide (n.scratch = 0) || (firstFit 0 0x40000 (s.scratchRuns core gone) n.scratch).isSome

/-- What an eviction does not free: image runs and entries, those of the groups on their way to the core among them, tether slots, armed entries, operand-buffer runs
and records. -/
def State.restFits (s : State) (core : Nat) (n : Need) : Bool :=
  let frames := s.inbound core ++ n.frames
  fitRuns 80 512 ((s.ck.images.filter fun i => decide (i.core = core)).map fun i => (i.first, i.count)) frames &&
    decide ((s.ck.images.filter fun i => decide (i.core = core)).length + frames.length ≤ 128) &&
    decide ((s.eng.cmds.filter fun c => decide (c.core = core)).length + n.tether ≤ 16) &&
    decide ((s.onchip.armed.filter fun a => decide (a.core = core) && decide (a.index < 64)).length + n.armed ≤ 64) &&
    decide ((s.onchip.reservs.filter fun r => decide (r.core = core)).length + n.ops.length ≤ 32) &&
    fitRuns 0 0x40000 ((s.onchip.reservs.filter fun r => decide (r.core = core)).map fun r => (r.off, r.size)) n.ops

/-- The core takes no placement: it is closed (R366, R430, R431) or lapsed. -/
def State.unavailable (s : State) (core : Nat) : Bool := s.shutCore core || s.lapsed core

/-! ## The next gang of a launch (R314, R427) -/

/-- The teams of a launch that a rollback has restored and that no core holds yet. -/
def State.unplaced (s : State) (l : Launch) : List Team :=
  s.teams.filter fun t => decide (t.ls = l.slot) && decide (t.ctx = l.ctx) && decide (t.core = 1023)

/-- The TIDX of the teams of the next gang, with a restored team where there is one. -/
def State.nextGang (s : State) (l : Launch) : List (Nat × Option Team) :=
  let g := pktGang l.packet
  match s.unplaced l with
  | [] => if l.placed < pktTeams l.packet then (List.range g).map fun i => (l.placed + i, none) else []
  | t :: ts =>
    let k := ts.foldl (fun m x => min m (x.tidx / g)) (t.tidx / g)
    (List.range g).filterMap fun i => ((t :: ts).find? fun x => decide (x.tidx = g * k + i)).map fun x => (x.tidx, some x)

/-- What a new team of a launch needs. -/
def freshNeed (p : Store 8) : Need :=
  let n := pktSize p
  { teams := 1, groups := n, regs := n * pktRegs p + 32 * pktXregs p, tiles := n + pktXtiles p, scratch := pktScratch p,
    frames := List.replicate n (4 + pktRegs p / 32) ++ [1 + (pktScratch p + 4095) / 4096 + (pktScratch p + 131071) / 131072],
    tether := 0, armed := 0, ops := [] }

/-- What a restored team needs. -/
def State.restoredNeed (s : State) (p : Store 8) (t : Team) : Need :=
  let gs := s.teamGroups t.tid
  { teams := 1, groups := gs.length, regs := gs.foldl (fun n g => n + g.base) (32 * pktXregs p), tiles := gs.length + pktXtiles p, scratch := t.size,
    frames := gs.map Group.frames ++ [t.frames], tether := (s.eng.cmds.filter fun c => decide (c.tid = t.tid)).length,
    armed := (s.onchip.armed.filter fun a => decide (a.tid = t.tid)).length, ops := (s.teamReservs t.tid).map (·.size) }

/-- What each team of the next gang needs. -/
def State.gangNeeds (s : State) (l : Launch) : List Need :=
  (s.nextGang l).map fun x => match x.2 with | some t => s.restoredNeed l.packet t | none => freshNeed l.packet

/-! ## Room that is being freed (R318) -/

/-- What two pieces of work need together. -/
def Need.add (a b : Need) : Need :=
  { teams := a.teams + b.teams, groups := a.groups + b.groups, regs := a.regs + b.regs, tiles := a.tiles + b.tiles, scratch := a.scratch + b.scratch,
    frames := a.frames ++ b.frames, tether := a.tether + b.tether, armed := a.armed + b.armed, ops := a.ops ++ b.ops }

/-- What the gangs need that a core is being cleared for, but for one launch's, with the groups that leave it for them. -/
def State.claims (s : State) (core : Nat) (ls : Option Nat) : List (Need × List Nat) :=
  (s.launches.filter fun l => decide (some l.slot ≠ ls)).filterMap fun l =>
    ((l.vcores.zip (s.gangNeeds l)).find? fun p => decide (p.1 = core)).map fun p => (p.2, l.victims)

/-- A run for some work, at the lowest place that is free now, leaves runs for what the core is being cleared for. -/
def State.scratchLeft (s : State) (core : Nat) (gone : List Nat) (n : Need) (claims : List (Need × List Nat)) : Bool :=
  let want := (claims.map fun p => p.1.scratch).filter fun k => decide (k ≠ 0)
  let later := s.scratchRuns core (gone ++ claims.flatMap (·.2))
  if n.scratch = 0 then fitRuns 0 0x40000 later want
  else
    match firstFit 0 0x40000 (s.scratchRuns core gone) n.scratch with
    | none => false
    | some b => fitRuns 0 0x40000 ((b, n.scratch) :: later) want

/-- Work on a core takes nothing of the room that is being freed there for the gangs of other launches (R318): they fit beside it once their victims are gone. -/
def State.leavesRoom (s : State) (core : Nat) (ls : Option Nat) (gone : List Nat) (n : Need) : Bool :=
  match s.claims core ls with
  | [] => true
  | cs =>
    let all := cs.foldl (fun a p => a.add p.1) n
    s.countsFit core (gone ++ cs.flatMap (·.2)) all && s.restFits core all && s.scratchLeft core gone n cs

/-- Work fits a core: its counts, its run, the rest, and what is being freed there for others (R125, R318). -/
def State.hasRoom (s : State) (core : Nat) (ls : Option Nat) (n : Need) : Bool :=
  !s.unavailable core && s.countsFit core [] n && s.scratchFits core [] n && s.restFits core n && s.leavesRoom core ls [] n

/-- A team fits a core for a launch. -/
def State.fits (s : State) (core ls : Nat) (n : Need) : Bool := s.hasRoom core (some ls) n

/-- The launch has a gang to place, and its context is Live. -/
def State.wantsPlace (s : State) (l : Launch) : Bool :=
  (decide (l.st = .queued) || decide (l.st = .running)) && s.liveTag l.ctx l.inc && !(s.nextGang l).isEmpty

/-! ## The choice of cores (R314, R439) -/

/-- The sets of `n` elements of a list, in ascending order. -/
def subsetsOf : Nat → List Nat → List (List Nat)
  | 0, _ => [[]]
  | _ + 1, [] => []
  | n + 1, x :: t => (subsetsOf n t).map (fun l => x :: l) ++ subsetsOf (n + 1) t

/-- The cores of a cluster. -/
def clusterCores (k : Nat) : List Nat := (List.range 4).map fun i => 4 * k + i

/-- The lowest set of a cluster's cores that can hold a gang. -/
def State.clusterFit (s : State) (ls : Nat) (ns : List Need) (k : Nat) : Option (List Nat) :=
  (subsetsOf ns.length (clusterCores k)).find? fun cs => (cs.zip ns).all fun p => s.fits p.1 ls p.2

/-- The forecast and the placement limit that a decision uses: those from before the updates of its own tick (R439). -/
def State.latched (s : State) : W64 × W32 :=
  match s.dev.thWas with
  | some (t, f, l) => if t = s.dev.time then (f, l) else (s.dev.thfc, s.dev.thlim)
  | none => (s.dev.thfc, s.dev.thlim)

/-- The quarter of a cluster qualifies: its forecast is below the limit and not older than 4,000,000 ticks (R439). -/
def State.qualifies (s : State) (k : Nat) : Bool :=
  let f := s.latched.1.toNat
  let q := k / 16
  decide ((s.dev.time.toNat + 2 ^ 32 - bits f 63 32) % 2 ^ 32 ≤ 4000000) && decide (bits f (8 * q + 7) (8 * q) < s.latched.2.toNat % 256)

/-- The free vector registers of a cluster. -/
def State.clusterFree (s : State) (k : Nat) : Nat := (clusterCores k).foldl (fun n c => n + (4096 - s.regsUsed c [])) 0

/-- The clusters that fit a gang, each with its cores and R314's first two keys; a gang needs the same registers wherever it goes. -/
def State.candidates (s : State) (ls : Nat) (ns : List Need) : List (Nat × Nat × List Nat) :=
  (List.range 64).filterMap fun k => (s.clusterFit ls ns k).map fun cs => ((if s.qualifies k then 0 else 1), s.clusterFree k, cs)

/-- The cores a gang is placed on: the first by R314's rules; the list ascends in core identifiers. -/
def bestOf (cs : List (Nat × Nat × List Nat)) : Option (List Nat) :=
  (cs.foldl (fun (b : Option (Nat × Nat × List Nat)) x =>
    match b with
    | none => some x
    | some y => if x.1 < y.1 ∨ (x.1 = y.1 ∧ x.2.1 < y.2.1) then some x else some y) none).map fun x => x.2.2

/-- The cores for the next gang of a launch; none where no cluster fits. -/
def State.gangCores (s : State) (l : Launch) : Option (List Nat) := bestOf (s.candidates l.slot (s.gangNeeds l))

/-- Launch `a` comes before `b`: higher priority, then the older LAUNCH (R314). -/
def Launch.before (a b : Launch) : Bool :=
  decide (pktPrio b.packet < pktPrio a.packet) || (decide (pktPrio a.packet = pktPrio b.packet) && decide (a.order < b.order))

/-- No launch that comes before could be placed now. -/
def State.isNext (s : State) (l : Launch) : Bool :=
  s.launches.all fun x => !(s.wantsPlace x && !pktControl x.packet && x.before l && (s.gangCores x).isSome)

/-! ## Placing a team (R127–R129, R140, R155, R307, R308) -/

/-- The lanes of a group of a launch that are live or helpers, and its helper lanes (R307). -/
def groupLanes (p : Store 8) (tidx gidx : Nat) : W32 × W32 :=
  if pktControl p then (1, 0)
  else if tidx + 1 = pktTeams p ∧ gidx + 1 = pktSize p ∧ pktLast p ≠ 0 then
    let c := pktLast p
    let q := 4 * ((c + 3) / 4)
    (maskOf fun l => decide (l < q), maskOf fun l => decide (c ≤ l) && decide (l < q))
  else (BitVec.allOnes 32, 0)

/-- A group at its start (R28, R114, R127, R129, R140, R186, R308, R343); one on a control core holds no tile (R315). -/
def startGroup (l : Launch) (gid tid tidx gidx core slot order : Nat) : Group :=
  let p := l.packet
  let m := groupLanes p tidx gidx
  let args := Store.put (Store.put [] 0 ((pktArgs p).setWidth 32)) 1 ((pktArgs p >>> 32).setWidth 32)
  { Group.absent with
    gid := gid, place := .resident, core := core, slot := slot, ctx := l.ctx, inc := l.inc, lslot := BitVec.ofNat 8 l.slot, tid := tid,
    tidx := BitVec.ofNat 32 tidx, gidx := BitVec.ofNat 5 gidx, gang := BitVec.ofNat 2 (tidx % pktGang p), prio := pktPrio p, started := order,
    stat := if l.ctx = 0#12 then 1 else 0, mode := 0x20#32 ||| (if pktPrecise p then 0x4000#32 else 0), helper := m.2, uregs := args,
    nregs := pktRegs p, base := pktRegs p, win := { Window.init with wsp := BitVec.ofNat 32 (pktSlice p) },
    splits := [some { Split.init with pc := pktEntry p, mask := m.1 }, none, none, none], ntiles := if pktControl p then 0 else 1 }

/-- The lowest free group slots of a core. -/
def State.freeSlots (s : State) (core n : Nat) : List Nat :=
  ((List.range 64).filter fun k => (s.users core []).all fun g => decide (g.slot ≠ k)).take n

/-- A new team with its groups on a core. -/
def State.placeFresh (s : State) (l : Launch) (tidx core : Nat) : State :=
  let p := l.packet
  let n := pktSize p
  let tid := s.seq + 1
  let base := if pktScratch p = 0 then 0 else (firstFit 0 0x40000 (s.scratchRuns core []) (pktScratch p)).getD 0
  let t : Team :=
    { tid := tid, ls := l.slot, tidx := tidx, core := core, ctx := l.ctx, base := base, size := pktScratch p, xregs := pktXregs p, xtiles := pktXtiles p,
      queueR := [], queueT := [], cursor := rangeStart p tidx, gens := [], migrated := false, swapped := false, image := [], imageTags := [] }
  let slots := s.freeSlots core n
  let s1 : State := { s with
    seq := s.seq + 1 + n, teams := s.teams ++ [t],
    onchip := { s.onchip with scratch := Store.clear s.onchip.scratch (scratchKey core base) (pktScratch p),
                              empty := Store.clear s.onchip.empty (tagKey core (base / 4)) (pktScratch p / 4) } }
  let add := fun (s : State) (i : Nat) =>
    let g := startGroup l (tid + 1 + i) tid tidx i core (slots.getD i 0) (tid + 1 + i)
    (s.addGroup g).newImage core g.gid false g.frames
  ((List.range n).foldl add s1).newImage core tid true t.frames

/-- The commands of a restored team take tether slots of its core, in their order (R236). -/
def State.homeCommands (s : State) (tid core : Nat) : State :=
  ((s.eng.cmds.filter fun c => decide (c.tid = tid)).map (·.seq)).foldl (fun s q =>
    let k := (s.freeTether core).getD 0
    { s with eng := { s.eng with cmds := s.eng.cmds.map fun c => if c.seq = q then { c with core := core, k := k } else c } }) s

/-- A group takes the lowest free slot of its core and goes on (R322). -/
def State.settleIn (s : State) (gid core : Nat) : State :=
  let slot := (s.freeSlots core 1).headD 0
  (s.onGroup gid fun g => { g with place := .resident, core := core, slot := slot }).inGroup gid State.reissue

/-- A restored team is placed anew on a core (R427). -/
def State.placeRestored (s : State) (t : Team) (core : Nat) : State :=
  let base := if t.size = 0 then 0 else (firstFit 0 0x40000 (s.scratchRuns core []) t.size).getD 0
  let gs := s.teamGroups t.tid
  let s1 := ((s.swapIn t.tid core base).getD s).homeCommands t.tid core
  let s2 := (gs.foldl (fun (s : State) g => s.newImage core g.gid false g.frames) s1).newImage core t.tid true t.frames
  gs.foldl (fun s g => s.settleIn g.gid core) s2

/-- One team of a gang is placed. -/
def State.placeTeam (s : State) (l : Launch) (x : (Nat × Option Team) × Nat) : State :=
  match x.1.2 with
  | some t => s.placeRestored t x.2
  | none => s.placeFresh l x.1.1 x.2

/-- The next gang of a launch goes to its cores; the launch runs (R310). -/
def State.placeGang (s : State) (l : Launch) (cores : List Nat) : State :=
  let g := s.nextGang l
  let new := (g.filter fun x => x.2.isNone).length
  ((g.zip cores).foldl (fun s x => s.placeTeam l x) s).onSlot l.slot fun x =>
    { x with st := .running, placed := x.placed + new, victims := [], vcores := [] }

/-- Some group selected for eviction to make room for the launch is still on its core (R318). -/
def State.evicting (s : State) (l : Launch) : Bool :=
  l.victims.any fun v => match s.find v with | some g => decide (g.place = .resident) | none => false

/-- GANG_PLACEMENT (R314, R318): the next gang of a launch of compute cores is placed whole, when no launch before it could be and every eviction made for it is
complete. -/
def execGangPlacement (ls : Nat) (s : State) : Result :=
  occur s fun s =>
    match s.slot ls with
    | none => s
    | some l =>
      if pktControl l.packet ∨ !s.wantsPlace l ∨ s.evicting l ∨ !s.isNext l then s
      else
        match s.gangCores l with
        | some cores => s.placeGang l cores
        | none => s

/-- The control core with the fewest resident groups that has a free slot, lowest number first (R315). -/
def State.controlCore (s : State) : Option Nat :=
  ((List.range 32).filter fun k => decide ((s.users (256 + k) []).length < 16)).foldl (fun (b : Option Nat) k =>
    match b with
    | none => some (256 + k)
    | some y => if (s.users (256 + k) []).length < (s.users y []).length then some (256 + k) else some y) none

/-- CONTROL_CORE_PLACEMENT (R315): the next solo group of a control-core launch. -/
def execControlCorePlacement (ls : Nat) (s : State) : Result :=
  occur s fun s =>
    match s.slot ls with
    | none => s
    | some l =>
      if !pktControl l.packet ∨ !s.wantsPlace l ∨ s.launches.any fun x => s.wantsPlace x && pktControl x.packet && x.before l then s
      else
        match s.controlCore with
        | some k => s.placeGang l [k]
        | none => s

/-! ## Pre-emption (R318, R319) -/

/-- The resident groups of a core that a launch may evict, lowest priority first, then the latest started. -/
def State.evictOrder (s : State) (core prio : Nat) : List Group :=
  ((s.resident core).filter fun g => decide (g.prio < prio)).foldr (fun g l =>
    (l.takeWhile fun x => x.prio < g.prio || (x.prio == g.prio && decide (g.started < x.started))) ++ g ::
      (l.dropWhile fun x => x.prio < g.prio || (x.prio == g.prio && decide (g.started < x.started)))) []

/-- Victims are added in order until a test holds. -/
def takeUntil (p : List Nat → Bool) : List Nat → List Group → Option (List Nat)
  | v, [] => if p v then some v else none
  | v, g :: t => if p v then some v else takeUntil p (v ++ [g.gid]) t

/-- Whole teams of lower priority that hold scratchpad are added in order until a test holds (R318). -/
def State.takeTeams (s : State) (core : Nat) (p : List Nat → Bool) : List Nat → List Group → Option (List Nat)
  | v, [] => if p v then some v else none
  | v, g :: t =>
    if p v then some v
    else if (match s.team g.tid with | some x => decide (x.size = 0) | none => true) then State.takeTeams s core p v t
    else
      let team := ((s.resident core).filter fun x => decide (x.tid = g.tid) && v.all fun y => decide (y ≠ x.gid)).map (·.gid)
      State.takeTeams s core p (v ++ team) t

/-- The images of all of some groups fit the shadow, and those of the teams that their eviction swaps out (R320). -/
def State.allLeave (s : State) (vs : List Nat) : Bool :=
  let tids := s.teams.filter fun t => s.lastOf t vs && vs.any fun v => match s.find v with | some g => decide (g.tid = t.tid) | none => false
  (foldSome (fun (s : State) (t : Team) => s.resizeImage t.tid true (t.frames + s.reservFrames t.tid)) tids s).isSome

/-- The victims on a core for a team of a launch; none where it cannot be made room for, their images not fitting the shadow included (R318, R320). -/
def State.victimsOn (s : State) (core prio ls : Nat) (n : Need) : Option (List Nat) :=
  if s.unavailable core || !s.restFits core n then none
  else
    let order := s.evictOrder core prio
    let room := (takeUntil (fun v => s.countsFit core v n) [] order).bind fun v => s.takeTeams core (fun v => s.countsFit core v n && s.scratchFits core v n) v order
    room.filter fun v => s.allLeave v && s.leavesRoom core (some ls) v n

/-- The victims on a set of cores. -/
def State.victimsFor (s : State) (prio ls : Nat) : List (Nat × Need) → Option (List Nat)
  | [] => some []
  | p :: t => (s.victimsOn p.1 prio ls p.2).bind fun v => (State.victimsFor s prio ls t).map fun w => v ++ w

/-- The cores that need the fewest evicted groups for a launch's next gang, with the victims; the lowest cores among equals. -/
def State.preemptPlan (s : State) (l : Launch) : Option (List Nat × List Nat) :=
  let ns := s.gangNeeds l
  let sets := (List.range 64).flatMap fun k => subsetsOf ns.length (clusterCores k)
  (sets.filterMap fun cs => (s.victimsFor (pktPrio l.packet) l.slot (cs.zip ns)).map fun v => (v, cs)).foldl
    (fun (b : Option (List Nat × List Nat)) x =>
      match b with
      | none => some x
      | some y => if x.1.length < y.1.length then some x else some y) none

/-- PREEMPTION (R318, R319): victims are chosen for a launch that no cluster fits, and each is asked to yield. -/
def execPreemption (ls : Nat) (s : State) : Result :=
  occur s fun s =>
    match s.slot ls with
    | none => s
    | some l =>
      if pktControl l.packet ∨ !s.wantsPlace l ∨ s.evicting l ∨ !s.isNext l ∨ (s.gangCores l).isSome then s
      else
        match s.preemptPlan l with
        | none => s
        | some (v, cs) => (v.foldl State.askYield s).onSlot ls fun x => { x with victims := v, vcores := cs }

/-- YREQ_EXPIRY (R123): the eviction is forced. -/
def execYreqExpiry (gid : Nat) (s : State) : Result :=
  occur s fun s => s.onGroup gid fun g => if g.place = .resident ∧ s.expired g.yreq then { g with forced := true } else g

/-! ## Eviction and resume (R320–R322) -/

/-- A group goes to the shadow of its core; with the last resident group of a team the team is swapped out (R320). -/
def State.evict (s : State) (g : Group) : State :=
  let epoch := (s.coreRec g.core).epoch
  let s1 := (s.stopGroup g.gid).onGroup g.gid fun x => { x with place := .evicted, yreq := 0, forced := false }
  let s2 := match s1.find g.gid with | some x => (s1.commitG x epoch 2).1 | none => s1
  let s3 := if (s2.coreRec g.core).drainer.isSome then s2.onCore g.core fun k => { k with drained := k.drained + 1 } else s2
  if (s3.teamGroups g.tid).all fun x => decide (x.place = .evicted) then
    let s4 := s3.swapOut g.tid
    match s4.team g.tid with
    | some t => (s4.commitT t epoch 2).1
    | none => s4
  else s3

/-- The pre-emptions that selected a group are given up: it cannot leave. Their other victims that have not stopped are not asked any more (R318, R320; DESIGN
CHOICE, log 80). -/
def State.giveUp (s : State) (gid : Nat) : State :=
  (s.launches.filter fun l => l.victims.contains gid).foldl (fun s l =>
    (s.mapGroups (fun g => g.present && l.victims.contains g.gid && decide (g.place = .resident) && (decide (g.gid = gid) || !g.forced)) fun g =>
      { g with yreq := 0, forced := false }).onSlot l.slot fun x => { x with victims := [], vcores := [] }) s

/-- The last group of a team that would be swapped out must wait: an access of another team to its scratchpad is in flight (R159; DESIGN CHOICE, log 81). -/
def State.teamHeld (s : State) (g : Group) : Bool :=
  match s.teamOf g with
  | none => false
  | some t => ((s.teamGroups t.tid).all fun x => decide (x.gid = g.gid) || decide (x.place = .evicted)) && s.runBusy t

/-- GROUP_EVICTION (R320): a group whose eviction is due leaves, if its images fit; where they do not it runs on. -/
def execGroupEviction (gid : Nat) (s : State) : Result :=
  occur s fun s =>
    match s.find gid with
    | none => s
    | some g =>
      if !g.forced ∨ g.place ≠ .resident ∨ 256 ≤ g.core ∨ !s.evictable g ∨ s.teamHeld g then s
      else if s.canLeave g then s.evict g
      else (s.giveUp gid).onGroup gid fun x => { x with yreq := 0, forced := false }

/-- What an evicted group needs of its core, with its team where that is swapped out (R322). -/
def State.resumeNeed (s : State) (g : Group) (t : Team) : Need :=
  let p := s.teamPacket t
  let n : Need := { teams := 0, groups := 1, regs := g.base, tiles := 1, scratch := 0, frames := [], tether := 0, armed := 0, ops := [] }
  if t.swapped then
    { n with teams := 1, regs := g.base + 32 * pktXregs p, tiles := 1 + pktXtiles p, scratch := t.size,
             armed := (s.onchip.armed.filter fun a => decide (a.tid = t.tid)).length, ops := (s.teamReservs t.tid).map (·.size) }
  else n

/-- An evicted group can resume on its core. -/
def State.resumes (s : State) (g : Group) : Bool :=
  match s.teamOf g with
  | none => false
  | some t =>
    let n := s.resumeNeed g t
    decide (g.place = .evicted) && decide (g.core < 256) && s.liveTag g.ctx g.inc && s.hasRoom g.core none n

/-- GROUP_RESUME (R322): by priority and then age; a swapped-out team comes back whole. -/
def execGroupResume (gid : Nat) (s : State) : Result :=
  occur s fun s =>
    match s.find gid with
    | none => s
    | some g =>
      if !s.resumes g ∨ s.groups.any fun h => h.present && decide (h.core = g.core) && h.ahead g && s.resumes h then s
      else
        match s.teamOf g with
        | none => s
        | some t =>
          let base := if t.size = 0 then 0 else (firstFit 0 0x40000 (s.scratchRuns g.core []) t.size).getD 0
          let s1 := if t.swapped then s.swapIn t.tid g.core base else some s
          match s1 with
          | none => s
          | some s2 =>
            let s3 := if t.swapped then s2.onImage t.tid true fun i => { i with clean := [] } else s2
            (s3.onImage gid false fun i => { i with clean := [] }).settleIn gid g.core

/-! ## DRAIN (R366) -/

/-- The trap of DRAIN's word: the reserved bits, or the core. -/
def State.drainTrap (s : State) (w : W32) : Option Nat :=
  if bits w.toNat 30 10 ≠ 0 then some 0x02
  else if 256 ≤ bits w.toNat 9 0 ∨ bits w.toNat 9 0 = s.g.core then some 0x09
  else none

/-- The issuing split, with the level of its group: the handler of a report that it takes while it holds is another (R366). -/
def State.holder (s : State) : Nat × Nat × Nat := (s.g.gid, s.entry, s.g.bank)

/-- The DRAIN of the issuing split holds on the core. -/
def State.draining (s : State) (core : Nat) : Bool := decide ((s.coreRec core).drainer = some s.holder)

/-- The operand of DRAIN: as the split read it when it began to hold, else as it reads now (R35, R366). -/
def State.drainWord (s : State) (a : Reg) (l : Nat) : W32 :=
  match s.ck.cores.find? fun k => decide (k.drainer = some s.holder) with
  | some k => BitVec.ofNat 32 k.core
  | none => s.rd a l

/-- The core closes to placement, and its groups that can leave are asked to. -/
def State.drainStart (s : State) (core : Nat) : State :=
  let s1 := if s.draining core then s else s.onCore core fun k => { k with closed := true, drained := 0, drainer := some s.holder }
  s1.clearCore core

/-- No group remains that could leave. -/
def State.drainDone (s : State) (core : Nat) : Bool := (s.resident core).all fun g => !s.canLeave g

/-- DRAIN need not hold its split. -/
def State.drainGo (s : State) (a : Reg) : Bool :=
  match s.issuer with
  | none => true
  | some l =>
    let w := s.drainWord a l
    (s.drainTrap w).isSome || w.getLsbD 31 || (s.shutCore (bits w.toNat 9 0) && !s.draining (bits w.toNat 9 0)) || s.drainDone (bits w.toNat 9 0)

/-- DRAIN holds its split: the core is closed and being cleared. -/
def State.drainHold (s : State) (a : Reg) : State :=
  match s.issuer with
  | none => s.hold
  | some l => (s.drainStart (bits (s.drainWord a l).toNat 9 0)).hold

/-- DRAIN's effect on a core, with its result. -/
def State.drainCore (s : State) (core : Nat) (reopen : Bool) : State × W32 :=
  if reopen then (s.onCore core fun k => { k with closed := false, drained := 0, drainer := none }, 0x80000000#32)
  else if s.shutCore core && !s.draining core then (s, 0x80000000#32)
  else
    let s1 := s.drainStart core
    let stay := !(s1.resident core).isEmpty
    (s1.onCore core fun k => { k with drainer := none },
      BitVec.ofNat 32 (0x80000000 + (if stay then 0x40000000 else 0) + (s1.coreRec core).drained % 0x10000))

/-- DRAIN (R366): one operation in the issuing lane, none without one. -/
def execDrain (d a : Reg) (s : State) : Result :=
  issueOr (.drain d a) s (fun s => s.drainGo a) (fun s => s.drainHold a) fun s =>
    match s.issuer with
    | none => s.done
    | some l =>
      let w := s.drainWord a l
      match s.drainTrap w with
      | some c => s.raise (.drain d a) c (w.setWidth 64)
      | none =>
        let r := s.drainCore (bits w.toNat 9 0) (w.getLsbD 31)
        (r.1.wr d fun _ => r.2).done

end Sys2Proof.Machine
end

