-- ==== Sys2Proof/Machine/Allotment.lean ====
section
/-!
DEFINITION. Sys2Proof/Machine/Allotment.lean: the extended allotment (R140–R144) and migration by gondola (R145–R151), majors 0x76 and 0x77: XACQ,
XREL and GMIG.
-/

namespace Sys2Proof.Machine

open Sys2Proof

/-! ## XACQ and XREL (R142–R144) -/

/-- The extended units of a kind that a group holds. -/
def Group.extUnits (g : Group) (tiles : Bool) : Nat := if tiles then g.ntiles - 1 else (g.nregs - g.base) / 32

/-- The group's window does not wrap around its ring (R142). -/
def Group.unwrapped (g : Group) : Bool := decide (g.win.rb ≤ g.win.wb) && decide (g.win.wb + 56 ≤ g.nregs)

/-- The issue checks that XACQ and XREL share (R142, R353). -/
def State.allotBad (s : State) : Bool := decide (s.g.bank ≠ 0) || !s.g.converged || !s.g.unwrapped

/-- The trap of XACQ for `n` units, with TVAL where that is not the word (R142). -/
def State.xacqTrap (s : State) (tiles : Bool) (n : Nat) : Option (Nat × Option W64) :=
  let p := s.packetOf s.g
  let never := if tiles then decide (16 < s.g.ntiles + n) || decide (pktXtiles p < n) else decide (1024 < s.g.nregs + 32 * n) || decide (pktXregs p < n)
  if s.allotBad then some (0x01, none) else if never then some (0x15, some (BitVec.ofNat 64 n)) else none

/-- The trap of XREL of `n` units (R142). -/
def State.xrelTrap (s : State) (tiles : Bool) (n : Nat) : Option (Nat × Option W64) :=
  if s.allotBad then some (0x01, none)
  else if s.g.extUnits tiles < n then some (0x15, some (BitVec.ofNat 64 n))
  else if !tiles ∧ s.g.nregs < s.g.win.wb + 56 + 32 * n then some (0x01, none)
  else none

/-- The frames of a group's image when it has gained units. -/
def Group.grown (g : Group) (n : Nat) : Nat := g.frames + n

/-- `n` units of the team's pool are free for the group, with the frames its image needs (R143, R408). -/
def State.unitsFree (s : State) (g : Group) (tiles : Bool) (n : Nat) : Bool :=
  match s.teamOf g with
  | none => false
  | some t => decide (n ≤ if tiles then t.xtiles else t.xregs) && (s.resizeImage g.gid false (g.grown n)).isSome

/-- The group takes `n` units from its team's pool: the registers and tiles read zero (R141). -/
def State.takeUnits (s : State) (tiles : Bool) (n : Nat) : State :=
  let s1 := (s.resizeImage s.g.gid false (s.g.grown n)).getD s
  let s2 := s1.onTeam s.g.tid fun t => if tiles then { t with xtiles := t.xtiles - n } else { t with xregs := t.xregs - n }
  s2.onG fun g => if tiles then { g with ntiles := g.ntiles + n, acc := Store.clear g.acc (1024 * g.ntiles) (1024 * n) }
    else { g with nregs := g.nregs + 32 * n, vregs := Store.clear g.vregs (32 * g.nregs) (1024 * n) }

/-- The group gives its last `n` units back, with their contents (R142). -/
def State.dropUnits (s : State) (tiles : Bool) (n : Nat) : State :=
  let s1 := s.onG fun g => if tiles then { g with ntiles := g.ntiles - n, acc := Store.clear g.acc (1024 * (g.ntiles - n)) (1024 * n) }
    else { g with nregs := g.nregs - 32 * n, vregs := Store.clear g.vregs (32 * (g.nregs - 32 * n)) (1024 * n) }
  let s2 := (s1.resizeImage s1.g.gid false s1.g.frames).getD s1
  s2.onTeam s.g.tid fun t => if tiles then { t with xtiles := t.xtiles + n } else { t with xregs := t.xregs + n }

/-- The result of both: the units of the kind held afterwards; then the next instruction. -/
def State.unitsDone (s : State) (d : Reg) (tiles : Bool) : State := (s.wr d fun _ => BitVec.ofNat 32 (s.g.extUnits tiles)).done

/-- A queue of the group's team (R143). -/
def State.unitQueue (s : State) (tiles : Bool) : List XWait :=
  match s.teamOf s.g with
  | some t => if tiles then t.queueT else t.queueR
  | none => []

/-- XACQ need not wait: it traps, asks for nothing, or finds the queue empty and its units free. -/
def State.xacqGo (s : State) (a : Reg) (tiles : Bool) : Bool :=
  let n := (s.value a).toNat
  (s.xacqTrap tiles n).isSome || decide (n = 0) || ((s.unitQueue tiles).isEmpty && s.unitsFree s.g tiles n)

/-- XACQ joins its team's queue (R143). -/
def State.joinUnits (s : State) (d a : Reg) (tiles : Bool) : State :=
  let w : XWait := { gid := s.g.gid, n := (s.value a).toNat, d := d }
  (s.onTeam s.g.tid fun t => if tiles then { t with queueT := t.queueT ++ [w] } else { t with queueR := t.queueR ++ [w] }).sleep .queued

/-- The trap of an allotment instruction. -/
def State.allotRaise (s : State) (i : Instr) (t : Nat × Option W64) : State := s.raise i t.1 (t.2.getD (wordVal i))

/-- XACQ (R142): extended units are acquired; the group waits in its team's queue where they are not free. -/
def execXacq (d a : Reg) (k : BitVec 6) (s : State) : Result :=
  let tiles := decide (k = 1#6)
  issueOr (.xacq d a k) s (fun s => s.xacqGo a tiles) (fun s => s.joinUnits d a tiles) fun s =>
    match s.xacqTrap tiles (s.value a).toNat with
    | some t => s.allotRaise (.xacq d a k) t
    | none => (s.takeUnits tiles (s.value a).toNat).unitsDone d tiles

/-- Nothing of the group still uses the units that XREL drops (R142, R144). -/
def State.unitsIdle (s : State) (tiles : Bool) (n : Nat) : Bool :=
  if tiles then s.g.mqueue.all fun o => decide (o.tile + n < s.g.ntiles)
  else s.g.owed.all fun o => decide (1024 ≤ o.place) || decide (o.place + 32 * n < s.g.nregs)

/-- XREL (R142): extended units are released once nothing uses them. -/
def execXrel (d a : Reg) (k : BitVec 6) (s : State) : Result :=
  let tiles := decide (k = 1#6)
  issueWhen (.xrel d a k) s (fun s => (s.xrelTrap tiles (s.value a).toNat).isSome || s.unitsIdle tiles (s.value a).toNat) fun s =>
    match s.xrelTrap tiles (s.value a).toNat with
    | some t => s.allotRaise (.xrel d a k) t
    | none => (s.dropUnits tiles (s.value a).toNat).unitsDone d tiles

/-- The granted XACQ of the group in focus issues and takes its units. -/
def State.grant (s : State) (w : XWait) (tiles : Bool) : State :=
  let e := ((List.range 4).find? fun k => (s.g.split k).isSome).getD 0
  ((({ s with entry := e } : State).start (.xacq w.d 63 (if tiles then 1 else 0))).takeUnits tiles w.n).unitsDone w.d tiles

/-- XACQ_GRANT (R143): the head of a team's queue is granted when its whole request is free. -/
def execXacqGrant (tid : Nat) (tiles : Bool) (s : State) : Result :=
  occur s fun s =>
    match s.team tid with
    | none => s
    | some t =>
      match (if tiles then t.queueT else t.queueR) with
      | [] => s
      | w :: rest =>
        match s.find w.gid with
        | none => s
        | some g =>
          if g.place ≠ .resident ∨ g.trap.isSome ∨ s.lapsed g.core ∨ !s.unitsFree g tiles w.n then s
          else
            let s1 := s.onTeam tid fun t => if tiles then { t with queueT := rest } else { t with queueR := rest }
            s1.inGroup w.gid fun s => s.grant w tiles

/-! ## GMIG (R145–R147) -/

/-- The cores nearest the home of an address. -/
def nearestCores (pa : Nat) : List Nat :=
  let best := (List.range 256).foldl (fun m k => min m (Config.distance k pa)) (Config.distance 0 pa)
  (List.range 256).filter fun k => decide (Config.distance k pa = best)

/-- A core has room for one more group (R147). -/
def State.roomFor (s : State) (g : Group) (core : Nat) : Bool :=
  let n : Need := { teams := 0, groups := 1, regs := g.nregs, tiles := 1, scratch := 0, frames := [g.frames], tether := 0, armed := 0, ops := [] }
  s.hasRoom core none n

/-- Where GMIG goes: of the nearest cores the lowest that has room or is its own (R147); else the reason it stays. -/
def State.lookup (s : State) (pa : Nat) : Option Nat × Nat :=
  match tierOf pa with
  | none | some .pool => (none, 3)
  | _ =>
    match (nearestCores pa).find? fun k => decide (k = s.g.core) || s.roomFor s.g k with
    | some t => if t = s.g.core then (none, 1) else (some t, 0)
    | none => (none, 2)

/-- The checks of GMIG before its address (R146, R353). -/
def State.gmigTrap (s : State) : Option Nat :=
  let size := match s.teamOf s.g with | some t => t.size | none => 0
  if s.g.bank ≠ 0 ∨ size ≠ 0 ∨ s.g.extUnits true ≠ 0 ∨ s.g.extUnits false ≠ 0 then some 0x01
  else if s.g.gidx.toNat = pktProducer (s.packetOf s.g) then some 0x0A
  else none

/-- The address of GMIG as a read. -/
def State.gmigXlate (s : State) (a : Reg) : State × Xlate := s.xlate s.g.asker .read (s.value64 a)

/-- GMIG need not wait: it traps, or its translation is at hand and no other GMIG of the group is under way. -/
def State.gmigGo (s : State) (a : Reg) : Bool :=
  s.gmigTrap.isSome || (s.g.gmove.isNone && decide ((s.gmigXlate a).2 ≠ .wait))

/-- GMIG (R145, R147): the move is looked up; it is made at the close of its window. -/
def execGmig (d a : Reg) (l : BitVec 4) (s : State) : Result :=
  issueOr (.gmig d a l) s (fun s => s.gmigGo a) (fun s => s.holdMarked (s.gmigXlate a).1) fun s =>
    let i := Instr.gmig d a l
    match s.gmigTrap with
    | some c => s.raise i c (wordVal i)
    | none =>
      match s.gmigXlate a with
      | (s1, .fault c w) => s1.raiseWalk i (if c = 0x10 then c else 0x06) (s.value64 a) w
      | (s1, .wait) => s1
      | (s1, .over) => s1
      | (s1, .ok pa _) =>
        let (t, r) := s1.lookup pa
        let dst := s1.g.dst d false
        let m : GMove := { id := s1.seq, dest := t, reason := r, dst := dst, grd := s1.grd }
        ((s1.openWin l.toNat true).onG fun g => ({ g with gmove := some m }).owe m.id dst m.grd).done

/-! ## The gondola (R147–R150) -/

/-- The status word of R145. -/
def moveWord (moved : Bool) (reason core : Nat) : W32 :=
  BitVec.ofNat 32 ((if moved then 0x80000000 else 0) + reason % 4 * 0x20000000 + core % 1024)

/-- The move is over: the status is written, the keep latch is empty (R261), and the group goes on. -/
def Group.endMove (g : Group) (m : GMove) (moved : Bool) (reason : Nat) : Group :=
  { (lanesOf m.grd).foldl (fun g l => g.deliverDst m.id m.dst l ((moveWord moved reason g.core).setWidth 64)) g with latch := none, gmove := none }

/-- The window of a GMIG has closed. -/
def Group.windowShut (g : Group) (id : Nat) : Bool := g.forced || g.trap.isSome || g.wins.all fun w => decide (w.id ≠ id) || decide (w.left = 0)

/-- The drain of R119 is complete but for the GMIG's own destination. -/
def State.moveReady (s : State) (g : Group) (m : GMove) : Bool :=
  g.windowShut m.id && g.log.isEmpty && g.mqueue.isEmpty && (g.owed.all fun o => decide (o.id = m.id)) &&
    (s.m.reqs.all fun r => decide (r.gid ≠ g.gid) || r.accepted) && s.eng.cmds.all fun c => decide (c.gid ≠ g.gid)

/-- The group arrives on its new core: slot, image and team follow (R148). Its fresh stamp is raised: no copy that the new core's L1 was granted before serves it, so
its loads see what it wrote (R149, R187). -/
def State.arriveAt (s : State) (g : Group) (m : GMove) (dest : Nat) : State :=
  let slot := ((List.range 64).find? fun k => (s.users dest []).all fun x => decide (x.gid = g.gid) || decide (x.slot ≠ k)).getD 0
  let s1 := s.onGroup g.gid fun x => (Group.raiseF { x with place := .resident, core := dest, slot := slot } s.dev.time).endMove m true 0
  let s2 := (s1.dropImage g.gid false).newImage dest g.gid false g.frames
  s2.onTeam g.tid fun t => { t with migrated := true }

/-- GONDOLA (R147): at the close of its window a group departs, or stays with its reason; in flight, it arrives, or stays where a tile has
lapsed (R150). -/
def execGondola (gid : Nat) (s : State) : Result :=
  occur s fun s =>
    match s.find gid with
    | none => s
    | some g =>
      match g.gmove, g.place with
      | some m, .resident =>
        if !s.moveReady g m then s
        else
          match m.dest with
          | none => s.onGroup gid fun x => x.endMove m false m.reason
          | some t =>
            if s.roomFor g t then s.onGroup gid fun x => { x with place := .moving t } else s.onGroup gid fun x => x.endMove m false 2
      | some m, .moving t =>
        if s.lapsed g.core then s
        else if s.lapsed t then s.onGroup gid fun x => { x with place := .resident }.endMove m false 2
        else if s.imageRoom t g.frames then s.arriveAt g m t
        else s
      | _, _ => s

end Sys2Proof.Machine
end

