-- ==== Sys2Proof/Machine/Flags.lean ====
section
/-!
DEFINITION. Sys2Proof/Machine/Flags.lean: the tests whose results this instruction set keeps in predicates, since it has no status flags
(R27, R48): integer and floating-point conditions (R82, R87), classes (R88), predicate logic (R106) and branch conditions (R109).
-/

namespace Sys2Proof.Machine

open Sys2Proof

/-- The condition of an integer compare on the sign of a difference (R82). -/
def condHolds (c : Nat) (d : Int) : Bool :=
  match c with
  | 0 => decide (d = 0)
  | 1 => decide (d ≠ 0)
  | 2 => decide (d < 0)
  | 3 => decide (d ≤ 0)
  | 4 => decide (0 < d)
  | _ => decide (0 ≤ d)

/-- The condition of a floating-point compare (R87); none: an operand is NaN. -/
def fcondHolds (c : Nat) (d : Option Int) : Bool :=
  match d with
  | none => decide (c = 1 ∨ c = 6)
  | some x => if c = 6 then false else if c = 7 then true else condHolds c x

/-- The class of an encoding, as a number of R88's table. -/
def FFmt.class (F : FFmt) (v : Nat) : Nat :=
  let g := F.mag v
  if F.infMag < g then (if g / 2 ^ (F.fb - 1) % 2 = 1 then 9 else 8)
  else
    let k := if g = F.infMag then 3 else if g = 0 then 0 else if g < 2 ^ F.fb then 1 else 2
    if F.neg v then 3 - k else 4 + k

/-- The predicate of a lane over the truth table of PLOG (R106). -/
def tableBit (t : BitVec 4) (a b : Bool) : Bool := t.getLsbD ((if a then 2 else 0) + if b then 1 else 0)

end Sys2Proof.Machine
end

