-- ==== Sys2Proof/Machine/IntAlu.lean ====
section
/-!
DEFINITION. Sys2Proof/Machine/IntAlu.lean: the integer and address instructions, majors 0x01 to 0x0A (R67–R83).
-/

namespace Sys2Proof.Machine

open Sys2Proof

/-- Truncated division with R73's cases: division by zero, and the most negative number by −1. -/
def divInt (sat sg : Bool) (w : Nat) (a b : Int) : Int :=
  if b = 0 then (if sg ∧ a < 0 then minInt sg w else maxInt sg w)
  else if sg ∧ a = minInt sg w ∧ b = -1 then (if sat then maxInt sg w else minInt sg w)
  else Int.tdiv a b

/-- The remainder A − q × B with R73's cases. -/
def remInt (a b : Int) : Int := if b = 0 then a else Int.tmod a b

/-- The quotient of the largest product by 2^w, rounded down (R72). -/
def mulHigh (w : Nat) (a b : Int) : Int := Int.fdiv (a * b) (2 ^ w : Nat)

/-- Not, on w bits. -/
def notBits (w v : Nat) : Nat := 2 ^ w - 1 - v % 2 ^ w

/-- A left shift by a count, on w bits (R76). -/
def shlBits (w n v : Nat) : Nat := if n < w then v * 2 ^ n % 2 ^ w else 0

/-- A right shift of an integer of T by a count (R76). -/
def shrInt (w n : Nat) (v : Int) : Int := if n < w then Int.fdiv v (2 ^ n : Nat) else if v < 0 then -1 else 0

/-- A rotation to the left by n mod w (R76). -/
def rotBits (w n v : Nat) : Nat := v * 2 ^ (n % w) % 2 ^ w + v / 2 ^ (w - n % w)

/-- The number of ones among the low `n` bits. -/
def popBits : Nat → Nat → Nat
  | 0, _ => 0
  | n + 1, v => v % 2 + popBits n (v / 2)

/-- The zeros above the highest one of w bits; w for zero (R77). -/
def clzBits (w v : Nat) : Nat := if v = 0 then w else w - 1 - Nat.log2 v

/-- The zeros below the lowest one among `n` bits; n for zero (R77). -/
def ctzBits : Nat → Nat → Nat
  | 0, _ => 0
  | n + 1, v => if v % 2 = 1 then 0 else 1 + ctzBits n (v / 2)

/-- The `n` low bits in reverse order (R77). -/
def revBits : Nat → Nat → Nat
  | 0, _ => 0
  | n + 1, v => v % 2 * 2 ^ n + revBits n (v / 2)

/-- BFX's field and its sign extension (R78): `c` holds pos in [5:0] and len in [13:8]. -/
def extractField (sg : Bool) (w c v : Nat) : Int :=
  let len := min (bits c 13 8) w
  let f := v / 2 ^ bits c 5 0 % 2 ^ len
  if sg ∧ 0 < len then Int.bmod f (2 ^ len) else f

/-- BFI's result (R78): the low bits of `v` inserted into `d`. -/
def insertField (w c v d : Nat) : Nat :=
  let pos := bits c 5 0
  let len := min (min (bits c 13 8) w) (w - pos)
  if w ≤ pos then d
  else d / 2 ^ (pos + len) * 2 ^ (pos + len) + v % 2 ^ len * 2 ^ pos + d % 2 ^ pos

/-- Byte k of a word, as an integer. -/
def byteInt (sg : Bool) (v : W32) (k : Nat) : Int := wrapInt sg 8 ((byteOf v.toNat k).toNat : Int)

/-- DOT4's exact sum (R74). -/
def dotFour (sg : Bool) (d a b : W32) : Int :=
  (List.range 4).foldl (fun x k => x + byteInt sg a k * byteInt sg b k) (if sg then d.toInt else (d.toNat : Int))

/-- BPERM's result byte for a selector (R79). -/
def permByte (a d : W32) (sel : Nat) : Nat :=
  if 128 ≤ sel then 0 else (byteOf ((d ++ a : BitVec 64).toNat) (sel % 8)).toNat

/-- BPERM's result (R79). -/
def permWord (a b d : W32) : W32 :=
  BitVec.ofNat 32 ((List.range 4).foldl (fun x k => x + permByte a d (byteOf b.toNat k).toNat * 256 ^ k) 0)

/-- The operand's register bits copied without extension: a pair for 64 bits, else the full register (R80, R81). -/
def State.copyIn (s : State) (d : Reg) (m : W32) (from_ : Nat → Reg) : State :=
  if s.w = 64 then s.wrIn64 d m fun l => s.rd64 (from_ l) l else s.wrIn d m fun l => s.rd (from_ l) l

/-- One 32-bit register, whatever the element type. -/
def State.oneOp (s : State) (i : Instr) (rs : List Reg) (d : Reg) (f : Nat → W32) : State :=
  s.checked i (s.pairsOk rs) fun s => (s.wr d f).done

/-- A 64-bit address in the GUARD lanes (R83). -/
def State.wideOp (s : State) (d : Reg) (f : Nat → W64) : State := (s.wr64 d f).done

/-- The result of a compare in the GUARD lanes (R27, R82). -/
def State.cmpOp (s : State) (i : Instr) (rs : List Reg) (p : BitVec 3) (f : Nat → Bool) : State :=
  s.checked i (s.pairsOk rs) fun s => (s.wrP p f).done

/-- ADD (R72): A + B. -/
def execAdd (d a b : Reg) (s : State) : Result :=
  issue (.add d a b) s fun s => s.intOp (.add d a b) [d, a, b] d fun l => s.fit (s.ival a l + s.ival b l)

/-- SUB (R72): A − B. -/
def execSub (d a b : Reg) (s : State) : Result :=
  issue (.sub d a b) s fun s => s.intOp (.sub d a b) [d, a, b] d fun l => s.fit (s.ival a l - s.ival b l)

/-- ADDX (R83): a 64-bit sum; MODE is ignored. -/
def execAddx (d a b : Reg) (s : State) : Result :=
  issue (.addx d a b) s fun s => s.wideOp d fun l => s.rd64 a l + s.rd64 b l

/-- MUL (R72): A × B. -/
def execMul (d a b : Reg) (s : State) : Result :=
  issue (.mul d a b) s fun s => s.intOp (.mul d a b) [d, a, b] d fun l => s.fit (s.ival a l * s.ival b l)

/-- MULH (R72): floor(A × B ÷ 2^w); saturation is ignored. -/
def execMulh (d a b : Reg) (s : State) : Result :=
  issue (.mulh d a b) s fun s => s.intOp (.mulh d a b) [d, a, b] d fun l => mulHigh s.w (s.ival a l) (s.ival b l)

/-- MAD (R72): A × B + D, one FIT on the exact sum. -/
def execMad (d a b : Reg) (s : State) : Result :=
  issue (.mad d a b) s fun s => s.intOp (.mad d a b) [d, a, b] d fun l => s.fit (s.ival a l * s.ival b l + s.ival d l)

/-- DIV (R73): the quotient, truncated toward zero; it never traps. -/
def execDiv (d a b : Reg) (s : State) : Result :=
  issue (.div d a b) s fun s => s.intOp (.div d a b) [d, a, b] d fun l => divInt (s.md.getLsbD 12) s.sg s.w (s.ival a l) (s.ival b l)

/-- REM (R73): the remainder, with the sign of A. -/
def execRem (d a b : Reg) (s : State) : Result :=
  issue (.rem d a b) s fun s => s.intOp (.rem d a b) [d, a, b] d fun l => remInt (s.ival a l) (s.ival b l)

/-- MIN (R72): the smaller. -/
def execMin (d a b : Reg) (s : State) : Result :=
  issue (.min d a b) s fun s => s.intOp (.min d a b) [d, a, b] d fun l => s.fit (Min.min (s.ival a l) (s.ival b l))

/-- MAX (R72): the larger. -/
def execMax (d a b : Reg) (s : State) : Result :=
  issue (.max d a b) s fun s => s.intOp (.max d a b) [d, a, b] d fun l => s.fit (Max.max (s.ival a l) (s.ival b l))

/-- ABS (R72): the absolute value. -/
def execAbs (d a : Reg) (s : State) : Result :=
  issue (.abs d a) s fun s => s.intOp (.abs d a) [d, a] d fun l => s.fit ((s.ival a l).natAbs : Int)

/-- AND (R75): A and B. -/
def execAnd (d a b : Reg) (s : State) : Result :=
  issue (.and d a b) s fun s => s.bitOp (.and d a b) [d, a, b] d fun l => s.raw a l &&& s.raw b l

/-- OR (R75): A or B. -/
def execOr (d a b : Reg) (s : State) : Result :=
  issue (.or d a b) s fun s => s.bitOp (.or d a b) [d, a, b] d fun l => s.raw a l ||| s.raw b l

/-- XOR (R75): A xor B. -/
def execXor (d a b : Reg) (s : State) : Result :=
  issue (.xor d a b) s fun s => s.bitOp (.xor d a b) [d, a, b] d fun l => s.raw a l ^^^ s.raw b l

/-- ANDN (R75): A and not B. -/
def execAndn (d a b : Reg) (s : State) : Result :=
  issue (.andn d a b) s fun s => s.bitOp (.andn d a b) [d, a, b] d fun l => s.raw a l &&& notBits s.w (s.raw b l)

/-- ORN (R75): A or not B. -/
def execOrn (d a b : Reg) (s : State) : Result :=
  issue (.orn d a b) s fun s => s.bitOp (.orn d a b) [d, a, b] d fun l => s.raw a l ||| notBits s.w (s.raw b l)

/-- SHL (R76): a left shift by V(b)[6:0]. -/
def execShl (d a b : Reg) (s : State) : Result :=
  issue (.shl d a b) s fun s => s.bitOp (.shl d a b) [d, a] d fun l => shlBits s.w (bits (s.rd b l).toNat 6 0) (s.raw a l)

/-- SHR (R76): a right shift by V(b)[6:0], arithmetic for signed T. -/
def execShr (d a b : Reg) (s : State) : Result :=
  issue (.shr d a b) s fun s => s.intOp (.shr d a b) [d, a] d fun l => shrInt s.w (bits (s.rd b l).toNat 6 0) (s.ival a l)

/-- ROT (R76): a rotation left by V(b)[6:0] mod w. -/
def execRot (d a b : Reg) (s : State) : Result :=
  issue (.rot d a b) s fun s => s.bitOp (.rot d a b) [d, a] d fun l => rotBits s.w (bits (s.rd b l).toNat 6 0) (s.raw a l)

/-- POPC (R77): the number of ones, in one register. -/
def execPopc (d a : Reg) (s : State) : Result :=
  issue (.popc d a) s fun s => s.oneOp (.popc d a) [a] d fun l => BitVec.ofNat 32 (popBits s.w (s.raw a l))

/-- CLZ (R77): the zeros above the highest one. -/
def execClz (d a : Reg) (s : State) : Result :=
  issue (.clz d a) s fun s => s.oneOp (.clz d a) [a] d fun l => BitVec.ofNat 32 (clzBits s.w (s.raw a l))

/-- CTZ (R77): the zeros below the lowest one. -/
def execCtz (d a : Reg) (s : State) : Result :=
  issue (.ctz d a) s fun s => s.oneOp (.ctz d a) [a] d fun l => BitVec.ofNat 32 (ctzBits s.w (s.raw a l))

/-- BREV (R77): the w bits in reverse order. -/
def execBrev (d a : Reg) (s : State) : Result :=
  issue (.brev d a) s fun s => s.bitOp (.brev d a) [d, a] d fun l => revBits s.w (s.raw a l)

/-- BFX (R78): a field extracted. -/
def execBfx (d a b : Reg) (s : State) : Result :=
  issue (.bfx d a b) s fun s => s.intOp (.bfx d a b) [d, a] d fun l => extractField s.sg s.w (s.rd b l).toNat (s.raw a l)

/-- BFI (R78): a field inserted. -/
def execBfi (d a b : Reg) (s : State) : Result :=
  issue (.bfi d a b) s fun s => s.bitOp (.bfi d a b) [d, a] d fun l => insertField s.w (s.rd b l).toNat (s.raw a l) (s.raw d l)

/-- SEL (R81): in every active lane, a where GUARD holds and b where it does not. -/
def execSel (d a b : Reg) (s : State) : Result :=
  issue (.sel d a b) s fun s => s.checked (.sel d a b) (s.pairsOk [d, a, b]) fun s =>
    (s.copyIn d s.act fun l => if s.grd.getLsbD l then a else b).done

/-- CMP (R82): the condition, into predicate p. -/
def execCmp (c p : BitVec 3) (a b : Reg) (s : State) : Result :=
  issue (.cmp c p a b) s fun s => s.cmpOp (.cmp c p a b) [a, b] p fun l => condHolds c.toNat (s.ival a l - s.ival b l)

/-- MOV (R80): the register bits, without extension. -/
def execMov (d a : Reg) (s : State) : Result :=
  issue (.mov d a) s fun s => s.checked (.mov d a) (s.pairsOk [d, a]) fun s => (s.copyIn d s.grd fun _ => a).done

/-- LEA (R83): a 64-bit base plus a scaled, sign-extended register. -/
def execLea (d a b : Reg) (sc : BitVec 2) (s : State) : Result :=
  issue (.lea d a b sc) s fun s => s.wideOp d fun l => s.rd64 a l + ((s.rd b l).signExtend 64 <<< sc.toNat)

/-- DOT4 (R74): four products of bytes added to a 32-bit accumulator. -/
def execDot4 (d a b : Reg) (s : State) : Result :=
  issue (.dot4 d a b) s fun s => (s.wr d fun l =>
    let x := dotFour s.sg (s.rd d l) (s.rd a l) (s.rd b l)
    BitVec.ofInt 32 (if s.md.getLsbD 12 then satInt s.sg 32 x else x)).done

/-- BPERM (R79): bytes selected from A and the old D; MODE is ignored. -/
def execBperm (d a b : Reg) (s : State) : Result :=
  issue (.bperm d a b) s fun s => (s.wr d fun l => permWord (s.rd a l) (s.rd b l) (s.rd d l)).done

/-- ADDI (R72): A plus a signed immediate. -/
def execAddi (d a : Reg) (imm : BitVec 13) (s : State) : Result :=
  issue (.addi d a imm) s fun s => s.intOp (.addi d a imm) [d, a] d fun l => s.fit (s.ival a l + simm imm)

/-- ANDI (R75): A and a zero-extended immediate. -/
def execAndi (d a : Reg) (imm : BitVec 13) (s : State) : Result :=
  issue (.andi d a imm) s fun s => s.bitOp (.andi d a imm) [d, a] d fun l => s.raw a l &&& (imm.toNat % 2 ^ s.w)

/-- ORI (R75): A or a zero-extended immediate. -/
def execOri (d a : Reg) (imm : BitVec 13) (s : State) : Result :=
  issue (.ori d a imm) s fun s => s.bitOp (.ori d a imm) [d, a] d fun l => s.raw a l ||| (imm.toNat % 2 ^ s.w)

/-- XORI (R75): A xor a zero-extended immediate. -/
def execXori (d a : Reg) (imm : BitVec 13) (s : State) : Result :=
  issue (.xori d a imm) s fun s => s.bitOp (.xori d a imm) [d, a] d fun l => s.raw a l ^^^ (imm.toNat % 2 ^ s.w)

/-- SHLI (R76): a left shift by n. -/
def execShli (d a : Reg) (n : BitVec 6) (s : State) : Result :=
  issue (.shli d a n) s fun s => s.bitOp (.shli d a n) [d, a] d fun l => shlBits s.w n.toNat (s.raw a l)

/-- SHRI (R76): a right shift by n, arithmetic for signed T. -/
def execShri (d a : Reg) (n : BitVec 6) (s : State) : Result :=
  issue (.shri d a n) s fun s => s.intOp (.shri d a n) [d, a] d fun l => shrInt s.w n.toNat (s.ival a l)

/-- CMPI (R82): A against an immediate taken modulo 2^w as a value of T. -/
def execCmpi (c p : BitVec 3) (a : Reg) (imm : BitVec 13) (s : State) : Result :=
  issue (.cmpi c p a imm) s fun s =>
    s.cmpOp (.cmpi c p a imm) [a] p fun l => condHolds c.toNat (s.ival a l - wrapInt s.sg s.w (simm imm))

/-- MOVI (R80): a sign-extended immediate in one register. -/
def execMovi (d : Reg) (imm : BitVec 19) (s : State) : Result :=
  issue (.movi d imm) s fun s => (s.wr d fun _ => imm.signExtend 32).done

/-- IHI (R80): the immediate times 2^13. -/
def execIhi (d : Reg) (imm : BitVec 19) (s : State) : Result :=
  issue (.ihi d imm) s fun s => (s.wr d fun _ => (imm ++ 0#13 : BitVec 32)).done

end Sys2Proof.Machine
end

