-- ==== Sys2Proof/Machine/FloatAlu.lean ====
section
/-!
DEFINITION. Sys2Proof/Machine/FloatAlu.lean: the floating-point instructions, majors 0x20 to 0x24 (R84–R95), and the block conversions of
R62 and R63.
-/

namespace Sys2Proof.Machine

open Sys2Proof

/-! ## Values -/

/-- A × 2^n (R90). -/
def FVal.scale (n : Int) : FVal → FVal
  | .fin s m e => .fin s m (e + n)
  | x => x

/-- An f16 or bf16 result is correctly rounded where R92 says so. -/
def narrow (e : Nat) : Bool := decide (e = 8) || decide (e = 9)

/-- FRCP (R92, R93); `k` picks within the bound. -/
def rcpVal (F : FFmt) (nar : Bool) (r : Rnd) (k : Nat) : FVal → Nat
  | .nan => F.canonical
  | .inf n => F.pack n 0
  | .fin n m e =>
    if m = 0 then F.pack n F.infMag else if nar then F.exact r (recip n m e) else F.within r 1 k (recip n m e)

/-- FRSQ (R92, R93). -/
def rsqVal (F : FFmt) (nar : Bool) (r : Rnd) (k : Nat) : FVal → Nat
  | .nan => F.canonical
  | .inf n => if n then F.canonical else F.pack false 0
  | .fin n m e =>
    if m = 0 then F.pack n F.infMag else if n then F.canonical
    else if nar || !(recipRoot m e).st then F.exact r (recipRoot m e) else F.within r 2 k (recipRoot m e)

/-- FSQRT, correctly rounded (R92, R93). -/
def sqrtVal (F : FFmt) (r : Rnd) : FVal → Nat
  | .nan => F.canonical
  | .inf n => if n then F.canonical else F.pack false F.infMag
  | .fin n m e => if m = 0 then F.pack n 0 else if n then F.canonical else F.exact r (root m e)

/-- FEXP2 (R92, R93): exact for an integral argument whose power is representable. -/
def exp2Res (F : FFmt) (nar : Bool) (r : Rnd) (k : Nat) : FVal → Nat
  | .nan => F.canonical
  | .inf n => if n then F.pack false 0 else F.pack false F.infMag
  | .fin n m e =>
    if m = 0 then F.rnd r false (.fin false 1 0)
    else if nar || (!(exp2Val n m e).st && decide (F.qmin ≤ (exp2Val n m e).e)) then F.exact r (exp2Val n m e)
    else F.within r 2 k (exp2Val n m e)

/-- FLOG2 (R92, R93): exact for a power of two; within 2^−22 for A in [0.5, 2]. -/
def log2Res (F : FFmt) (nar : Bool) (r : Rnd) (k : Nat) : FVal → Nat
  | .nan => F.canonical
  | .inf n => if n then F.canonical else F.pack false F.infMag
  | .fin n m e =>
    if m = 0 then F.pack true F.infMag else if n then F.canonical
    else if (log2Val m e).m = 0 then F.pack false 0
    else if nar || !(log2Val m e).st then F.exact r (log2Val m e)
    else if (Nat.log2 m : Int) + e = -1 ∨ (Nat.log2 m : Int) + e = 0 then F.near r k (log2Val m e)
    else F.within r 2 k (log2Val m e)

/-- FSIN and FCOS (R92, R93): a value in [−1, 1] beyond |A| = 65,536. -/
def trigRes (cos : Bool) (F : FFmt) (nar : Bool) (r : Rnd) (k : Nat) : FVal → Nat
  | .nan => F.canonical
  | .inf _ => F.canonical
  | .fin n m e =>
    if m = 0 then (if cos then F.rnd r false (.fin false 1 0) else F.pack n 0)
    else if (FVal.fin false m e).cmp (.fin false 65536 0) = some 1 then F.unit r k
    else if nar then F.exact r (trigVal cos n m e) else F.near r k (trigVal cos n m e)

/-- The number that picks a value within R92's bound: a function of the function, the type, MODE[13:12] and the argument, as the
MODE rounding mode is ignored (log 10). -/
def State.pickOf (s : State) (fn : Nat) (a : Reg) (l : Nat) : Nat :=
  Config.approx fn (s.elt + 32 * bits s.md.toNat 13 12) (BitVec.ofNat 64 (s.raw a l))

/-- A conversion between element types (R53, R94), of the operand bits `v`. -/
def convert (r : Rnd) (src dst v : Nat) : Int :=
  match eltFmt src, eltFmt dst with
  | some F, some G =>
    if src = dst then (match F.val v with | .nan => F.canonical | _ => F.flushed r.flush v) else G.rnd r false (F.valIn r.flush v)
  | some F, none => (F.valIn r.flush v).toInteger r.rm (eltSigned dst) (eltWidth dst)
  | none, some G => G.rnd r false (FVal.ofInt (wrapInt (eltSigned src) (eltWidth src) v))
  | none, none =>
    let x := wrapInt (eltSigned src) (eltWidth src) v
    if src = dst then x else if r.sat then satInt (eltSigned dst) (eltWidth dst) x else wrapInt (eltSigned dst) (eltWidth dst) x

/-! ## Block conversions (R62, R63) -/

/-- A block holds a NaN or an infinity. -/
def notFinite (x : FVal) : Bool := match x with | .fin .. => false | _ => true

/-- The magnitude of a finite value at an exponent, rounded to nearest even. -/
def magAt (q : Int) : FVal → Nat
  | .fin _ m e => roundAt 0 false m e q false
  | _ => 0

/-- The sign of a value. -/
def FVal.isNeg : FVal → Bool
  | .fin n _ _ => n
  | .inf n => n
  | .nan => false

/-- The largest magnitude of a block. -/
def blockMax (xs : List FVal) : FVal :=
  xs.foldl (fun a x =>
    match x with
    | .fin _ m e => if a.cmp (.fin false m e) = some (-1) then .fin false m e else a
    | _ => a) (.fin false 0 0)

/-- w, k and MMAX of a DX format (R62). -/
def dxParams (f : Nat) : Nat × Nat × Nat := match f with | 0 => (6, 132, 63) | 1 => (4, 130, 15) | _ => (2, 128, 3)

/-- E_hi of a block (R62). -/
def dxHigh (f : Nat) (xs : List FVal) : Nat :=
  let (w, k, top) := dxParams f
  let a := blockMax xs
  ((List.range (255 - w)).find? fun j => decide (magAt (((w + j : Nat) : Int) - (k : Int)) a ≤ top)).elim 254 fun j => w + j

/-- The image of a DX element with the block's scale half (R62, R95). -/
def dxImage (f : Nat) (xs : List FVal) (x : FVal) : W32 :=
  let (w, k, top) := dxParams f
  if xs.any notFinite then 0xFFFF0000#32
  else
    let hi := dxHigh f xs
    let lo := hi - w
    let q := magAt ((lo : Int) - (k : Int)) x
    let el := if q ≤ top then q else 2 ^ (w + 1) + min (magAt ((hi : Int) - (k : Int)) x) top
    BitVec.ofNat 32 (hi * 2 ^ 24 + lo * 2 ^ 16 + (if x.isNeg then 2 ^ w else 0) + el)

/-- The float element formats of CVTMX, with the largest magnitude encoding (R54, R63); none for INT8. -/
def mxFmt (f : Nat) : Option (FFmt × Nat) :=
  match f with
  | 0 => some ({ eb := 4, fb := 3 }, 0x7E)
  | 1 => some ({ eb := 5, fb := 2 }, 0x7B)
  | 2 => some ({ eb := 3, fb := 2 }, 0x1F)
  | 3 => some ({ eb := 2, fb := 3 }, 0x1F)
  | 4 => some ({ eb := 2, fb := 1 }, 0x7)
  | _ => none

/-- EMAX of R63. -/
def mxEmax (f : Nat) : Int := match f with | 0 => 8 | 1 => 15 | 2 => 4 | 3 => 2 | 4 => 2 | _ => 0

/-- X of a block (R63). -/
def mxScale (f : Nat) (xs : List FVal) : Nat :=
  match blockMax xs with
  | .fin _ m e => if m = 0 then 0 else (max 0 (min 254 ((Nat.log2 m : Int) + e - mxEmax f + 127))).toNat
  | _ => 0

/-- An MX element (R63). -/
def mxElement (f sc : Nat) (x : FVal) : Nat :=
  match x.scale (127 - (sc : Int)) with
  | .fin n m e =>
    match mxFmt f with
    | some (F, top) => F.pack n (if m = 0 then 0 else min (F.roundMag 0 n m e false) top)
    | none => (BitVec.ofInt 8 (max (-127) (min 127 ((if n then -1 else 1) * ((roundAt 0 n m e (-6) false : Nat) : Int))))).toNat
  | _ => 0

/-- The image of an MX element with the block's scale (R95). -/
def mxImage (f : Nat) (xs : List FVal) (x : FVal) : W32 :=
  if xs.any notFinite then 0x00FF0000#32
  else BitVec.ofNat 32 (mxScale f xs * 2 ^ 16 + mxElement f (mxScale f xs) x)

/-- x(i) of a block: the operand where GUARD holds, else +0 (R95). -/
def State.blockOf (s : State) (a : Reg) : List FVal := lanes.map fun l => if s.grd.getLsbD l then s.fval a l else .fin false 0 0

/-- The element type admits block conversion (R68). -/
def State.blockType (s : State) : Bool := s.isFloat && decide (s.w ≠ 64)

/-! ## Meanings -/

/-- FADD (R84). -/
def execFadd (d a b : Reg) (s : State) : Result :=
  issue (.fadd d a b) s fun s => s.fltOp (.fadd d a b) [d, a, b] d fun l =>
    s.fmt.rnd s.rnd false (FVal.add (decide (s.rnd.rm = 3)) (s.fval a l) (s.fval b l))

/-- FSUB (R84). -/
def execFsub (d a b : Reg) (s : State) : Result :=
  issue (.fsub d a b) s fun s => s.fltOp (.fsub d a b) [d, a, b] d fun l =>
    s.fmt.rnd s.rnd false (FVal.add (decide (s.rnd.rm = 3)) (s.fval a l) (s.fval b l).neg)

/-- FMUL (R84). -/
def execFmul (d a b : Reg) (s : State) : Result :=
  issue (.fmul d a b) s fun s => s.fltOp (.fmul d a b) [d, a, b] d fun l =>
    s.fmt.rnd s.rnd false ((s.fval a l).mul (s.fval b l))

/-- FFMA (R84): A × B + D with one rounding. -/
def execFfma (d a b : Reg) (s : State) : Result :=
  issue (.ffma d a b) s fun s => s.fltOp (.ffma d a b) [d, a, b] d fun l =>
    s.fmt.rnd s.rnd false (FVal.add (decide (s.rnd.rm = 3)) ((s.fval a l).mul (s.fval b l)) (s.fval d l))

/-- FMIN (R85). -/
def execFmin (d a b : Reg) (s : State) : Result :=
  issue (.fmin d a b) s fun s => s.fltOp (.fmin d a b) [d, a, b] d fun l => s.fmt.pick s.rnd.flush false (s.raw a l) (s.raw b l)

/-- FMAX (R85). -/
def execFmax (d a b : Reg) (s : State) : Result :=
  issue (.fmax d a b) s fun s => s.fltOp (.fmax d a b) [d, a, b] d fun l => s.fmt.pick s.rnd.flush true (s.raw a l) (s.raw b l)

/-- FABS (R86): the sign bit cleared. -/
def execFabs (d a : Reg) (s : State) : Result :=
  issue (.fabs d a) s fun s => s.fltOp (.fabs d a) [d, a] d fun l => s.fmt.mag (s.raw a l)

/-- FNEG (R86): the sign bit inverted. -/
def execFneg (d a : Reg) (s : State) : Result :=
  issue (.fneg d a) s fun s => s.fltOp (.fneg d a) [d, a] d fun l => s.fmt.pack (!s.fmt.neg (s.raw a l)) (s.fmt.mag (s.raw a l))

/-- FCMP (R87). -/
def execFcmp (c p : BitVec 3) (a b : Reg) (s : State) : Result :=
  issue (.fcmp c p a b) s fun s => s.checked (.fcmp c p a b) (s.isFloat && s.pairsOk [a, b]) fun s =>
    (s.wrP p fun l => fcondHolds c.toNat ((s.fval a l).cmp (s.fval b l))).done

/-- FCLASS (R88): one bit of ten, in one register. -/
def execFclass (d a : Reg) (s : State) : Result :=
  issue (.fclass d a) s fun s => s.checked (.fclass d a) (s.isFloat && s.pairsOk [a]) fun s =>
    (s.wr d fun l => BitVec.ofNat 32 (2 ^ s.fmt.class (s.raw a l))).done

/-- FRND (R89). -/
def execFrnd (d a : Reg) (s : State) : Result :=
  issue (.frnd d a) s fun s => s.fltOp (.frnd d a) [d, a] d fun l => s.fmt.rnd s.rnd false ((s.fval a l).integral s.rnd.rm)

/-- FSCALE (R90): A × 2^N, N an i32 in a single register. -/
def execFscale (d a b : Reg) (s : State) : Result :=
  issue (.fscale d a b) s fun s => s.fltOp (.fscale d a b) [d, a] d fun l =>
    s.fmt.rnd s.rnd false ((s.fval a l).scale (s.rd b l).toInt)

/-- An approximated function (R91): long-latency, its result written at once within R35's window. -/
def State.apxOp (s : State) (i : Instr) (wide : Bool) (d a : Reg) (l : BitVec 4) (f : Nat → Nat) : State :=
  s.checked i (s.isFloat && (wide || decide (s.w ≠ 64)) && s.pairsOk [d, a]) fun s =>
    let s1 := s.openWin l.toNat (decide (d ≠ 63#6))
    (if s.w = 64 then s1.wrLong64 d s.grd fun k => BitVec.ofNat 64 (f k) else s1.wrLong d s.grd fun k => BitVec.ofNat 32 (f k)).done

/-- FRCP (R91–R93). -/
def execFrcp (d a : Reg) (l : BitVec 4) (s : State) : Result :=
  issue (.frcp d a l) s fun s => s.apxOp (.frcp d a l) true d a l fun k =>
    rcpVal s.fmt (narrow s.elt) s.rnd (s.pickOf 0 a k) (s.fval a k)

/-- FRSQ (R91–R93). -/
def execFrsq (d a : Reg) (l : BitVec 4) (s : State) : Result :=
  issue (.frsq d a l) s fun s => s.apxOp (.frsq d a l) true d a l fun k =>
    rsqVal s.fmt (narrow s.elt) s.rnd (s.pickOf 1 a k) (s.fval a k)

/-- FSQRT (R91–R93). -/
def execFsqrt (d a : Reg) (l : BitVec 4) (s : State) : Result :=
  issue (.fsqrt d a l) s fun s => s.apxOp (.fsqrt d a l) true d a l fun k => sqrtVal s.fmt s.rnd (s.fval a k)

/-- FEXP2 (R91–R93). -/
def execFexp2 (d a : Reg) (l : BitVec 4) (s : State) : Result :=
  issue (.fexp2 d a l) s fun s => s.apxOp (.fexp2 d a l) false d a l fun k =>
    exp2Res s.fmt (narrow s.elt) s.rnd (s.pickOf 3 a k) (s.fval a k)

/-- FLOG2 (R91–R93). -/
def execFlog2 (d a : Reg) (l : BitVec 4) (s : State) : Result :=
  issue (.flog2 d a l) s fun s => s.apxOp (.flog2 d a l) false d a l fun k =>
    log2Res s.fmt (narrow s.elt) s.rnd (s.pickOf 4 a k) (s.fval a k)

/-- FSIN (R91–R93). -/
def execFsin (d a : Reg) (l : BitVec 4) (s : State) : Result :=
  issue (.fsin d a l) s fun s => s.apxOp (.fsin d a l) false d a l fun k =>
    trigRes false s.fmt (narrow s.elt) s.rnd (s.pickOf 5 a k) (s.fval a k)

/-- FCOS (R91–R93). -/
def execFcos (d a : Reg) (l : BitVec 4) (s : State) : Result :=
  issue (.fcos d a l) s fun s => s.apxOp (.fcos d a l) false d a l fun k =>
    trigRes true s.fmt (narrow s.elt) s.rnd (s.pickOf 6 a k) (s.fval a k)

/-- CVT (R94): from the element type of MODE to type `t`. -/
def execCvt (d a : Reg) (t : BitVec 5) (s : State) : Result :=
  issue (.cvt d a t) s fun s =>
    s.checked (.cvt d a t) (s.pairsOk [a] && (decide (eltWidth t.toNat ≠ 64) || pairOk d)) fun s =>
      (s.wrAt (eltWidth t.toNat) d fun l => convert s.rnd s.elt t.toNat (s.raw a l)).done

/-- CVTDX (R62, R95): one block of 32 lanes. -/
def execCvtdx (d a : Reg) (f : BitVec 2) (s : State) : Result :=
  issue (.cvtdx d a f) s fun s => s.checked (.cvtdx d a f) s.blockType fun s =>
    let xs := s.blockOf a
    (s.wr d fun l => dxImage f.toNat xs (s.fval a l)).done

/-- CVTMX (R63, R95): one block of 32 lanes. -/
def execCvtmx (d a : Reg) (f : BitVec 3) (s : State) : Result :=
  issue (.cvtmx d a f) s fun s => s.checked (.cvtmx d a f) s.blockType fun s =>
    let xs := s.blockOf a
    (s.wr d fun l => mxImage f.toNat xs (s.fval a l)).done

end Sys2Proof.Machine
end

