-- ==== Sys2Proof/Machine/Lane.lean ====
section
/-!
DEFINITION. Sys2Proof/Machine/Lane.lean: the cross-lane instructions and predicate logic, majors 0x30 and 0x31 (R96–R106).
-/

namespace Sys2Proof.Machine

open Sys2Proof

/-- A register as another lane holds it; lanes 1 to 31 of a control core read zero (R98, R99). -/
def State.laneRd (s : State) (r : Reg) (j : Nat) : W32 := if s.g.onControl ∧ j ≠ 0 then 0 else s.rd r j

/-- The register or pair as another lane holds it. -/
def State.laneRd64 (s : State) (r : Reg) (j : Nat) : W64 := if s.g.onControl ∧ j ≠ 0 then 0 else s.rd64 r j

/-- Each GUARD lane takes the value of its source lane (R99). -/
def State.moveLanes (s : State) (i : Instr) (d a : Reg) (src : Nat → Nat) : State :=
  s.checked i (s.pairsOk [d, a]) fun s =>
    (if s.w = 64 then s.wr64 d fun l => s.laneRd64 a (src l) else s.wr d fun l => s.laneRd a (src l)).done

/-- The source lane l − n or l + n, or the lane itself where that falls outside 0 to 31 (R101). -/
def inGroup (l : Nat) (x : Int) : Nat := if 0 ≤ x ∧ x < 32 then x.toNat else l

/-- The count of a shuffle in a lane (R101). -/
def State.shuffleCount (s : State) (b : Reg) (top l : Nat) : Nat := bits (s.rd b l).toNat top 0

/-- The voters' predicate (R103). -/
def State.ballot (s : State) (a : BitVec 3) : W32 := s.g.pred a &&& s.grd

/-- The identity of a reduction operator (R105). -/
def State.identity (s : State) (o : Nat) : Int :=
  match o with
  | 1 => if s.isFloat then s.fmt.infMag else maxInt s.sg s.w
  | 2 => if s.isFloat then s.fmt.pack true s.fmt.infMag else minInt s.sg s.w
  | 3 => wrapInt s.sg s.w (2 ^ s.w - 1 : Nat)
  | _ => 0

/-- One step of a reduction that is not an integer addition, on operand bits (R105). -/
def State.reduceStep (s : State) (o x y : Nat) : Nat :=
  match o with
  | 0 => s.fmt.rnd s.rnd false (FVal.add (decide (s.rnd.rm = 3)) (s.fmt.valIn s.rnd.flush x) (s.fmt.valIn s.rnd.flush y))
  | 1 | 2 =>
    if s.isFloat then s.fmt.pick s.rnd.flush (decide (o = 2)) x y
    else if decide (wrapInt s.sg s.w x ≤ wrapInt s.sg s.w y) == decide (o = 1) then x else y
  | 3 => x &&& y
  | 4 => x ||| y
  | _ => x ^^^ y

/-- The operator over the values of the lanes of a list, in its order (R105). DESIGN CHOICE (log 94): one participating lane has no step, so its bits are the
result as held, a subnormal under MODE[13] and a NaN payload with them. -/
def State.reduce (s : State) (o : Nat) (a : Reg) (js : List Nat) : Int :=
  match js with
  | [] => s.identity o
  | j :: t =>
    if o = 0 ∧ s.isFloat = false then s.fit (js.foldl (fun x k => x + s.ival a k) 0)
    else
      let x := t.foldl (fun x k => s.reduceStep o x (s.raw a k)) (s.raw a j)
      if s.isFloat then (x : Int) else wrapInt s.sg s.w x

/-- Each GUARD lane takes the operator over the participating lanes that `keep` admits for it. -/
def State.scanOp (s : State) (i : Instr) (d a : Reg) (o : Nat) (keep : Nat → Nat → Bool) : State :=
  s.checked i (s.pairsOk [d, a]) fun s =>
    (s.wrInt d fun l => s.reduce o a ((lanesOf s.grd).filter (keep l))).done

/-- QSWAP.h (R100). -/
def execQswapH (d a : Reg) (s : State) : Result :=
  issue (.qswapH d a) s fun s => s.moveLanes (.qswapH d a) d a fun l => l ^^^ 1

/-- QSWAP.v (R100). -/
def execQswapV (d a : Reg) (s : State) : Result :=
  issue (.qswapV d a) s fun s => s.moveLanes (.qswapV d a) d a fun l => l ^^^ 2

/-- QSWAP.d (R100). -/
def execQswapD (d a : Reg) (s : State) : Result :=
  issue (.qswapD d a) s fun s => s.moveLanes (.qswapD d a) d a fun l => l ^^^ 3

/-- QBCAST (R100). -/
def execQbcast (d a : Reg) (q : BitVec 2) (s : State) : Result :=
  issue (.qbcast d a q) s fun s => s.moveLanes (.qbcast d a q) d a fun l => 4 * (l / 4) + q.toNat

/-- SHFL (R101). -/
def execShfl (d a b : Reg) (s : State) : Result :=
  issue (.shfl d a b) s fun s => s.moveLanes (.shfl d a b) d a fun l => s.shuffleCount b 4 l

/-- SHFLU (R101). -/
def execShflu (d a b : Reg) (s : State) : Result :=
  issue (.shflu d a b) s fun s => s.moveLanes (.shflu d a b) d a fun l => inGroup l ((l : Int) - (s.shuffleCount b 5 l : Int))

/-- SHFLD (R101). -/
def execShfld (d a b : Reg) (s : State) : Result :=
  issue (.shfld d a b) s fun s => s.moveLanes (.shfld d a b) d a fun l => inGroup l ((l : Int) + (s.shuffleCount b 5 l : Int))

/-- SHFLX (R101). -/
def execShflx (d a b : Reg) (s : State) : Result :=
  issue (.shflx d a b) s fun s => s.moveLanes (.shflx d a b) d a fun l => l ^^^ s.shuffleCount b 4 l

/-- VOTE.all (R103). -/
def execVoteAll (p a : BitVec 3) (s : State) : Result :=
  issue (.voteAll p a) s fun s => (s.wrP p fun _ => decide (s.ballot a = s.grd)).done

/-- VOTE.any (R103). -/
def execVoteAny (p a : BitVec 3) (s : State) : Result :=
  issue (.voteAny p a) s fun s => (s.wrP p fun _ => decide (s.ballot a ≠ 0#32)).done

/-- VOTE.ballot (R103). -/
def execVoteBallot (d : Reg) (a : BitVec 3) (s : State) : Result :=
  issue (.voteBallot d a) s fun s => (s.wr d fun _ => s.ballot a).done

/-- GSCAN inclusive (R105). -/
def execGscanIncl (d a : Reg) (o : BitVec 3) (s : State) : Result :=
  issue (.gscanIncl d a o) s fun s => s.scanOp (.gscanIncl d a o) d a o.toNat fun l j => decide (j ≤ l)

/-- GSCAN exclusive (R105). -/
def execGscanExcl (d a : Reg) (o : BitVec 3) (s : State) : Result :=
  issue (.gscanExcl d a o) s fun s => s.scanOp (.gscanExcl d a o) d a o.toNat fun l j => decide (j < l)

/-- GRED (R105). -/
def execGred (d a : Reg) (o : BitVec 3) (s : State) : Result :=
  issue (.gred d a o) s fun s => s.scanOp (.gred d a o) d a o.toNat fun _ _ => true

/-- MATCH (R104): the lanes whose register bits are equal. -/
def execMatchLanes (d a : Reg) (s : State) : Result :=
  issue (.matchLanes d a) s fun s => s.checked (.matchLanes d a) (s.pairsOk [a]) fun s =>
    (s.wr d fun l => maskOf fun j => s.grd.getLsbD j && decide (s.raw a j = s.raw a l)).done

/-- PLOG (R106): two predicates through a truth table. -/
def execPlog (d a b : BitVec 3) (t : BitVec 4) (s : State) : Result :=
  issue (.plog d a b t) s fun s =>
    (s.wrP d fun l => tableBit t ((s.g.pred a).getLsbD l) ((s.g.pred b).getLsbD l)).done

end Sys2Proof.Machine
end

