-- ==== Sys2Proof/Machine/Window.lean ====
section
/-!
DEFINITION. Sys2Proof/Machine/Window.lean: the register window's spills and refills (R114–R117): frames between the ring and the
lane-private slices.
-/

namespace Sys2Proof.Machine

open Sys2Proof

/-- The virtual address of an offset of a lane's slice (R161). -/
def State.sliceVa (s : State) (g : Group) (l off : Nat) : W64 :=
  let p := s.packetOf g
  sliceAddr (pktSliceBase p) (g.tidx.toNat * pktSize p + g.gidx.toNat) (pktSlice p) l off

/-- What a transfer between the ring and the slices meets: it can be made, it faults, it must wait, it parks, its data is poisoned, or its walk has read poison and ended the
context's work (R433). -/
inductive Xfer where
  | ok
  | fault (cause : Nat) (val wdet : W64)
  | hold
  | park (va : W64)
  | poison (va : W64)
  | over
  deriving DecidableEq, Repr

/-- The first thing that stops a transfer of two. -/
def Xfer.and : Xfer → Xfer → Xfer
  | .ok, y => y
  | x, _ => x

/-- One word of a slice can be accessed: translated, its stack awake for a read, no access of the group to it outstanding. -/
def State.sliceProbe (s : State) (acc : Acc) (va : W64) : State × Xfer × Nat × Bool :=
  match s.globalTarget s.g .nop acc false va with
  | (s1, .ok _ pa _ ms) =>
    let busy := s.m.reqs.any fun r => decide (r.gid = s.g.gid) && decide (r.space = .vm) && !r.performed && decide (r.kind ≠ .load) &&
      decide (r.key < pa + 4) && decide (pa < r.key + r.size)
    (s1, if busy || (decide (acc = .read) && s1.stackHeld pa) then .hold else .ok, pa, ms)
  | (s1, .bad _ c v w) => (s1, .fault c v w, 0, false)
  | (s1, .park _) => (s1, .park va, 0, false)
  | (s1, .wait) => (s1, .hold, 0, false)
  | (s1, .over) => (s1, .over, 0, false)
  | (s1, .pair _ _) => (s1, .hold, 0, false)

/-- The words of a frame in the slices: (lane, offset, physical register), from the lowest offset up, the highest register first. -/
def frameWords (g : Group) (low top n : Nat) : List (Nat × Nat × Nat) :=
  (List.range n).flatMap fun i => (lanesOf g.ownLanes).map fun l => (l, low + 4 * i, (top + 2 * g.nregs - 1 - i) % g.nregs)

/-- A list of slice words is translated; the first obstacle in order, with the physical places found. -/
def State.probeAll (s : State) (acc : Acc) : List (Nat × Nat × Nat) → State × Xfer × List (Nat × Bool)
  | [] => (s, .ok, [])
  | (l, off, _) :: t =>
    let (s1, x, pa, ms) := s.sliceProbe acc (s.sliceVa s.g l off)
    if x = .ok then
      let (s2, y, ps) := State.probeAll s1 acc t
      (s2, y, (pa, ms) :: ps)
    else (s1, x, [])

/-- SPILL_OLDEST (R116): the oldest resident frame goes to the slices, in one step when nothing stops it; until then its writes wait at the homes of all its words
(R164, R388). -/
def State.spillOldest (s : State) : State × Xfer :=
  let g := s.g
  match g.win.frames with
  | [] => (s, .ok)
  | f :: rest =>
    if g.win.wsp.toNat < 4 * f + g.win.wsl.toNat then (s, .fault 0x14 (g.win.wsp.setWidth 64) 0)
    else if g.owed.any fun o => decide (o.place < 1024) then (s, .hold)
    else
      let low := g.win.wsp.toNat - 4 * f
      let ws := frameWords g low (g.win.rb + f) f
      let (s1, x, ps) := s.probeAll .write ws
      if x ≠ .ok then (if x = .hold then s1 else s1.forgetName g.gid, x)
      else if !(ps.all fun p => s1.homeFree g.gid g.ctx p.1) then (s1.awaitAll g.gid (ps.map (·.1)), .hold)
      else
        let put := fun (s : State) (p : (Nat × Nat × Nat) × (Nat × Bool)) =>
          let v := (s.g.getPlace p.1.2.2 p.1.1).toNat
          let w : Writer := { gid := s.g.gid, log := s.seq, core := s.g.core, slot := s.g.slot, lane := p.1.1, ostamp := s.g.ostamp, always := false }
          let s' := (s.newPool 0 p.2.1 4 s.g.gid s.seq s.act s.g.ctx s.g.inc).performWrite s.g.ctx w p.2.2 p.2.1 4 v
          { s' with m := s'.m.storeL1 s.g.core p.2.1 4 v }
        let s2 := ((ws.zip ps).foldl put s1).forgetName g.gid
        (s2.onG fun g => { g with win := { g.win with wsp := g.win.wsp - BitVec.ofNat 32 (4 * f), rb := (g.win.rb + f) % g.nregs, frames := rest } },
         .ok)

/-- Frames are spilled until the callee's window fits beside those that stay (R115). -/
def State.spillFor : Nat → State → State × Xfer
  | 0, s => (s, .ok)
  | n + 1, s =>
    if s.g.win.frames.sum + 56 ≤ s.g.nregs then (s, .ok)
    else
      match s.spillOldest with
      | (s1, .ok) => State.spillFor n s1
      | r => r

/-- The word of a slice that a refill reads in a lane. -/
def State.sliceWord (s : State) (pa : Nat) : W32 := BitVec.ofNat 32 (s.m.homeRead pa 4)

/-- The reads of a refill at the L2, one for each line of the slices that it touches (R166). -/
def State.readLines (s : State) (ps : List (Nat × Bool)) : State :=
  ((ps.filter fun p => inL2 p.2 p.1).map fun p => lineOf p.1).eraseDups.foldl (fun s line => { s with m := s.m.readL2 line 0 }) s

/-- The frame at WSP returns to the physical registers just below `top` (R117, R355): its size and what stopped it. Poisoned data stops
it like a fault (R433). -/
def State.refill (s : State) (top : Nat) : State × Xfer × Nat :=
  let g := s.g
  let l0 := (lowest s.act).getD 0
  let (s1, x, pa, _) := s.sliceProbe .read (s.sliceVa g l0 g.win.wsp.toNat)
  if x ≠ .ok then (s1, x, 0)
  else
    let hi := s1.sliceWord pa
    if bits hi.toNat 31 28 ≠ 0 then (s1, .fault 0x14 (hi.setWidth 64) 0, 0)
    else if g.owed.any fun o => decide (o.place < 1024) then (s1, .hold, 0)
    else
      let f := 8 * (bits hi.toNat 27 25 + 1)
      let ws := frameWords g g.win.wsp.toNat top f
      let (s2, y, ps) := s1.probeAll .read ws
      if y ≠ .ok then (s2, y, 0)
      else if ps.any fun p => s2.m.poisoned p.1 4 then (s2, .poison (s.sliceVa g l0 g.win.wsp.toNat), 0)
      else
        let get := fun (s : State) (p : (Nat × Nat × Nat) × (Nat × Bool)) =>
          s.onG fun g => g.assign s.seq p.1.2.2 (laneBit p.1.1) fun _ => s.sliceWord p.2.1
        let s3 := ((ws.zip ps).foldl get s2).readLines ps
        (s3.onG fun g => { g with win := { g.win with wsp := g.win.wsp + BitVec.ofNat 32 (4 * f) } }, .ok, f)

/-- What stops a spill or refill: the trap of the instruction at its own address (R352), a hold, or a parking. Poison starts a rollback before it traps (R433). -/
def State.stopped (s : State) (i : Instr) : Xfer → State
  | .ok => s
  | .fault c v w => s.raiseWalk i c v w
  | .poison v => match s.eatPoison s.g.ctx with | (s1, true) => s1 | (s1, false) => s1.raise i 0x10 v
  | .over => s
  | .hold => s.hold
  | .park va => s.parkLanes 3 s.act (some { va := va, ins := encode i, entry := s.entry })

end Sys2Proof.Machine
end

