-- ==== Sys2Proof/Machine/Control.lean ====
section
/-!
DEFINITION. Sys2Proof/Machine/Control.lean: control flow, MODE and the mode stack, majors 0x38 to 0x3D (R28–R31, R108–R121), and the split
table's own events (R121, R132–R135) with the end of a group (R119).
-/

namespace Sys2Proof.Machine

open Sys2Proof

/-! ## Splits -/

/-- The PC after the instruction. -/
def State.next (s : State) : W64 := s.cur.pc + 4#64

/-- The PC at an offset in words (R21). -/
def State.rel (s : State) (o : BitVec 22) : W64 := s.cur.pc + (o.signExtend 64 <<< 2)

/-- A lane set of a dividing branch takes the lowest free entry, or is parked (R130). -/
def Group.placeSet (g : Group) (pc : W64) (mask : W32) (rp : Option W64) (ms : ModeState) : Group :=
  match g.freeSplit with
  | some e => g.setSplit e (some { pc := pc, mask := mask, rp := rp, hold := 0, age := 0, ms := ms, wait := .none })
  | none => g.park { pc := pc, mask := mask, rp := rp, ms := ms }

/-- SPLIT_DIVIDE (R130): the dividing entry keeps the first set, the others take entries in their order. -/
def State.divide (s : State) (rp : Option W64) : List (W64 × W32) → State
  | [] => s
  | (pc, mask) :: rest =>
    let x := s.cur
    (s.onG fun g =>
      let g1 := g.setSplit s.entry (some { pc := pc, mask := mask, rp := rp, hold := 0, age := 0, ms := x.ms, wait := .none })
      Group.settle g (rest.foldl (fun g p => g.placeSet p.1 p.2 rp x.ms) g1)).issued

/-- A branch taken without dividing (R131); a backward one rotates with the overflow set when that is not empty (R135). -/
def State.branch (s : State) (t : W64) : State :=
  let x := s.cur
  let rp := match x.rp with
    | some r => if r < t then some t else some r
    | none => none
  (s.onG fun g =>
    if t ≤ x.pc ∧ !g.parked.isEmpty then
      let g1 := (g.park { pc := t, mask := x.mask, rp := rp, ms := x.ms }).setSplit s.entry none
      match g1.parked with
      | p :: rest =>
        Group.settle g (({ g1 with parked := rest } : Group).setSplit s.entry
          (some { pc := p.pc, mask := p.mask, rp := p.rp, hold := 0, age := 0, ms := p.ms, wait := .none }))
      | [] => g1
    else Group.settle g (g.onSplit s.entry fun y => { y with pc := t, rp := rp })).issued

/-- BR (R108): the GUARD lanes go to the target, the other active lanes to PC + 4. -/
def execBr (o : BitVec 22) (s : State) : Result :=
  issue (.br o) s fun s =>
    let t := s.rel o
    let off := s.act &&& ~~~s.grd
    if s.grd = 0#32 then s.done
    else if off = 0#32 ∨ t = s.next then s.branch t
    else s.divide (some (if t < s.next then s.next else t)) [(s.next, off), (t, s.grd)]

/-- The condition of BRC over the active lanes (R109). -/
def State.brcTaken (s : State) (c : Nat) : Bool :=
  match c with
  | 0 => decide (s.grd = s.act)
  | 1 => decide (s.grd ≠ 0#32)
  | 2 => decide (s.grd = 0#32)
  | _ => decide (s.grd ≠ s.act)

/-- BRC (R109): the whole split moves or none of it. -/
def execBrc (c : BitVec 3) (o : BitVec 22) (s : State) : Result :=
  issue (.brc c o) s fun s => if s.brcTaken c.toNat then s.branch (s.rel o) else s.done

/-- BRX (R110): one target is peeled off; the lanes of other targets stay, the lanes outside GUARD go on. -/
def execBrx (a : Reg) (s : State) : Result :=
  issue (.brx a) s fun s =>
    match lowest s.grd with
    | none => s.done
    | some l =>
      let t := s.rd64 a l
      let go := maskOf fun k => s.grd.getLsbD k && decide (s.rd64 a k = t)
      let stay := s.grd &&& ~~~go
      let off := s.act &&& ~~~s.grd
      if t.toNat % 4 ≠ 0 then s.raise (.brx a) 0x05 t
      else if stay = 0#32 ∧ off = 0#32 then s.branch t
      else s.divide none ([(s.next, off), (s.cur.pc, stay), (t, go)].filter fun p => decide (p.2 ≠ 0#32))

/-! ## Calls (R115–R118) -/

/-- The link pair and the frame of a call are written, then frames spill until the callee's window fits (R115, R116). -/
def State.callFrame (s : State) (f : Nat) : State × Xfer :=
  let n := 8 * (f + 1)
  let ret := s.next
  let link := fun (g : Group) (p : Nat) (v : W32) => (lanesOf g.ownLanes).foldl (fun g l => g.assign s.seq (p % g.nregs) (laneBit l) fun _ => v) g
  let s1 := s.onG fun g =>
    let g1 := link g (g.win.wb + n - 2) (ret.setWidth 32)
    let g2 := link g1 (g.win.wb + n - 1) (BitVec.ofNat 32 (f * 2 ^ 25 + bits ret.toNat 56 32))
    { g2 with win := { g2.win with frames := g2.win.frames ++ [n] } }
  State.spillFor 200 s1

/-- A call (R115): it traps while the group is divided or too deep, or where the target is misaligned; a stopped spill leaves the call to be executed
again. DESIGN CHOICE (log 16): convergence is checked first, then the depth, then the target. -/
def State.callTo (s : State) (i : Instr) (f : Nat) (t : W64) : State :=
  if !s.g.converged then s.raise i 0x01 (wordVal i)
  else if s.g.win.cd = 65535 then s.raise i 0x14 (s.g.win.wsp.setWidth 64)
  else if t.toNat % 4 ≠ 0 then s.raise i 0x05 t
  else
    match s.callFrame f with
    | (s1, .ok) =>
      (s1.onG fun g => { g with win := { g.win with wb := (g.win.wb + 8 * (f + 1)) % g.nregs, cd := g.win.cd + 1 } }).goto t
    | (s1, .over) => s1
    | (s1, x) => (s1.onG fun g => { g with win := { g.win with frames := g.win.frames.dropLast } }).stopped i x

/-- A call need not wait: it traps, or its frames can be spilled or fault. -/
def State.callGo (s : State) (f : Nat) : Bool :=
  !s.g.converged || decide (s.g.win.cd = 65535) || decide ((s.callFrame f).2 ≠ .hold)

/-- CALL (R115). -/
def execCall (f : BitVec 3) (o : BitVec 22) (s : State) : Result :=
  issueOr (.call f o) s (fun s => s.callGo f.toNat) (fun s => s.holdMarked (s.callFrame f.toNat).1) fun s => s.callTo (.call f o) f.toNat (s.rel o)

/-- CALLX (R115): the target is read in the lowest-numbered active lane. -/
def execCallx (a : Reg) (f : BitVec 3) (s : State) : Result :=
  issueOr (.callx a f) s (fun s => s.callGo f.toNat) (fun s => s.holdMarked (s.callFrame f.toNat).1) fun s => s.callTo (.callx a f) f.toNat (s.value64 a)

/-- The caller's frame is in the ring, refilled if it was spilled (R117). -/
def State.callerFrame (s : State) : State × Xfer :=
  if s.g.win.frames.isEmpty then
    match s.refill s.g.win.wb with
    | (s1, .ok, n) =>
      (s1.onG fun g => { g with win := { g.win with rb := (g.win.wb + g.nregs - n % g.nregs) % g.nregs, frames := [n] } }, .ok)
    | (s1, x, _) => (s1, x)
  else (s, .ok)

/-- RET (R117): back to the caller's window and the link's address. -/
def State.retRun (s : State) : State :=
  if !s.g.converged ∨ s.g.win.cd = 0 then s.raise .ret 0x01 (wordVal .ret)
  else
    match s.callerFrame with
    | (s1, .ok) =>
      let w := s1.g.win
      let l := (lowest s1.act).getD 0
      let n := w.frames.getLast?.getD 0
      let hi := s1.g.getPlace ((w.wb + s1.g.nregs - 1) % s1.g.nregs) l
      let lo := s1.g.getPlace ((w.wb + s1.g.nregs - 2) % s1.g.nregs) l
      let t := BitVec.ofNat 64 (bits hi.toNat 24 0 * 2 ^ 32 + lo.toNat)
      if t.toNat % 4 ≠ 0 then s1.raise .ret 0x05 t
      else
        (s1.onG fun g => { g with win := { g.win with frames := w.frames.dropLast, wb := (w.wb + g.nregs - n % g.nregs) % g.nregs,
                                                       cd := w.cd - 1 } }).goto (sext57 t)
    | (s1, x) => s1.stopped .ret x

/-- RET (R117). -/
def execRet (s : State) : Result :=
  issueOr .ret s (fun s => !s.g.converged || decide (s.g.win.cd = 0) || decide (s.callerFrame.2 ≠ .hold)) (fun s => s.holdMarked s.callerFrame.1)
    fun s => s.retRun

/-! ## Ending and yielding -/

/-- EXIT (R119): the GUARD lanes end; a split without lanes ends. -/
def execExit (s : State) : Result :=
  issue .exit s fun s =>
    let left := s.act &&& ~~~s.grd
    if left = 0#32 then (s.onG fun g => Group.settle g (g.setSplit s.entry none).promote).counted
    else (s.onG fun g => g.onSplit s.entry fun x => { x with mask := left }).done

/-- NOP (R120). -/
def execNop (s : State) : Result := issue .nop s fun s => s.done

/-- A yield is requested of the group (R122). -/
def Group.yielding (g : Group) : Bool := g.yreq.getLsbD 63

/-- YIELD (R121, R123): the split leaves issue until every owed write to d is done; under a request the group goes to its eviction. -/
def execYield (d a : Reg) (s : State) : Result :=
  issue (.yield d a) s fun s =>
    let c := if a = 63#6 then s.next else s.value64 a
    if c.toNat % 4 ≠ 0 then s.raise (.yield d a) 0x05 c
    else
      let s1 := s.onG fun g => if g.yielding then { g with forced := true } else g
      match s1.g.regPlace d with
      | some p => if s1.g.owes p s.seq then (s1.sleep (.yield p c s.seq)).issued else s1.goto c
      | none => s1.goto c

/-! ## MODE (R28–R31, R112, R113) -/

/-- The bits of MODE that a field mask selects (R30). -/
def modeMask (m : BitVec 5) : W32 :=
  (if m.getLsbD 0 then 0xF#32 else 0#32) ||| (if m.getLsbD 1 then 0x1F0#32 else 0#32) ||| (if m.getLsbD 2 then 0xE00#32 else 0#32) |||
  (if m.getLsbD 3 then 0x1000#32 else 0#32) ||| (if m.getLsbD 4 then 0x2000#32 else 0#32)

/-- A value that SETM refuses: a reserved element type or rounding mode, or in the register form a nonzero bit above 14 (R30). -/
def modeBad (reg : Bool) (m : BitVec 5) (x : W32) : Bool :=
  (reg && decide (bits x.toNat 31 15 ≠ 0)) || (m.getLsbD 1 && decide (11 < bits x.toNat 8 4)) || (m.getLsbD 2 && decide (4 < bits x.toNat 11 9))

/-- SETM's effect (R30). -/
def State.setModeTo (s : State) (i : Instr) (reg : Bool) (m : BitVec 5) (x : W32) : State :=
  if modeBad reg m x then s.raise i 0x02 (x.setWidth 64)
  else (s.onG fun g => g.setMode s.entry ((s.md &&& ~~~modeMask m) ||| (x &&& modeMask m))).done

/-- SETM (R30), immediate form. -/
def execSetm (m : BitVec 5) (imm : BitVec 14) (s : State) : Result :=
  issue (.setm m imm) s fun s => s.setModeTo (.setm m imm) false m (imm.setWidth 32)

/-- SETM.r (R30): the operand is a uniform register, z, or the value in the lowest-numbered active lane. -/
def execSetmR (m : BitVec 5) (a : Reg) (s : State) : Result :=
  issue (.setmR m a) s fun s => s.setModeTo (.setmR m a) true m (s.value a)

/-- GETM (R31): the effective MODE. -/
def execGetm (d : Reg) (s : State) : Result := issue (.getm d) s fun s => (s.wr d fun _ => s.md).done

/-- PUSHM (R113). -/
def execPushm (s : State) : Result :=
  issue .pushm s fun s =>
    if s.cur.ms.stack.length = 4 then s.raise .pushm 0x01 (wordVal .pushm)
    else (s.onG fun g => g.onSplit s.entry fun x => { x with ms := { stack := x.ms.stack ++ [s.md], priv := s.md } }).done

/-- POPM (R113). -/
def execPopm (s : State) : Result :=
  issue .popm s fun s =>
    match s.cur.ms.stack.getLast? with
    | none => s.raise .popm 0x01 (wordVal .popm)
    | some m => (s.onG fun g => g.onSplit s.entry fun x => { x with ms := { stack := x.ms.stack.dropLast, priv := m } }).done

/-! ## Events of the split table -/

/-- The lowest lane of a mask; 32 for none. -/
def lowLane (m : W32) : Nat := (lowest m).getD 32

/-- The RP of a merge (R133): the lower of those above the merge PC. -/
def mergeRp (pc : W64) (a b : Option W64) : Option W64 :=
  let up := fun (o : Option W64) => o.filter fun r => decide (pc < r)
  match up a, up b with
  | some x, some y => some (if x ≤ y then x else y)
  | some x, none => some x
  | none, y => y

/-- A split waits for nothing that forbids a merge (R133). -/
def Wait.merges : Wait → Bool
  | .none => true
  | .retry _ => true
  | _ => false

/-- Entry `e` stands at the close of a window that waits for its instruction (R36). -/
def Group.atClose (g : Group) (e : Nat) : Bool :=
  g.wins.any fun w => decide (w.entry = e) && decide (w.left = 0) && w.waits && g.unfinished w.id

/-- Entry `e` of a group on its core is not held by an instruction it has issued: it may merge (R133). -/
def Group.mayMerge (g : Group) (e : Nat) (x : Split) : Bool := decide (g.place = .resident) && x.wait.merges && !g.atClose e

/-- Windows and log entries of two merged splits: the windows close, the entries belong to the lower one (R34, R133), a trap or a parking that has been found with
them (R352). -/
def Group.joinEntry (g : Group) (lo hi : Nat) : Group :=
  let shut := fun (w : LookWin) => if w.entry = lo ∨ w.entry = hi then { w with entry := lo, left := 0 } else w
  let move := fun (x : LogEntry) => if x.entry = hi then { x with entry := lo } else x
  let kept := fun (e : Nat) => if e = hi then lo else e
  { g with wins := g.wins.map shut, log := g.log.map move, trap := g.trap.map fun t => { t with entry := kept t.entry },
           parking := g.parking.map fun p => { p with xfer := p.xfer.map fun x => { x with entry := kept x.entry } } }

/-- SPLIT_MERGE (R133, R134): entry `lo` takes the lanes of entry `hi`, or of parked set `hi` − 4, when their PCs are equal. -/
def Group.merge (g : Group) (lo hi : Nat) : Group :=
  match g.split lo with
  | none => g
  | some x =>
    let join := fun (pc : W64) (mask : W32) (rp : Option W64) (ms : ModeState) =>
      { x with mask := x.mask ||| mask, rp := mergeRp pc x.rp rp, hold := 0, age := 0, wait := .none,
               ms := if x.ms = ms ∨ lowLane x.mask < lowLane mask then x.ms else ms }
    if !g.mayMerge lo x then g
    else if hi < 4 then
      match g.split hi with
      | none => g
      | some y =>
        if lo < hi ∧ g.mayMerge hi y ∧ x.pc = y.pc then
          Group.settle g (((g.joinEntry lo hi).setSplit lo (some (join y.pc y.mask y.rp y.ms))).setSplit hi none).promote
        else g
    else
      match g.parked[hi - 4]? with
      | none => g
      | some p =>
        if x.pc = p.pc then
          Group.settle g (({ g.joinEntry lo lo with parked := g.parked.eraseIdx (hi - 4) } : Group).setSplit lo (some (join p.pc p.mask p.rp p.ms)))
        else g

/-- SPLIT_MERGE (R133). -/
def execSplitMerge (gid lo hi : Nat) (s : State) : Result := occur s fun s => s.onGroup gid fun g => g.merge lo hi

/-- SPLIT_HOLD_TIMEOUT (R132): a split held for 65,536 ticks is released. -/
def execSplitHoldTimeout (gid e : Nat) (s : State) : Result :=
  occur s fun s => s.onGroup gid fun g =>
    match g.split e with
    | some x => if g.held e ∧ 65536 ≤ x.hold then g.onSplit e Split.release else g
    | none => g

/-- YIELD_WAKE (R121): every awaited write is done; the split goes on at its continuation. -/
def execYieldWake (gid e : Nat) (s : State) : Result :=
  occur s fun s => s.onGroup gid fun g =>
    match g.split e with
    | some x =>
      match x.wait with
      | .yield p c n => if g.owes p n then g else Group.settle g (g.onSplit e fun y => { y with pc := c, wait := .none })
      | _ => g
    | none => g

/-- The group is the last of a team whose run of scratchpad another team's access still uses: the run is not freed yet (R159; DESIGN CHOICE, log 81). -/
def State.runHeld (s : State) (g : Group) : Bool :=
  ((s.teamGroups g.tid).all fun x => decide (x.gid = g.gid)) && (match s.teamOf g with | some t => !t.swapped && s.runBusy t | none => false)

/-- A group has ended (R119): no lane left, its accesses accepted, its commands and batches complete. -/
def State.groupOver (s : State) (g : Group) : Bool :=
  g.present && decide (g.place ≠ .lapsed) && g.live.isEmpty && g.parked.isEmpty && g.log.isEmpty && g.owed.isEmpty && g.mqueue.isEmpty &&
    (s.m.reqs.all fun r => decide (r.gid ≠ g.gid) || r.accepted) && (s.eng.cmds.all fun c => decide (c.gid ≠ g.gid)) && !s.runHeld g

/-- GROUP_END (R119): the group's resources are released; the last group of a team ends it. -/
def execGroupEnd (gid : Nat) (s : State) : Result :=
  occur s fun s =>
    match s.find gid with
    | some g => if s.groupOver g then s.removeGroup g else s
    | none => s

end Sys2Proof.Machine
end

