-- ==== Sys2Proof/Machine/Residency.lean ====
section
/-!
DEFINITION. Sys2Proof/Machine/Residency.lean: parking (R298, R333–R336), residency handles and the migration engine (R337–R341), major 0x7A.
-/

namespace Sys2Proof.Machine

open Sys2Proof

/-! ## Parking (R333, R335, R336) -/

/-- FLASH_DEFER's effect on its lane: the lane's request leaves, and the lane stays pending in the log. -/
def State.deferLane (s : State) (r : Req) : State :=
  let mine := fun (q : Req) => decide (q.gid = r.gid) && decide (q.log = r.log) && decide (q.lane = r.lane) && !q.accepted && !q.performed
  let back := fun (e : LogEntry) => if e.seq = r.log then { e with flight := e.flight &&& ~~~(laneBit r.lane) } else e
  let s1 : State := { s with m := { s.m with reqs := s.m.reqs.filter fun q => !mine q } }
  ((s1.onGroup r.gid fun g => { g with log := g.log.map back })).inGroup r.gid fun s => s.parkLanes 1 (laneBit r.lane) none

/-- FLASH_DEFER (R333): a load of a page that is being relocated is answered by a defer; its lane stays pending and its group parks. -/
def execFlashDefer (rid : Nat) (s : State) : Result :=
  occur s fun s =>
    match s.m.reqs.find? fun r => decide (r.rid = rid) with
    | none => s
    | some r => if r.kind = .load ∧ s.liveTag r.ctx r.inc ∧ s.deferred r ∧ !s.reqWaits r then s.deferLane r else s

/-- The address of a lane still parks: its page is being relocated, its stack holds requests, or it is compressed and not yet expanded. -/
def State.parksStill (s : State) (t : Target) (k : ReqKind) : Bool :=
  match t with
  | .park _ => true
  | .ok .vm key _ _ =>
    s.stackHeld key || (decide (k = .load) && decide (tierOf key = some .flash) && (s.fl.relocating.any fun p => decide (p = key / 4096)) &&
      (s.m.l2Line (lineOf key)).isNone)
  | _ => false

/-- A pending access of a parked group must wait on. -/
def State.entryParks (s : State) (g : Group) (e : LogEntry) : Bool :=
  match accSpec e.i e.mode with
  | none => false
  | some sp => (s.targets g e.i sp e.addr (lanesOf (e.pend &&& ~~~e.flight))).2.any fun t => s.parksStill t.2 sp.kind

/-- Nothing of a group can issue: each of its splits waits, or it has none left. -/
def Group.standing (g : Group) : Bool := g.splits.all fun x => match x with | some y => decide (y.wait ≠ .none) | none => true

/-- The packets that a LAND close of a group waits for (R296): those that have reached its landing in a sleeping stack. -/
def State.closePackets (s : State) (g : Group) : List HeldPacket :=
  if s.eng.landings.any fun x => decide (x.closing = some g.gid) then s.eng.held.filter fun p => decide (p.ctx = g.ctx) && s.packetHeld p else []

/-- The TIMEs at which the requests issued that a group waits on and that a sleeping stack holds: its own accesses, its IRED commands, its near-bank sequences, and
the packets that its LAND close waits for (R298). -/
def State.heldSince (s : State) (g : Group) : List W64 :=
  ((s.m.reqs.filter fun r => decide (r.gid = g.gid) && decide (r.space = .vm) && s.stackHeld r.key).map fun r => r.issued) ++
    (if g.standing then
      ((s.eng.ired.filter fun c => decide (c.gid = g.gid) && (s.stackHeld c.counter || c.lines.any fun p => !s.awake (p.1 :: p.2))).map fun c => c.since) ++
        ((s.eng.nb.filter fun q => decide (q.gid = g.gid) && s.stackHeld q.page).map fun q => q.since) ++ (s.closePackets g).map fun p => p.since
     else [])

/-- What a group is parked for is not over yet. -/
def State.stillParked (s : State) (g : Group) (p : Parking) : Bool :=
  if p.reason = 2 then decide (s.heldSince g ≠ [])
  else
    g.log.any (s.entryParks g) || (match p.xfer with | some x => s.parksStill (s.globalTarget g .nop .write false x.va).2 .store | none => false)

/-- The log entry of the lowest pending lane of a parked group. -/
def parkedEntry (g : Group) : Option (LogEntry × Nat) :=
  let waiting := g.log.filter fun e => (accSpec e.i e.mode).isSome && decide (e.pend &&& ~~~e.flight ≠ 0#32)
  let low := fun (e : LogEntry) => (lowest (e.pend &&& ~~~e.flight)).getD 0
  waiting.foldl (fun b e => match b with | some (x, l) => if low e < l then some (e, low e) else some (x, l) | none => some (e, low e)) none

/-- PARKING_ESCALATION's effect: requests not begun are withdrawn, and the group traps with parking escalation; a CALL, RET or TRET parked on its slice
has not issued, and is the instruction reported (R352). -/
def State.escalate (s : State) (p : Parking) : State :=
  let live := fun (e : LogEntry) => maskOf fun l => s.m.reqs.any fun r => decide (r.gid = s.g.gid) && decide (r.log = e.seq) && decide (r.lane = l) && (r.accepted || r.performed)
  let back := fun (e : LogEntry) => if (accSpec e.i e.mode).isSome then { e with flight := e.flight &&& live e } else e
  let s1 := (s.withdraw s.g.gid).onG fun g =>
    { g with parking := none, parkc := g.parkc ||| 0x0800000000000000#64, log := g.log.map back }
  let lanes := (s1.g.log.filter fun e => (accSpec e.i e.mode).isSome).foldl (fun m e => m ||| (e.pend &&& ~~~e.flight)) 0#32
  match parkedEntry s1.g with
  | some (e, l) =>
    s1.report { cause := 0x13, async := false, val := Store.get e.addr l, ins := encode e.i, fmask := lanes, wdet := 0, logged := some e.id, entry := e.entry }
  | none =>
    let x := p.xfer.getD { va := 0, ins := 0, entry := s1.entry }
    s1.report { cause := 0x13, async := false, val := x.va, ins := x.ins, fmask := p.pend, wdet := 0, logged := none, entry := x.entry }

/-- The parking has lasted 100,000,000 ticks (R336). -/
def State.parkedOut (s : State) (p : Parking) : Bool := decide (p.start.toNat + 100000000 ≤ s.dev.time.toNat)

/-- PARKING_ESCALATION (R336): a parking has lasted 100,000,000 ticks. -/
def execParkingEscalation (gid : Nat) (s : State) : Result :=
  occur s fun s =>
    match s.find gid with
    | none => s
    | some g =>
      match g.parking with
      | none => s
      | some p => if g.place ≠ .resident ∨ !s.parkedOut p then s else s.inGroup gid fun s => s.escalate p

/-- PARKING_WAKE (R333, R338, R339, R298): the group is woken and re-issues its pending lanes; one whose parking has lasted 100,000,000 ticks traps instead
(R336). -/
def execParkingWake (gid : Nat) (s : State) : Result :=
  occur s fun s =>
    match s.find gid with
    | none => s
    | some g =>
      match g.parking with
      | none => s
      | some p =>
        if g.place ≠ .resident ∨ (s.stillParked g p ∧ !s.parkedOut p) then s
        else s.inGroup gid fun s => if s.parkedOut p then s.escalate p else (s.onG fun g => { g with parking := none }).reissue

/-- THERMAL_HOLD_PARK (R298): the group waits on a request that a sleeping stack has held for more than 2 ms; its parking starts at that point (R336). -/
def execThermalHoldPark (gid : Nat) (s : State) : Result :=
  occur s fun s =>
    match s.find gid with
    | none => s
    | some g =>
      let old := (s.heldSince g).filter fun t => decide (t.toNat + 2000000 < s.dev.time.toNat)
      let first := old.foldl (fun a t => if t < a then t else a) s.dev.time
      let lanes := (s.m.reqs.filter fun r => decide (r.gid = gid) && decide (r.space = .vm) && s.stackHeld r.key).foldl (fun m r => m ||| laneBit r.lane) 0#32
      if g.place ≠ .resident ∨ g.parking.isSome ∨ old.isEmpty then s
      else s.inGroup gid fun s => s.parkFrom (first + 2000000#64) 2 lanes none

/-! ## Residency handles (R337, R340, R341) -/

/-- The pages of a handle as virtual addresses. -/
def ResHandle.addrs (h : ResHandle) : List W64 := (List.range h.pages).map fun k => h.base + BitVec.ofNat 64 (4096 * k)

/-- A live handle by its context and index. -/
def State.tensor (s : State) (c : BitVec 12) (idx : Nat) : Option ResHandle :=
  s.fl.handles.find? fun h => decide (h.ctx = c) && decide (h.idx = idx) && h.live

/-- Two ranges of pages of one context meet. -/
def rangesMeet (a : Nat) (n : Nat) (b : Nat) (m : Nat) : Bool := decide (a < b + 4096 * m) && decide (b < a + 4096 * n)

/-- What the leaves of a range give, read page by page: all pass a test, one fails it, or an entry that leads to one is poisoned. -/
inductive PageTest where
  | pass
  | fails
  | poison
  deriving DecidableEq, Repr

/-- The leaves of a range against a test. -/
def State.pageTest (s : State) (c : BitVec 12) (ok : Leaf → Bool) : Nat → W64 → PageTest
  | 0, _ => .pass
  | n + 1, va =>
    match s.m.walk va 5 (s.rootOf c) with
    | .leaf l => if ok l then State.pageTest s c ok n (va + 4096#64) else .fails
    | .bad _ _ => .fails
    | .poison => .poison

/-- Some page of a range fails a test of its leaf. -/
def State.pageFails (s : State) (c : BitVec 12) (ok : Leaf → Bool) (n : Nat) (va : W64) : Bool := decide (s.pageTest c ok n va ≠ .pass)

/-- The context's own page: a leaf that is not global (log 29). -/
def ownLeaf (l : Leaf) : Bool := !l.pte.getLsbD 5

/-- A leaf the migration engine may move (R337). -/
def movableLeaf (l : Leaf) : Bool := decide (l.pte.extractLsb' 8 4 = 0#4) && (decide (pteTier l.pte = .hbm) || decide (pteTier l.pte = .lpd))

/-- The lowest index of a context without a live handle and without a move in progress, else the lowest without a live handle, whose old tensor's move is
abandoned (R340, R341). -/
def State.freeHandle (s : State) (c : BitVec 12) : Option Nat :=
  ((List.range 256).find? fun k => (s.tensor c k).isNone && s.fl.moves.all fun v => !(decide (v.ctx = c) && decide (v.idx = k))).or
    ((List.range 256).find? fun k => (s.tensor c k).isNone)

/-- A move ends, and what it waited for. -/
def State.endTensorMove (s : State) (c : BitVec 12) (idx : Nat) : State :=
  ({ s with fl := { s.fl with moves := s.fl.moves.filter fun v => !(decide (v.ctx = c) && decide (v.idx = idx)) } } : State).forgetName (moveName c idx)

/-- The generation of an index at its next use: 1 to 255, skipping 0. -/
def nextGen (n : Nat) : Nat := n % 255 + 1

/-- The latest generation of an index; 0 before its first use. -/
def State.tensorGen (s : State) (c : BitVec 12) (idx : Nat) : Nat :=
  match s.fl.handles.find? fun h => decide (h.ctx = c) && decide (h.idx = idx) with
  | some h => h.gen
  | none => 0

/-- Writes a handle. -/
def State.putHandle (s : State) (h : ResHandle) : State :=
  { s with fl := { s.fl with handles := (s.fl.handles.filter fun x => !(decide (x.ctx = h.ctx) && decide (x.idx = h.idx))) ++ [h] } }

/-- The trap of THSET (R340): cause and TVAL. -/
def thsetTrap (base : W64) (n ctl : W32) : Option (Nat × W64) :=
  if base.toNat % 4096 ≠ 0 then some (0x05, base)
  else if n = 0#32 ∨ bits ctl.toNat 31 8 ≠ 0 ∨ bits ctl.toNat 5 4 ≠ 0 ∨ bits ctl.toNat 7 6 = 3 then some (0x02, ctl.setWidth 64)
  else if !canonical base ∨ !canonical (base + BitVec.ofNat 64 (4096 * n.toNat - 1)) then some (0x09, base)
  else none

/-- The live handle of a context on exactly a range. -/
def State.sameRange (s : State) (c : BitVec 12) (base : W64) (n : W32) : Option ResHandle :=
  s.fl.handles.find? fun h => decide (h.ctx = c) && h.live && decide (h.base = base) && decide (h.pages = n.toNat)

/-- THSET reads a poisoned table entry before it finds a page that fails (R340, R433). -/
def State.thsetPoison (s : State) (base : W64) (n : W32) : Bool :=
  (s.sameRange s.g.ctx base n).isNone && decide (s.pageTest s.g.ctx ownLeaf n.toNat base = .poison)

/-- THSET past its traps: the state and the result word (R340). -/
def State.setHandle (s : State) (base : W64) (n ctl : W32) : State × W32 :=
  let c := s.g.ctx
  let fill := fun (h : ResHandle) => { h with prio := bits ctl.toNat 2 0, placement := bits ctl.toNat 7 6, compress := ctl.getLsbD 3 }
  let word := fun (h : ResHandle) => BitVec.ofNat 32 (0x80000000 + 256 * h.gen + h.idx)
  let fail := fun (k : Nat) => (s, BitVec.ofNat 32 (k * 0x1000000))
  match s.sameRange c base n with
  | some h => (s.putHandle (fill h), word h)
  | none =>
    if s.pageFails c ownLeaf n.toNat base then fail 2
    else if s.pageFails c movableLeaf n.toNat base then fail 3
    else if s.fl.handles.any fun h => decide (h.ctx = c) && h.live && rangesMeet base.toNat n.toNat h.base.toNat h.pages then fail 4
    else
      match s.freeHandle c with
      | none => fail 1
      | some k =>
        let h := fill { ctx := c, idx := k, gen := nextGen (s.tensorGen c k), live := true, base := base, pages := n.toNat, prio := 0,
                        placement := 0, compress := false }
        ((s.endTensorMove c k).putHandle h, word h)

/-- THSET (R340): a residency handle is created or updated. -/
def execThset (d a b : Reg) (s : State) : Result :=
  issue (.thset d a b) s fun s =>
    match s.issuer with
    | none => s.done
    | some l =>
      let base := s.rd64 a l
      let ctl := if b = 63#6 then 0#32 else s.rd (b + 1#6) l
      match thsetTrap base (s.rd b l) ctl with
      | some (c, v) => s.raise (.thset d a b) c v
      | none =>
        if s.thsetPoison base (s.rd b l) then s.poisonStop (.thset d a b) base
        else
          let r := s.setHandle base (s.rd b l) ctl
          (r.1.wr d fun _ => r.2).done

/-- The handle that 16 bits name is live. -/
def State.tensorOf (s : State) (v : Nat) : Option ResHandle :=
  match s.tensor s.g.ctx (v % 256) with
  | some h => if h.gen = v / 256 % 256 then some h else none
  | none => none

/-- THCLR (R341): a residency handle is deleted. -/
def execThclr (d a : Reg) (s : State) : Result :=
  issue (.thclr d a) s fun s =>
    match s.issuer with
    | none => s.done
    | some l =>
      let v := s.rd a l
      if bits v.toNat 31 16 ≠ 0 then s.raise (.thclr d a) 0x02 (v.setWidth 64)
      else
        match s.tensorOf v.toNat with
        | some h => ((s.putHandle { h with live := false }).wr d fun _ => 0x80000000#32).done
        | none => (s.wr d fun _ => 0x01000000#32).done

/-! ## The migration engine (R337–R339) -/

/-- The leaf of a page in its context's table. -/
def State.leafAt (s : State) (c : BitVec 12) (va : W64) : Option Leaf :=
  match s.m.walk va 5 (s.rootOf c) with
  | .leaf l => some l
  | _ => none

/-- Some page of a tensor lies on a tier. -/
def State.onTier (s : State) (h : ResHandle) (t : Tier) : Bool :=
  h.addrs.any fun va => match s.leafAt h.ctx va with | some l => decide (pteTier l.pte = t) | none => false

/-- The move of a tensor, if one is in progress. -/
def State.moveOf (s : State) (c : BitVec 12) (idx : Nat) : Option Move :=
  s.fl.moves.find? fun v => decide (v.ctx = c) && decide (v.idx = idx)

/-- No move of the tensor is in progress, and an abandoned one may be tried again (R338). -/
def State.mayMove (s : State) (c : BitVec 12) (idx : Nat) : Bool :=
  (s.moveOf c idx).isNone && s.fl.notBefore.all fun v => !(decide (v.1 = c) && decide (v.2.1 = idx)) || decide (v.2.2 ≤ s.dev.time)

/-- HBM4E free space is below the firmware watermark, and does not allow a promotion: the part names neither (DESIGN CHOICE, log 89: a free choice at each decision). -/
def State.hbmShort (s : State) : Bool := decide (Config.choose s.fresh 337 % 2 = 1)

/-- A tensor that asks to move at once: a fast one on LPDDR6 where space allows, a capacity one on HBM4E (R337). -/
def State.urgent (s : State) (h : ResHandle) : Bool :=
  h.live && ((decide (h.placement = 1) && s.onTier h .lpd && !s.hbmShort) || (decide (h.placement = 2) && s.onTier h .hbm))

/-- When a tensor was accessed last; 0 where it was not since its handle was set (R337). -/
def State.lastUse (s : State) (h : ResHandle) : W64 :=
  match s.m.uses.find? fun u => decide (u.ctx = h.ctx) && decide (u.idx = h.idx) && decide (u.gen = h.gen) with
  | some u => u.time
  | none => 0

/-- The leaves of a tensor's range: each once, with the first page it maps; none where a page has lost its leaf or a leaf reaches outside the
range (R338). -/
def State.tensorLeaves (s : State) (h : ResHandle) : Option (List (Leaf × Nat)) :=
  h.addrs.foldr (fun va r =>
    match r, s.leafAt h.ctx va with
    | some ls, some l =>
      let first := va.toNat / pageBytes l.level * pageBytes l.level
      if !movableLeaf l ∨ first < h.base.toNat ∨ h.base.toNat + 4096 * h.pages < first + pageBytes l.level then none
      else if first = va.toNat then some ((l, (va.toNat - h.base.toNat) / 4096) :: ls) else some ls
    | _, _ => none) (some [])

/-- The engine can take a tensor now: no move of it is under way or was given up of late, and each of its pages has a leaf that may move (R337, R338). -/
def State.movable (s : State) (h : ResHandle) : Bool := s.mayMove h.ctx h.idx && (s.tensorLeaves h).isSome

/-- Another auto tensor that may move comes before `h`: on HBM4E one of lower priority, or of the same and accessed less recently, for a demotion, on LPDDR6
one of higher priority for a promotion (R337). -/
def State.outranked (s : State) (h : ResHandle) (up : Bool) : Bool :=
  s.fl.handles.any fun x => x.live && decide (x.placement = 0) && s.movable x &&
    (if up then s.onTier x .lpd && decide (h.prio < x.prio) else s.onTier x .hbm && (decide (x.prio < h.prio) || (decide (x.prio = h.prio) && decide (s.lastUse x < s.lastUse h))))

/-- Where the engine may take a tensor next: `some true` to HBM4E, `some false` to LPDDR6 (R337). Those that ask to move at once come before the auto tensors,
which are demoted under pressure, the lowest priority first and never priority 7, and promoted without it, the highest priority first. -/
def State.wish (s : State) (h : ResHandle) : Option Bool :=
  if s.urgent h then some (decide (h.placement = 1))
  else if h.placement ≠ 0 ∨ (s.fl.handles.any fun x => s.urgent x && s.movable x) then none
  else if s.hbmShort then (if s.onTier h .hbm ∧ h.prio ≠ 7 ∧ !s.outranked h false then some false else none)
  else if s.onTier h .lpd ∧ !s.outranked h true then some true else none

/-- MIGRATION_DECISION (R337): the engine decides to move a tensor and begins to copy it. -/
def execMigrationDecision (c : BitVec 12) (h : BitVec 8) (s : State) : Result :=
  occur s fun s =>
    match s.tensor c h.toNat with
    | none => s
    | some x =>
      if !s.mayMove c x.idx then s
      else
        match s.wish x, s.tensorLeaves x with
        | some up, some ls =>
          let v : Move := { ctx := c, idx := x.idx, toHbm := up, since := s.dev.time, leaves := ls.map (fun p => (p.1.slot, pteCore p.1.pte)), switching := none }
          { s with fl := { s.fl with moves := s.fl.moves ++ [v], decided := s.dev.time } }
        | _, _ => s

/-- A page lies in a leaf's frames. -/
def inLeaf (l : Leaf) (pa : Nat) : Bool := decide (ptePa l.pte ≤ pa) && decide (pa < ptePa l.pte + pageBytes l.level)

/-- No access to a page is in flight, and nothing at its home holds back the rewriting of its leaf by `who`. -/
def State.leafFree (s : State) (who : Nat) (l : Leaf) : Bool :=
  s.partReady who l.slot && (s.m.reqs.all fun r => decide (r.space ≠ .vm) || !inLeaf l r.key) &&
    (s.eng.ired.all fun c => c.lines.all fun p => p.2.all fun t => !inLeaf l t) &&
    (s.m.keel.all fun k => k.dirty.isEmpty || !inLeaf l (128 * k.line)) && s.m.leases.all fun p => !inLeaf l (128 * p.1) || decide (p.2 ≤ s.dev.time)

/-- The frames of a place of the new tier are no tensor's present ones. -/
def freshFrames (up : Bool) (dst n : Nat) (ls : List (Leaf × Nat)) : Bool :=
  let t : Option Tier := some (if up then .hbm else .lpd)
  decide (tierOf dst = t) && decide (tierOf (dst + 4096 * n - 1) = t) && !inStore dst && !inStore (dst + 4096 * n - 1) &&
    ls.all fun p => decide (dst + 4096 * n ≤ ptePa p.1.pte) || decide (ptePa p.1.pte + pageBytes p.1.level ≤ dst)

/-- The contents of a run of lines move to other frames: bytes, poison, race records (R183, R338), and the old-value records of the lines (log 30). -/
def State.moveBytes (s : State) (src dst n : Nat) : State :=
  let dirty := (List.range (n / 128)).foldl (fun (m : MemSys) k => m.evictL2 (src / 128 + k)) s.m
  let gone := fun (line : Nat) => decide (dst / 128 ≤ line) && decide (line < (dst + n) / 128)
  let old := fun (line : Nat) => decide (src / 128 ≤ line) && decide (line < (src + n) / 128)
  let mv := fun (line : Nat) => line - src / 128 + dst / 128
  let marks := dirty.poison.filter fun k => decide (src / 32 ≤ k) && decide (k < (src + n) / 32)
  let m1 : MemSys := { dirty with
    mem := Store.replace dirty.mem dst n (Store.slice dirty.mem src n),
    l2 := dirty.l2.filter fun x => !gone x.line, l1 := dirty.l1.filter fun x => !gone x.line && !old x.line,
    keel := dirty.keel.filter fun x => !gone x.line && !old x.line, dir := dirty.dir.filter fun x => !gone x.line && !old x.line,
    icache := dirty.icache.filter fun x => !gone x.line && !old x.line,
    covers := dirty.covers.filter fun c => !gone (c.sector / 4) && !old (c.sector / 4),
    races := (dirty.races.filter fun x => !gone (x.word / 32)).map fun x => if old (x.word / 32) then { x with word := x.word - src / 4 + dst / 4 } else x,
    poison := (dirty.poison.filter fun k => !gone (k / 4) && !old (k / 4)) ++ marks.map fun k => k - src / 32 + dst / 32 }
  let logs := (s.ck.logs.filter fun r => !gone r.line).map fun r => if old r.line then { r with line := mv r.line } else r
  { s with m := m1, ck := { s.ck with logs := logs } }

/-- A leaf names a compressed frame that the engine does not keep for it: the page's bytes are unpredictable (R327, R339). -/
def State.wildFrame (s : State) (l : Leaf) : Bool := l.pte.getLsbD 56 && s.fl.zframes.all fun f => decide (f ≠ (ptePa l.pte / 4096, l.slot))

/-- A frame takes unpredictable bytes: none of its lines is cached, and they act as initial (R327). -/
def State.noise (s : State) (dst : Nat) : State :=
  let s1 := s.moveBytes dst dst 4096
  { s1 with m := { s1.m with mem := (List.range 512).foldl (fun m k => Store.putLE m (dst + 8 * k) 8 (Config.unpredictable s.fresh k).toNat) s1.m.mem } }

/-- A leaf names its new place: tier, PPN and Z; a demoted page may be held compressed (R339). -/
def State.retarget (s : State) (h : ResHandle) (up : Bool) (p : Leaf × Nat) (dst : Nat) : State :=
  let l := p.1
  let z := !up && h.compress && decide (l.level = 1) && decide (Config.choose s.fresh dst % 2 = 1)
  let new := (l.pte &&& ~~~0x013FFFFFFFFFF000#64) ||| BitVec.ofNat 64 (dst + (if up then 0 else 2 ^ 52) + (if z then 2 ^ 56 else 0))
  let s1 := (if s.wildFrame l then s.noise dst else s.moveBytes (ptePa l.pte) dst (pageBytes l.level)).putLeaf l.slot l.pte new
  let zs := s1.fl.zframes.filter fun f => decide (f.2 ≠ l.slot)
  { s1 with fl := { s1.fl with zframes := if z then zs ++ [(dst / 4096, l.slot)] else zs } }

/-- The move is given up, and not tried again for 1,000,000 ticks (R338). -/
def State.abandonMove (s : State) (c : BitVec 12) (idx : Nat) : State :=
  let s1 := s.endTensorMove c idx
  let rest := s1.fl.notBefore.filter fun v => !(decide (v.1 = c) && decide (v.2.1 = idx))
  { s1 with fl := { s1.fl with notBefore := rest ++ [(c, idx, s.dev.time + 1000000#64)] } }

/-- The leaves of a tensor that system software has changed since its move began: other than by A and D (R338). -/
def Move.changed (v : Move) (ls : List (Leaf × Nat)) : Bool := decide ((ls.map fun p => (p.1.slot, pteCore p.1.pte)) ≠ v.leaves)

/-- The switch phase of a move has lasted 200,000 ticks (R338). -/
def State.switchOver (s : State) (v : Move) : Bool := match v.switching with | some t => decide (t.toNat + 200000 < s.dev.time.toNat) | none => false

/-- The switch phase begins: accesses to the tensor park or are delayed from now on (R338). -/
def State.beginSwitch (s : State) (c : BitVec 12) (idx : Nat) : State :=
  let on := fun (v : Move) => if v.ctx = c ∧ v.idx = idx then { v with switching := some s.dev.time } else v
  { s with fl := { s.fl with moves := s.fl.moves.map on } }

/-- Every leaf of a tensor can be rewritten now, to its page's place among the frames from a place on. -/
def State.switchReady (s : State) (v : Move) (x : ResHandle) (ls : List (Leaf × Nat)) (dst : Nat) : Bool :=
  freshFrames v.toHbm dst x.pages ls && ls.all fun p => s.leafFree (moveName v.ctx v.idx) p.1 && decide ((dst + 4096 * p.2) % pageBytes p.1.level = 0)

/-- TENSOR_MOVE_SWITCH (R338): a first one begins the switch phase; a later one rewrites every leaf to its page's place among the frames from `frame` on, once no
access is in flight. Where a leaf has changed, or the phase has lasted 200,000 ticks, none is rewritten and the move is abandoned. -/
def execTensorMoveSwitch (c : BitVec 12) (h : BitVec 8) (frame : Nat) (s : State) : Result :=
  occur s fun s =>
    match s.moveOf c h.toNat, s.fl.handles.find? fun x => decide (x.ctx = c) && decide (x.idx = h.toNat) with
    | some v, some x =>
      match s.tensorLeaves x with
      | none => s.abandonMove c h.toNat
      | some ls =>
        let go := ls.filter fun p => decide (pteTier p.1.pte ≠ if v.toHbm then .hbm else .lpd)
        if v.changed ls || s.switchOver v then s.abandonMove c h.toNat
        else if v.switching.isNone then s.beginSwitch c h.toNat
        else if s.switchReady v x ls (4096 * frame) then
          (go.foldl (fun s p => s.retarget x v.toHbm p (4096 * frame + 4096 * p.2)) s).endTensorMove c h.toNat
        else s.awaitAll (moveName c h.toNat) (go.map fun p => p.1.slot)
    | _, _ => s

/-- A move must be given up: a leaf has changed under system software, its handle is gone, or the switch would pass 200,000 ticks (R338, R341). -/
def State.mustAbandon (s : State) (v : Move) : Bool :=
  (match v.switching with | some t => decide (t.toNat + 200000 ≤ s.dev.time.toNat) | none => false) ||
    (match s.tensor v.ctx v.idx with
     | some x => (match s.tensorLeaves x with | some ls => v.changed ls | none => true)
     | none => true)

/-- TENSOR_MOVE_ABANDON (R338): a move that must be given up is. -/
def execTensorMoveAbandon (c : BitVec 12) (h : BitVec 8) (s : State) : Result :=
  occur s fun s =>
    match s.moveOf c h.toNat with
    | none => s
    | some v => if s.mustAbandon v then s.abandonMove c h.toNat else s

/-- COMPRESSED_PAGE_EXPAND (R339): the page that the leaf at an address maps compressed moves to an ordinary LPDDR6 frame, and Z is cleared; where the engine
keeps no such page, its bytes are unpredictable (R327). -/
def execCompressedPageExpand (leaf frame : Nat) (s : State) : Result :=
  occur s fun s =>
    let p := BitVec.ofNat 64 (s.m.homeRead leaf 8)
    let l : Leaf := { pte := p, level := 1, slot := leaf }
    if !p.getLsbD 0 ∨ pteRule 1 p ≠ 0 ∨ !p.getLsbD 56 ∨
        !freshFrames false (4096 * frame) 1 [(l, 0)] ∨ (s.fl.zframes.any fun f => decide (f.1 = frame)) then s
    else if !s.leafFree (expandName leaf) l then s.await (expandName leaf) leaf
    else
      let s0 := if s.wildFrame l then s.noise (4096 * frame) else s.moveBytes (ptePa p) (4096 * frame) 4096
      let s1 := s0.putLeaf leaf p ((p &&& ~~~0x010FFFFFFFFFF000#64) ||| BitVec.ofNat 64 (4096 * frame))
      ({ s1 with fl := { s1.fl with zframes := s1.fl.zframes.filter fun f => decide (f.2 ≠ leaf) } } : State).forgetName (expandName leaf)

end Sys2Proof.Machine
end

