-- ==== Sys2Proof/Machine/Lapse.lean ====
section
/-!
DEFINITION. Sys2Proof/Machine/Lapse.lean: tile lapse and resume (R410–R417), the column write buffer (R419), major 0x7D: SHSEAL (R418).
-/

namespace Sys2Proof.Machine

open Sys2Proof

/-! ## SHSEAL (R418) -/

/-- The images of the group in focus and of its team are written with a reason; the number of frames. -/
def State.sealImages (s : State) (reason : Nat) : State × Nat :=
  let epoch := (s.coreRec s.g.core).epoch
  let r1 := s.commitG s.g epoch reason
  match r1.1.teamOf s.g with
  | none => r1
  | some t =>
    let r2 := r1.1.commitT t epoch reason
    (r2.1, r1.2 + r2.2)

/-- The stopped and drained group's image and its team's are written, then d, and SHSEAL has issued (R418). -/
def State.finishSeal (s : State) (d : Reg) : State :=
  let r := (s.stopGroup s.g.gid).sealImages 3
  (r.1.wr d fun _ => BitVec.ofNat 32 (0x80000000 + r.2)).done

/-- SHSEAL (R418): the group's splits stop, it drains, its image and its team's are written, and it goes on. -/
def execShseal (d : Reg) (s : State) : Result :=
  issueOr (.shseal d) s (fun s => s.g.onControl || s.drainedGroup s.g) (fun s => s.holdIn (.sealing d true)) fun s =>
    if s.g.onControl then (s.wr d fun _ => 0x80000000#32).done else (s.finishSeal d).reissue

/-! ## The column write buffer (R419) -/

/-- COLUMN_BUFFER_DRAIN (R419): the oldest entry of a core's buffer drains into the array. -/
def execColumnBufferDrain (core : Nat) (s : State) : Result :=
  occur s fun s => if s.lapsed core then s else { s with onchip := s.onchip.drainColumn core }

/-! ## Lapse (R410–R412) -/

/-- A gondola that leaves or heads for the core ends: its group stays at its source (R150). -/
def State.haltMoves (s : State) (core : Nat) : State :=
  s.mapGroups (fun g => g.inFlight core) fun g =>
    match g.gmove with
    | some m => { g with place := .resident }.endMove m false 2
    | none => { g with place := .resident }

/-- Every resident group of the core is stopped and drained. -/
def State.lapseReady (s : State) (core : Nat) : Bool := (s.resident core).all s.drainedGroup

/-- What a split holds in that a lapse completes (R417): SHSEAL, with its d; PFENCE.tile, whose column writes the lapse has drained. DESIGN CHOICE (log 108): a
PFENCE.tile that waits for something else too, a load or an engine command, is issued again after the resume. -/
def State.lapseSplit (s : State) (e : Nat) : State :=
  match s.g.split e with
  | none => s
  | some x =>
    match x.wait with
    | .sealing d _ => { ({ s with entry := e } : State).finishSeal d with entry := s.entry }
    | .fencing _ =>
      let t : State := { s with entry := e }
      if t.anyPending then s else { (t.onG fun g => g.stampO s.dev.time).done with entry := s.entry }
    | _ => s

/-- The instructions that a lapse of a core completes do so before its commit (R417). -/
def State.lapseHeld (s : State) (core : Nat) : State :=
  ((s.resident core).map (·.gid)).foldl (fun s gid => s.inGroup gid fun s => (List.range 4).foldl State.lapseSplit s) s

/-- The power of a tile goes: its resident groups stop where they are, its caches are lost. -/
def State.powerOff (s : State) (core : Nat) : State :=
  let run := (s.resident core).map (·.gid)
  let s1 := run.foldl State.stopGroup s
  let s2 := s1.mapGroups (fun g => decide (g.place = .resident) && decide (g.core = core)) fun g => { g with place := .lapsed }
  { s2 with m := s2.m.coldCore core }

/-- The images of a core in ascending directory entry. -/
def State.coreImages (s : State) (core : Nat) : List Image :=
  (List.range 128).filterMap fun k => s.ck.images.find? fun i => decide (i.core = core) && decide (i.entry = k)

/-- A lapse commit writes one image, if its group or team is resident on the tile (R410). -/
def State.commitImage (s : State) (epoch : W32) (i : Image) : State :=
  if i.team then
    match s.team i.owner with
    | some t => if t.swapped then s else (s.commitT t epoch 1).1
    | none => s
  else
    match s.find i.owner with
    | some g => if g.place = .lapsed then (s.commitG g epoch 1).1 else s
    | none => s

/-- A lapse commit writes the image: its group, or its team, is resident on the tile (R410). -/
def State.writesImage (s : State) (i : Image) : Bool :=
  if i.team then (match s.team i.owner with | some t => !t.swapped | none => false)
  else match s.find i.owner with | some g => decide (g.place = .lapsed) | none => false

/-- The images that a commit writes, in its order: groups, then teams (R410). -/
def State.commitOrder (s : State) (core : Nat) : List Image :=
  let mine := (s.coreImages core).filter s.writesImage
  (mine.filter fun i => !i.team) ++ mine.filter fun i => i.team

/-- The event counters of a core (R445). -/
def State.counters (s : State) (core : Nat) : Store 64 := Store.slice s.dev.evcnt (8 * core) 8

/-- The commit of a lapse closes (R410): column writes drain first, then what the lapse completes, then groups' images and teams' images; the core's counters are saved
(R447). -/
def State.lapseCommit (s : State) (core : Nat) : State :=
  let s1 : State := { s with onchip := s.onchip.drainAll core }
  let s2 := ((s1.haltMoves core).lapseHeld core).powerOff core
  let epoch := (s2.coreRec core).epoch + 1#32
  let s3 := (s2.commitOrder core).foldl (fun s i => s.commitImage epoch i) s2
  s3.onCore core fun k => { k with epoch := epoch, opened := false, commitAt := s.dev.time, lapsed := true, counts := s3.counters core }

/-- The hold-up store is charged: 2 ms have passed since the last resume (R412). -/
def State.charged (s : State) (core : Nat) : Bool :=
  match (s.coreRec core).resumedAt with
  | none => true
  | some t => decide (t.toNat + 2000000 ≤ s.dev.time.toNat)

/-- ANNOUNCED_LAPSE (R412): firmware gates a tile once its groups have drained and the commit has closed. -/
def execAnnouncedLapse (core : Nat) (s : State) : Result :=
  occur s fun s =>
    if core < 256 ∧ !s.lapsed core ∧ !s.fw.halted ∧ s.charged core ∧ s.lapseReady core then s.lapseCommit core else s

/-- A commit that ends before all its images are sealed (R414): `n` are, the next one is unsealed. -/
def State.tornImages (s : State) (core n : Nat) (epoch : W32) : State :=
  let order := s.commitOrder core
  let s1 := (order.take n).foldl (fun s i => s.commitImage epoch i) s
  match order[n]? with
  | some i => s1.onImage i.owner i.team Image.tear
  | none => s1

/-- A torn commit (R412): the record stays open, the images written are as a free value says; each unit of the column buffer, oldest first, has drained or is lost
as `kept` says. -/
def State.tornLapse (s : State) (core : Nat) (kept : W64) : State :=
  let mine := s.onchip.colbuf.filter fun u => decide (u.core = core)
  let drain := fun (o : OnChip) (p : ColUnit × Nat) =>
    if kept.getLsbD p.2 then { o with column := Store.replace o.column (columnKey core (16 * p.1.unit)) 16 p.1.data } else o
  let o := (mine.zip (List.range mine.length)).foldl drain s.onchip
  let s1 : State := { s with onchip := { o with colbuf := o.colbuf.filter fun u => decide (u.core ≠ core) } }
  let s2 := (s1.haltMoves core).powerOff core
  (s2.tornImages core (Config.choose s.fresh 412 % (1 + (s2.commitOrder core).length)) ((s2.coreRec core).epoch + 1#32)).onCore core fun k =>
    { k with epoch := k.epoch + 1#32, opened := true, commitAt := s.dev.time, lapsed := true }

/-- UNANNOUNCED_LAPSE (R412): the tile loses its supply. The commit is torn where the hold-up store is not charged or fails its self-check;
else it runs as an announced one. -/
def execUnannouncedLapse (core : Nat) (selfCheck : Bool) (kept : BitVec 64) (s : State) : Result :=
  occur s fun s =>
    if 256 ≤ core ∨ s.lapsed core then s
    else if !selfCheck ∨ !s.charged core then s.tornLapse core kept
    else if s.lapseReady core then s.lapseCommit core
    else s

/-! ## Resume (R413, R415) -/

/-- An exact resume: the groups go on at their next instructions, and pending lanes are issued again (R413); a restored image has every
frame dirty (R410), and the core's counters are those of the commit (R447). -/
def State.resumeExact (s : State) (core : Nat) : State :=
  let mine := fun (g : Group) => decide (g.place = .lapsed) && decide (g.core = core)
  let run := (s.groups.filter mine).map (·.gid)
  let fresh := fun (i : Image) => if i.core = core then { i with clean := [] } else i
  let s0 : State := { s with ck := { s.ck with images := s.ck.images.map fresh },
                             dev := { s.dev with evcnt := Store.replace s.dev.evcnt (8 * core) 8 (s.coreRec core).counts } }
  let s1 := s0.mapGroups mine fun g => { g with place := .resident }
  run.foldl (fun s gid => s.inGroup gid State.reissue) s1

/-- The contexts that hold an image on a core. -/
def State.imageCtxs (s : State) (core : Nat) : List (BitVec 12) :=
  (s.ck.images.filter fun i => decide (i.core = core)).filterMap fun i =>
    if i.team then (s.team i.owner).map (·.ctx) else (s.find i.owner).map (·.ctx)

/-- TORN_FALLBACK (R415, R447): every context with an image on the core rolls back; the directory is cleared, the core's counters restart. -/
def State.fallBack (s : State) (core : Nat) : State :=
  let s1 := (s.imageCtxs core).foldl State.startRollback s
  { s1 with ck := { s1.ck with images := s1.ck.images.filter fun i => decide (i.core ≠ core) },
            dev := { s1.dev with evcnt := Store.clear s1.dev.evcnt (8 * core) 8 } }

/-- TILE_RESUME (R413): the power returns, and the management core resumes the core. -/
def execTileResume (core : Nat) (s : State) : Result :=
  occur s fun s =>
    let k := s.coreRec core
    if !k.lapsed ∨ s.fw.halted ∨ (s.quarters.any fun q => q.gated.any fun x => decide (x = core)) then s
    else
      let s1 := s.onCore core fun r => { r with lapsed := false, resumedAt := some s.dev.time }
      if k.opened then s1.fallBack core else s1.resumeExact core

end Sys2Proof.Machine
end

