-- ==== Sys2Proof/Machine/Device.lean ====
section
/-!
DEFINITION. Sys2Proof/Machine/Device.lean: what arrives from outside the compute dies: fabric deliveries and CXL.io writes (R395), completion timeouts
(R364), firmware's forecast (R438), power and junction trips (R15, R440), module reset and recovery (R442), attestation (R444).
-/

namespace Sys2Proof.Machine

open Sys2Proof

/-! ## Deliveries from the fabric (R395) -/

/-- Data from an address on, cut at the words of memory: the offset of each piece and its bytes. -/
def wordPieces : Nat → Nat → Nat → List Byte → List (Nat × List Byte)
  | 0, _, _, _ => []
  | fuel + 1, a, off, bs =>
    if bs.isEmpty then []
    else
      let n := 4 - (a + off) % 4
      (off, bs.take n) :: wordPieces fuel a (off + n) (bs.drop n)

/-- A piece of a delivery with its place: its address, its physical address, whether its page is memory-side, its bytes. -/
abbrev Placed := W64 × Nat × Bool × List Byte

/-- Who asks for a delivery: no core (DESIGN CHOICE, log 36: what lies outside the cores has a TLB of its own). -/
def Delivery.asker (d : Delivery) : Asker := { core := 1025, who := d.who, ctx := d.ctx, inc := d.inc, app := decide (d.ctx ≠ 0#12) }

/-- The pieces of a delivery with their places; else whether it must wait, for a leaf's home, for a compressed page or for the rollback of its context (R330, R339,
R433), or faults (log 50). -/
def State.deliverTo (s : State) (d : Delivery) : List (Nat × List Byte) → State × (List Placed ⊕ Bool)
  | [] => (s, .inl [])
  | (off, bs) :: t =>
    match s.xlate d.asker .write (d.va + BitVec.ofNat 64 off) with
    | (s1, .ok pa p) =>
      if p.getLsbD 56 then (s1, .inr true)
      else
        match State.deliverTo s1 d t with
        | (s2, .inl ps) => (s2, .inl ((d.va + BitVec.ofNat 64 off, pa, pteMs p, bs) :: ps))
        | r => r
    | (s1, .wait) => (s1, .inr true)
    | (s1, .over) => (s1, .inr true)
    | (s1, .fault ..) => (s1, .inr false)

/-- A piece of a delivery as a write on its way to its home: strong, at system scope, of no group; the pieces are parts of one access. -/
def outsideReq (s : State) (c : BitVec 12) (j : BitVec 8) (k : Nat) (p : Placed) : Req :=
  { rid := s.seq + 1 + k, gid := 0, log := s.seq + 1, lane := 0, half := 0, kind := .store, space := .vm, key := p.2.1, va := p.1,
    size := p.2.2.2.length, val := BitVec.ofNat 64 (leOf (fun i => p.2.2.2.getD i 0#8) 0 p.2.2.2.length), cmp := 0, op := 0, elt := 0,
    strength := .strong, scope := 8, ostamp := 0, core := 0, slot := 0, ctx := c, inc := j, lanes := BitVec.allOnes 32, readCount := 0,
    issued := s.dev.time, ls := 256, hit := none, waited := false, shared := false, arrived := 0, ms := p.2.2.1, accepted := false, performed := false }

/-- Data from outside is taken: stale data is dropped and counted, other data is on its way to its homes, or waits. -/
def State.takeDelivery (s : State) (d : Delivery) : State :=
  let gone := s.forgetName d.who
  if !s.liveTag d.ctx d.inc then { gone with dev := { s.dev with dropc := s.dev.dropc + 1 } }
  else
    match s.deliverTo d (wordPieces d.data.length d.va.toNat 0 d.data) with
    | (s0, .inl ps) =>
      let s1 := s0.forgetName d.who
      let rs := (ps.zip (List.range ps.length)).map fun p => outsideReq s1 d.ctx d.inc p.2 p.1
      { s1 with m := { s1.m with reqs := s1.m.reqs ++ rs }, seq := s1.seq + rs.length }
    | (s1, .inr true) => { s1 with fab := { s1.fab with deliveries := s1.fab.deliveries ++ [d] } }
    | (s1, .inr false) => s1.forgetName d.who

/-- What waits is tried again, in order of arrival. -/
def State.retryDeliveries (s : State) : State :=
  if s.fab.deliveries.isEmpty then s
  else s.fab.deliveries.foldl State.takeDelivery { s with fab := { s.fab with deliveries := [] } }

/-- Data from outside arrives with the tag of its binding. -/
def State.outsideWrite (s : State) (bound : Option (Nat × BitVec 12 × BitVec 8)) (va : W64) (data : List Byte) : State :=
  match bound with
  | none => s
  | some (_, c, j) =>
    let s1 := s.retryDeliveries
    ({ s1 with seq := s1.seq + 1 } : State).takeDelivery { who := s1.seq + 1, ctx := c, inc := j, va := va, data := data }

/-- UE_DELIVERY (R395): an Ultra Ethernet endpoint delivers data into device memory. -/
def execUeDelivery (ep : Nat) (va : BitVec 64) (data : List (BitVec 8)) (s : State) : Result :=
  occur s fun s => s.outsideWrite (s.fab.endpoints.find? fun e => decide (e.1 = ep)) va data

/-- CXL_IO_WRITE (R395): a CXL.io requester writes device memory. -/
def execCxlIoWrite (rq : Nat) (va : BitVec 64) (data : List (BitVec 8)) (s : State) : Result :=
  occur s fun s => s.outsideWrite (s.fab.requesters.find? fun e => decide (e.1 = rq)) va data

/-- ENDPOINT_BINDING (R395): an endpoint, or a requester (`io`), is bound to a context and takes its current incarnation. -/
def execEndpointBinding (io : Bool) (ep : Nat) (c : BitVec 12) (s : State) : Result :=
  occur s fun s =>
    match s.ctx c with
    | none => s
    | some x =>
      let put := fun (l : List (Nat × BitVec 12 × BitVec 8)) => (l.filter fun e => decide (e.1 ≠ ep)) ++ [(ep, c, x.cur)]
      { s with fab := if io then { s.fab with requesters := put s.fab.requesters } else { s.fab with endpoints := put s.fab.endpoints } }

/-- FABRIC_COMPLETION_TIMEOUT (R364): a request of a killed pair to the pool no longer waits for its response once 50 ms have passed. -/
def execFabricCompletionTimeout (rid : Nat) (s : State) : Result :=
  occur s fun s =>
    let old := fun (t : W64) => decide (t.toNat + 50000000 ≤ s.dev.time.toNat)
    let late := fun (r : Req) => decide (r.rid = rid) && decide (r.space = .vm) && decide (tierOf r.key = some .pool) && !s.liveTag r.ctx r.inc &&
      (decide (r.kind ≠ .store) || !r.accepted) && old r.issued
    { s with
      m := { s.m with reqs := s.m.reqs.filter fun r => !late r },
      fab := { s.fab with poolWrites := s.fab.poolWrites.filter fun p => !(decide (p.rid = rid) && !s.liveTag p.ctx p.inc && old p.since) } }

/-! ## Firmware's forecast, power and temperature (R15, R438, R440) -/

/-- The management core runs its firmware. -/
def Firmware.runs (f : Firmware) : Bool := !f.stopped && !f.halted && !f.recovery

/-- THFC and THLIM take new values; what they held before the updates of this tick is kept (R439). -/
def State.setThermal (s : State) (thfc : W64) (thlim : W32) : State :=
  let was := match s.dev.thWas with
    | some (t, f, l) => if t = s.dev.time then (t, f, l) else (s.dev.time, s.dev.thfc, s.dev.thlim)
    | none => (s.dev.time, s.dev.thfc, s.dev.thlim)
  { s with dev := { s.dev with thfc := thfc, thlim := thlim, thWas := some was } }

/-- THERMAL_FORECAST_UPDATE (R438): THFC takes the forecast of the four quarters, with the TIME of the update. -/
def execThermalForecastUpdate (temps : BitVec 32) (s : State) : Result :=
  occur s fun s => if s.fw.runs then s.setThermal (s.dev.time.setWidth 32 ++ temps : BitVec 64) s.dev.thlim else s

/-- Changes a quarter. -/
def State.onQuarter (s : State) (q : Nat) (f : Quarter → Quarter) : State :=
  match s.quarters[q]? with
  | some x => { s with quarters := s.quarters.set q (f x) }
  | none => s

/-- A core of a quarter is gated with an announced lapse (R412), if it can be. -/
def State.gateTile (s : State) (q core : Nat) : State :=
  if core < 256 ∧ quarterOf core = q ∧ !s.lapsed core ∧ s.charged core ∧ s.lapseReady core then s.lapseCommit core else s

/-- JUNCTION_TRIP (R440): the comparator of a quarter sees a junction temperature. At its lower trip point the arithmetic clock is lowered; at the
higher one the tile `core` is gated, until the junction has fallen to 100 °C. -/
def execJunctionTrip (q : BitVec 2) (temp core : Nat) (s : State) : Result :=
  occur s fun s =>
    match s.quarters[q.toNat]? with
    | none => s
    | some x =>
      if temp ≤ 100 ∧ temp < x.trip then s.onQuarter q.toNat fun y => { y with lowered := false, gated := [] }
      else
        let s1 := if x.trip ≤ temp then s.onQuarter q.toNat fun y => { y with lowered := true } else s
        if temp < x.gate then s1
        else
          let s2 := s1.gateTile q.toNat core
          if s2.lapsed core && !s1.lapsed core then s2.onQuarter q.toNat fun y => { y with gated := y.gated ++ [core] } else s2

/-- QUARTER_POWER_LIMIT (R15): a quarter at its budget has its arithmetic clock lowered first; then the tile `core` is gated. -/
def execQuarterPowerLimit (q : BitVec 2) (core : Nat) (s : State) : Result :=
  occur s fun s =>
    match s.quarters[q.toNat]? with
    | none => s
    | some x => if x.lowered then s.gateTile q.toNat core else s.onQuarter q.toNat fun y => { y with lowered := true }

/-! ## What firmware sets (R422, R434, R438, R440, R441) -/

/-- A setting of firmware within its bounds; one that it may not make changes nothing: it lowers trip points and budgets, advances the fuse, and keeps the limit
from 60 to 105 and the interval of the recalibrations from 1 ms to 1 s. -/
def State.firmwareSets (s : State) : Setting → State
  | .limit t => if 60 ≤ t ∧ t ≤ 105 then s.setThermal s.dev.thfc (BitVec.ofNat 32 t) else s
  | .trip q t => s.onQuarter q fun y => { y with trip := min y.trip t }
  | .gate q t => s.onQuarter q fun y => { y with gate := min y.gate t }
  | .budget row w => { s with fw := { s.fw with budgets := s.fw.budgets.set row (min (s.fw.budgets.getD row 0) w) } }
  | .fuse v => if s.fw.fused ≤ v then { s with fw := { s.fw with fused := v } } else s
  | .calEvery t => if 1000000#64 ≤ t ∧ t ≤ 1000000000#64 then { s with fab := { s.fab with calEvery := t } } else s
  | .share c n => { s with ck := { s.ck with shares := Store.put s.ck.shares c.toNat n } }
  | .spareScan q =>
    if q < 4 ∧ Store.get s.ck.passed q < Store.get s.ck.spares q then { s with ck := { s.ck with passed := Store.put s.ck.passed q (Store.get s.ck.passed q + 1) } } else s
  | .unsupported => { s with fw := { s.fw with spdm := { s.fw.spdm with refused := true } } }

/-- What firmware does beside its instructions, while it runs; a spare's scan needs no firmware, nor does the SPDM responder's refusal. -/
def State.setting (s : State) (x : Setting) : Result :=
  occur s fun s =>
    match x with
    | .spareScan _ | .unsupported => s.firmwareSets x
    | _ => if s.fw.runs then s.firmwareSets x else s

/-! ## Reset and recovery (R442) -/

/-- An image passes the check of the boot ROM: its signature verifies and its version is at least the fused one. -/
def Firmware.accepts (f : Firmware) (sigOk : Bool) (ver : W32) : Bool := sigOk && decide (f.fused ≤ ver)

/-- What lies in flash and in the pool's own memory stays over a reset (log 33). -/
def staysOver (pa : Nat) : Bool := match tierOf pa with | some .flash => true | some .pool => true | _ => false

/-- A stream over a reset: what had not become durable is gone. -/
def Stream.afterReset (x : Stream) : Stream :=
  if x.st = .sealed then x else { x with st := .opened, accepted := x.durable, sealv := 0, leaves := [], closes := [] }

/-- The module after a reset, before an image is accepted: State.reset but for what is not volatile (log 33). -/
def State.restart (s : State) : State :=
  let r := State.reset
  let unpin := fun (g : GenRec) => { g with gpins := 0, lpins := 0, released := [] }
  { r with
    onchip := { r.onchip with column := s.onchip.column },
    m := { r.m with mem := s.m.mem.filter fun p => staysOver p.1, poison := s.m.poison.filter fun k => staysOver (32 * k) },
    fl := { r.fl with streams := s.fl.streams.map Stream.afterReset, moved := s.fl.moved,
                      sets := s.fl.sets.map fun w => { w with recs := w.recs.map unpin } },
    ck := { r.ck with spares := s.ck.spares,
                      cores := (s.ck.cores.filter (·.failed)).map fun k => { r.coreRec k.core with failed := true } },
    fw := { r.fw with fused := s.fw.fused }, inputs := s.inputs, fresh := s.fresh, seq := s.seq }

/-- The image that the boot ROM has checked runs and starts context 0, with the identity key pair of its version (R443), or the module stays in recovery with no context. -/
def State.boot (s : State) (ok : Bool) (ver : W32) : State :=
  { s with fw := { s.fw with recovery := !ok, version := if ok then ver else 0#32, identity := if ok then some ver else none },
           ctxs := if ok then [Ctx.zero] else [{ Ctx.zero with live := false }] }

/-- MODULE_RESET (R442). -/
def execModuleReset (sigOk : Bool) (ver : BitVec 32) (s : State) : Result :=
  occur s fun s => s.restart.boot (s.fw.accepts sigOk ver) ver

/-- RECOVERY_IMAGE (R442): a module in recovery takes an image that passes the check. -/
def execRecoveryImage (sigOk : Bool) (ver : BitVec 32) (s : State) : Result :=
  occur s fun s => if s.fw.recovery && s.fw.accepts sigOk ver then s.boot true ver else s

/-! ## Attestation (R444) -/

/-- A request to the SPDM responder: one that it does not support, or that comes out of order, is refused (log 34). -/
def State.spdm (s : State) (ok : Spdm → Bool) (f : Spdm → Spdm) : Result :=
  occur s fun s =>
    let x := s.fw.spdm
    { s with fw := { s.fw with spdm := if ok x then { f x with refused := false } else { x with refused := true } } }

/-- GET_VERSION: negotiation starts afresh. -/
def execGetVersion (s : State) : Result :=
  s.spdm (fun _ => true) fun _ =>
    { version := true, caps := false, algs := false, digests := false, cert := false, challenged := none, measured := [], keyed := false,
      session := false, refused := false, asked := false }

/-- GET_CAPABILITIES. -/
def execGetCapabilities (s : State) : Result := s.spdm (fun x => x.version) fun x => { x with caps := true }

/-- NEGOTIATE_ALGORITHMS: the offer must hold ECDSA P-384, SHA-384, secp384r1 and AES-256-GCM (R444), each at its SPDM 1.3 bit (log 34). -/
def execNegotiateAlgorithms (sign hash dhe aead : BitVec 8) (s : State) : Result :=
  s.spdm (fun x => x.caps && sign.getLsbD 7 && hash.getLsbD 1 && dhe.getLsbD 4 && aead.getLsbD 1) fun x => { x with algs := true }

/-- GET_DIGESTS. -/
def execGetDigests (s : State) : Result := s.spdm (fun x => x.algs) fun x => { x with digests := true }

/-- GET_CERTIFICATE: only slot 0 holds a chain (R443, R444). -/
def execGetCertificate (slot : BitVec 8) (s : State) : Result := s.spdm (fun x => x.algs && decide (slot = 0#8)) fun x => { x with cert := true }

/-- CHALLENGE. -/
def execChallenge (slot : BitVec 8) (nonce : BitVec 64) (s : State) : Result :=
  s.spdm (fun x => x.algs && decide (slot = 0#8)) fun x => { x with challenged := some nonce }

/-- The measurement blocks that an index of GET_MEASUREMENTS asks for: one of the five, all of them (0xFF), or none but their number (0x00) (R444, SPDM 1.3; log 34). -/
def measuredBy (index : BitVec 8) : Option (List Nat) :=
  if index = 0x00#8 then some [] else if index = 0xFF#8 then some [1, 2, 3, 4, 5] else if index.toNat ≤ 5 then some [index.toNat] else none

/-- GET_MEASUREMENTS (R444). -/
def execGetMeasurements (index : BitVec 8) (s : State) : Result :=
  s.spdm (fun x => x.algs && (measuredBy index).isSome) fun x =>
    { x with asked := x.asked || decide (index = 0#8), measured := x.measured ++ (measuredBy index).getD [] }

/-- KEY_EXCHANGE. -/
def execKeyExchange (slot : BitVec 8) (s : State) : Result := s.spdm (fun x => x.algs && decide (slot = 0#8)) fun x => { x with keyed := true }

/-- FINISH: the session is up, and programs the CXL IDE keys of the ports (R390, R444): they are those of this session, by its number (log 34). -/
def execFinish (s : State) : Result :=
  occur s fun s =>
    if s.fw.spdm.keyed then
      { s with fw := { s.fw with spdm := { s.fw.spdm with keyed := false, session := true, refused := false } },
               fab := { s.fab with ide := some (s.fab.ide.getD 0 + 1) } }
    else { s with fw := { s.fw with spdm := { s.fw.spdm with refused := true } } }

/-- END_SESSION. -/
def execEndSession (s : State) : Result := s.spdm (fun x => x.session) fun x => { x with session := false }

end Sys2Proof.Machine
end

