-- ==== Sys2Proof/Machine/System.lean ====
section
/-!
DEFINITION. Sys2Proof/Machine/System.lean: the special registers (R344, R345, R436, R438, R445), TRAP and TRET (R354, R355), contexts and
incarnations (R361–R364), TLBINV, ERES and HALT (R358, R365, R367), majors 0x78 and 0x79; and the events of traps, time and reports.
-/

namespace Sys2Proof.Machine

open Sys2Proof

/-! ## Special registers -/

/-- GIDR (R127). -/
def Group.gidr (g : Group) : W64 :=
  BitVec.ofNat 64 (g.ctx.toNat * 2 ^ 52 + g.inc.toNat * 2 ^ 44 + g.lslot.toNat * 2 ^ 36 + g.core % 1024 * 2 ^ 26 + g.slot % 64 * 2 ^ 20 +
    g.gidx.toNat * 2 ^ 15 + g.gang.toNat * 2 ^ 13)

/-- The number of the TSPL word that TPC names the PC of (R345). -/
def tpcCell (cells : Store 64) : Nat := 0x10 + 8 * bits (Store.get cells 0x03).toNat 20 19

/-- A register of a trap bank (R345): TPC is the PC of the faulting split's entry; the reserved field of TSTAT, which TRET checks, reads zero (R5, R347). -/
def Bank.read (k : Bank) (o : Nat) : W64 :=
  if o = 0x02 then ((Store.get k.cells (tpcCell k.cells)).setWidth 57).setWidth 64
  else if o = 0x03 then ((Store.get k.cells o).setWidth 26).setWidth 64
  else Store.get k.cells o

/-- What CSRR of a register gives in a lane (R344, R345, R436, R438, R445). -/
def State.csrGet (s : State) (c l : Nat) : W64 :=
  let d := s.dev
  let m := bits d.mcsel.toNat 7 0
  if 0x100 ≤ c ∧ c < 0x400 then (s.g.bankOf (c / 0x100)).read (c % 0x100)
  else if 0x408 ≤ c ∧ c ≤ 0x40B then (Store.get d.lease (c - 0x408)).setWidth 64
  else if 0x420 ≤ c ∧ c ≤ 0x429 then Store.get d.errs c
  else if 0x440 ≤ c ∧ c ≤ 0x447 then (Store.get d.evsel (8 * s.g.core + (c - 0x440))).setWidth 64
  else if 0x448 ≤ c ∧ c ≤ 0x44F then Store.get d.evcnt (8 * s.g.core + (c - 0x448))
  else if 0x451 ≤ c ∧ c ≤ 0x454 then (Store.get d.mevsel (4 * m + (c - 0x451))).setWidth 64
  else if 0x455 ≤ c ∧ c ≤ 0x458 then Store.get d.mevcnt (4 * m + (c - 0x455))
  else
    match c with
    | 0x000 => s.g.gidr
    | 0x001 => s.g.tidx.setWidth 64
    | 0x002 => BitVec.ofNat 64 l
    | 0x003 => s.g.helper.setWidth 64
    | 0x004 => s.g.yreq
    | 0x005 => s.g.parkc
    | 0x006 => s.g.win.wsp.setWidth 64
    | 0x007 => s.g.win.wsl.setWidth 64
    | 0x008 => d.time
    | 0x009 => s.g.stat.setWidth 64
    | 0x400 => d.tdlg.setWidth 64
    | 0x401 => d.ygrace.setWidth 64
    | 0x402 => d.ctxb
    | 0x403 => d.orph
    | 0x404 => d.dropc
    | 0x430 => d.thfc
    | 0x431 => d.thlim.setWidth 64
    | 0x450 => d.mcsel.setWidth 64
    | _ => 0#64

/-- A register of the map has 64 bits (R345). -/
def csrWide (c : BitVec 12) : Bool := match csrKind c with | some .ro64 => true | some .rw64 => true | _ => false

/-- CSRR (R344). -/
def execCsrr (d : Reg) (c : BitVec 12) (s : State) : Result :=
  issue (.csrr d c) s fun s =>
    (if csrWide c then s.wr64 d fun l => s.csrGet c.toNat l else s.wr d fun l => (s.csrGet c.toNat l).setWidth 32).done

/-- The value sets a reserved bit of the register, or is one that it does not take (R344, R345, R348, R349, R445, R446). TSTAT is checked at
TRET. -/
def State.csrBad (s : State) (c : Nat) (v : W64) : Bool :=
  let n := v.toNat
  let high := decide (bits n 63 57 ≠ 0)
  if 0x100 ≤ c ∧ c < 0x400 then
    let o := c % 0x100
    if o = 0x02 then high
    else if o = 0x30 then high || decide (bits n 1 0 ≠ 0)
    else if 0x10 ≤ o ∧ o ≤ 0x2F then
      match o % 8 with
      | 0 | 1 => decide (bits n 62 57 ≠ 0)
      | 2 => decide (bits n 5 3 ≠ 0)
      | 3 => decide (bits n 63 56 ≠ 0)
      | _ => decide (bits n 63 14 ≠ 0)
    else false
  else if 0x408 ≤ c ∧ c ≤ 0x40B then decide (bits n 31 16 ≠ 0)
  else if 0x440 ≤ c ∧ c ≤ 0x447 then v.getLsbD 28 || decide (bits n 15 8 ≠ 0) || decide (8 < bits n 7 0)
  else if 0x451 ≤ c ∧ c ≤ 0x454 then v.getLsbD 28 || v.getLsbD 30 || decide (bits n 15 8 ≠ 0) || decide (8 < bits n 7 0)
  else
    match c with
    | 0x007 => decide (n % 4 ≠ 0) || decide (pktSlice (s.packetOf s.g) < n)
    | 0x400 => decide (v &&& ~~~0x02260026#64 ≠ 0#64)
    | 0x402 => decide (n % 0x40000 ≠ 0)
    | 0x450 => decide (143 < n)
    | _ => false

/-- Writes a bank register (R345, R347): TPC writes the PC it names; [24:19] of TSTAT do not change. -/
def Bank.write (k : Bank) (o : Nat) (v : W64) : Bank :=
  if o = 0x02 then
    let n := tpcCell k.cells
    k.put n ((Store.get k.cells n &&& 0xFE00000000000000#64) ||| v)
  else if o = 0x03 then k.put 0x03 ((v &&& ~~~0x01F80000#64) ||| (Store.get k.cells 0x03 &&& 0x01F80000#64))
  else k.put o v

/-- L2LEASEq takes a value (R163). -/
def State.putLease (s : State) (q : Nat) (v : W32) : State := { s with dev := { s.dev with lease := Store.put s.dev.lease q v } }

/-- MCSEL takes a value (R445). -/
def State.putMcsel (s : State) (v : W32) : State := { s with dev := { s.dev with mcsel := v } }

/-- EVCNTk of a core takes a value (R445, R447). -/
def State.putEvcnt (s : State) (core k : Nat) (v : W64) : State := { s with dev := { s.dev with evcnt := Store.put s.dev.evcnt (8 * core + k) v } }

/-- CSRW of a register with a value that it takes (R344). -/
def State.csrPut (s : State) (c : Nat) (v : W64) : State :=
  let m := bits s.dev.mcsel.toNat 7 0
  if 0x100 ≤ c ∧ c < 0x400 then s.onG fun g => g.setBank (c / 0x100) ((g.bankOf (c / 0x100)).write (c % 0x100) v)
  else if 0x408 ≤ c ∧ c ≤ 0x40B then s.putLease (c - 0x408) (v.setWidth 32)
  else if 0x440 ≤ c ∧ c ≤ 0x447 then { s with dev := { s.dev with evsel := Store.put s.dev.evsel (8 * s.g.core + (c - 0x440)) (v.setWidth 32) } }
  else if 0x448 ≤ c ∧ c ≤ 0x44F then s.putEvcnt s.g.core (c - 0x448) v
  else if 0x451 ≤ c ∧ c ≤ 0x454 then { s with dev := { s.dev with mevsel := Store.put s.dev.mevsel (4 * m + (c - 0x451)) (v.setWidth 32) } }
  else if 0x455 ≤ c ∧ c ≤ 0x458 then { s with dev := { s.dev with mevcnt := Store.put s.dev.mevcnt (4 * m + (c - 0x455)) v } }
  else
    match c with
    | 0x007 => s.onG fun g => { g with win := { g.win with wsl := v.setWidth 32 } }
    | 0x400 => { s with dev := { s.dev with tdlg := v.setWidth 32 } }
    | 0x401 => { s with dev := { s.dev with ygrace := v.setWidth 32 } }
    | 0x402 => { s with dev := { s.dev with ctxb := v } }
    | 0x450 => s.putMcsel (v.setWidth 32)
    | _ => s

/-- Every earlier group-path access of the split is complete (R206, R344). -/
def State.accessesDone (s : State) : Bool :=
  s.g.log.all fun x => decide (x.lanes &&& s.act = 0#32) || !(readsMem x.i || writesMem x.i)

/-- The value of CSRW in its lane. -/
def State.csrValue (s : State) (d : Reg) (c : BitVec 12) (l : Nat) : W64 := if csrWide c then s.rd64 d l else (s.rd d l).setWidth 64

/-- CSRW (R344): a write of a device register waits for the earlier accesses of its split; its own issue is not counted in a counter that it writes (R447). -/
def execCsrw (d : Reg) (c : BitVec 12) (s : State) : Result :=
  issueWhen (.csrw d c) s
    (fun s => match s.issuer with
      | none => true
      | some l => s.csrBad c.toNat (s.csrValue d c l) || decide (c.toNat < 0x400) || s.accessesDone)
    fun s =>
      match s.issuer with
      | none => s.done
      | some l =>
        let v := s.csrValue d c l
        if s.csrBad c.toNat v then s.raise (.csrw d c) 0x02 v else s.done.csrPut c.toNat v

/-- L2LEASE_WRITE (R163): system software on another core writes a quarter's lease length. -/
def execL2leaseWrite (q : BitVec 2) (v : BitVec 32) (s : State) : Result :=
  occur s fun s => if bits v.toNat 31 16 = 0 then s.putLease q.toNat v else s

/-- MCSEL_WRITE (R445): system software on another core selects a controller; a value above 143 traps there, and writes nothing. -/
def execMcselWrite (v : BitVec 32) (s : State) : Result := occur s fun s => if v.toNat ≤ 143 then s.putMcsel v else s

/-- EVCNT_WRITE (R447): system software on a core writes a counter of it; an event of the same cycle is not counted. -/
def execEvcntWrite (core : Nat) (k : BitVec 3) (v : BitVec 64) (s : State) : Result := occur s fun s => s.putEvcnt core k.toNat v

/-! ## TRAP and TRET (R354, R355) -/

/-- TRAP (R354): a service request; TPC is the address after it. -/
def execTrap (n : BitVec 12) (s : State) : Result :=
  issue (.trap n) s fun s =>
    s.done.report { cause := 0x19, async := false, val := n.setWidth 64, ins := encode (.trap n), fmask := s.act, wdet := 0, logged := none, entry := s.entry }

/-- A MODE field holds an element type above 11 or a rounding above 4. -/
def modeIllegal (m : Nat) : Bool := decide (11 < bits m 8 4) || decide (4 < bits m 11 9)

/-- TSTAT breaks order 3 of R355, for bank `b`. -/
def tstatBad (b : Nat) (st : Nat) : Bool :=
  decide (bits st 31 26 ≠ 0) || modeIllegal st || decide (bits st 16 15 = 3) || decide (bankLevel b < bits st 16 15) || decide (b ≤ bits st 18 17) ||
    (decide (bits st 25 25 = 1) && decide (bits st 24 24 = 0))

/-- A saved split entry breaks order 4 of R355 by itself. -/
def splBad (w : Nat → Nat) : Bool :=
  decide (bits (w 2) 63 32 = 0) || decide (bits (w 0) 1 0 ≠ 0) || (decide (bits (w 1) 63 63 = 0) && decide (bits (w 1) 1 0 ≠ 0)) ||
    decide (4 < bits (w 2) 2 0) || decide (bits (w 0) 62 57 ≠ 0) || decide (bits (w 1) 62 57 ≠ 0) || decide (bits (w 2) 5 3 ≠ 0) ||
    decide (bits (w 3) 63 56 ≠ 0) || decide (bits (w 4) 63 14 ≠ 0) || modeIllegal (bits (w 4) 13 0) ||
    (List.range 4).any fun j => modeIllegal (bits (w 3) (14 * j + 13) (14 * j))

/-- TSPL0–3 break order 4 of R355. -/
def tsplBad (cells : Store 64) : Bool :=
  let word := fun (n k : Nat) => (Store.get cells (0x10 + 8 * n + k)).toNat
  let valid := (List.range 4).filter fun n => decide (bits (word n 0) 63 63 = 1)
  let ovf := (Store.get cells 0x06).setWidth 32
  let join := valid.foldl (fun (r : W32 × Bool) n =>
    let m := BitVec.ofNat 32 (bits (word n 2) 63 32)
    (r.1 ||| m, r.2 || decide (r.1 &&& m ≠ 0#32))) (ovf, false)
  (valid.any fun n => splBad (word n)) || join.2 || decide (join.1 ≠ (Store.get cells 0x04).setWidth 32)

/-- The trap that TRET meets before it acts (R355). -/
def State.tretTrap (s : State) : Option (Nat × W64) :=
  let cells := (s.g.bankOf s.g.bank).cells
  let st := Store.get cells 0x03
  if s.g.bank = 0 ∨ !s.g.converged then some (0x01, wordVal .tret)
  else if tstatBad s.g.bank st.toNat ∨ tsplBad cells then some (0x04, st)
  else none

/-- The frames spilled since entry return to the ring (R355); a fault leaves those that have returned. -/
def State.refillTo (w : W32) : Nat → State → State × Xfer
  | 0, s => (s, .ok)
  | n + 1, s =>
    if w ≤ s.g.win.wsp then (s, .ok)
    else
      match s.refill s.g.win.rb with
      | (s1, .ok, f) => State.refillTo w n (s1.onG fun g => { g with win := { g.win with rb := (g.win.rb + g.nregs - f % g.nregs) % g.nregs } })
      | (s1, x, _) => (s1, x)

/-- The refill of TRET; a slice holds at most 510 frames. -/
def State.tretRefill (s : State) : State × Xfer := State.refillTo (s.g.bankOf s.g.bank).win.wsp 512 s

/-- TRET need not wait: it traps, or no access of the handler holds the number of a log entry that moves back, and its frames can be refilled
or fault. It orders no access (R355). -/
def State.tretGo (s : State) : Bool :=
  s.tretTrap.isSome || ((s.g.bankOf s.g.bank).log.all (fun x => s.g.log.all fun y => decide (x.id ≠ y.id)) && decide (s.tretRefill.2 ≠ .hold))

/-- TRET's effect (R355). -/
def State.tretRun (s : State) : State :=
  match s.tretTrap with
  | some (c, v) => s.raise .tret c v
  | none =>
    match s.tretRefill with
    | (s1, .ok) => (s1.counted.onG fun g => g.leave g.bank).reissueAll ((s1.g.bankOf s1.g.bank).log.map (·.seq))
    | (s1, x) => s1.stopped .tret x

/-- TRET (R355): the return from an exception. -/
def execTret (s : State) : Result := issueOr .tret s State.tretGo (fun s => s.holdMarked s.tretRefill.1) State.tretRun

/-! ## Contexts and incarnations (R359–R364) -/

/-- The context word W of a lane: reserved bits, context, incarnation (R361). -/
def wordCtx (w : W32) : BitVec 12 := w.setWidth 12
def wordInc (w : W32) : BitVec 8 := BitVec.ofNat 8 (bits w.toNat 19 12)

/-- A pair drains (R361). -/
def State.drains (s : State) (c : BitVec 12) (j : BitVec 8) : Bool :=
  match s.ctx c with | some x => x.draining.any fun k => decide (k = j) | none => false

/-- A chip-scratchpad window word is legal (R359). -/
def chipWinOk (w : Nat) : Bool := decide (bits w 31 26 = 0) && decide (bits w 15 9 = 0) && decide (bits w 8 0 + bits w 25 16 ≤ 512)

/-- A column window word is legal (R359). -/
def columnWinOk (w : Nat) : Bool := decide (bits w 31 24 = 0) && decide (bits w 15 7 = 0) && decide (bits w 6 0 + bits w 23 16 ≤ 128)

/-- The words of a column table that are not zero, by core. -/
def MemSys.columnTable (m : MemSys) (pa : Nat) : Store 32 :=
  if pa = 0 then [] else (List.range 256).foldl (fun t k => Store.put t k (BitVec.ofNat 32 (m.homeRead (pa + 4 * k) 4))) []

/-- The entry of a context that CTXSTART reads at its home; none where it breaks R359. -/
def State.readEntry (s : State) (c : BitVec 12) (j : BitVec 8) : Option Ctx :=
  let at_ := s.dev.ctxb.toNat + 64 * c.toNat
  let long := fun (k : Nat) => s.m.homeRead (at_ + k) 8
  let word := fun (k : Nat) => s.m.homeRead (at_ + k) 4
  let root := bits (long 0) 51 12 * 4096
  let chips := (List.range 4).map fun q => word (16 + 4 * q)
  let cols := s.m.columnTable (long 8)
  let rest := (List.range 5).all fun k => decide (word (44 + 4 * k) = 0)
  let ok := decide (long 0 = root) && (decide (tierOf root = some .hbm) || decide (tierOf root = some .lpd)) && decide (long 8 % 1024 = 0) &&
    (cols.all fun p => columnWinOk p.2.toNat) && chips.all chipWinOk && decide (long 32 % 4096 = 0) && decide (bits (word 40) 30 5 = 0) && rest
  if ok then
    some { c := c, cur := j, live := true, draining := (match s.ctx c with | some x => x.draining | none => []),
           fencers := (match s.ctx c with | some x => x.fencers | none => []), root := root, columns := cols,
           chips := chips.map (BitVec.ofNat 32), ring := long 32, notify := decide (bits (word 40) 31 31 = 1), report := bits (word 40) 4 0,
           opened := 1, openedAt := s.dev.time, poisoned := false, rolling := false }
  else none

/-- Poison among what CTXSTART reads for a context: its entry, or the column table that it names (R359, R433). -/
def State.entryPoisoned (s : State) (c : BitVec 12) : Bool :=
  let at_ := s.dev.ctxb.toNat + 64 * c.toNat
  let cols := s.m.homeRead (at_ + 8) 8
  s.m.poisoned at_ 64 || (decide (cols ≠ 0) && s.m.poisoned cols 1024)

/-- A context instruction in its issuing lane: the check of its word, then its effect with the word (R361). -/
def State.ctxOp (s : State) (i : Instr) (a : Reg) (bad : W32 → Bool) (k : State → W32 → State) : State :=
  match s.issuer with
  | none => s.done
  | some l => if bad (s.rd a l) then s.raise i 0x02 ((s.rd a l).setWidth 64) else k s (s.rd a l)

/-- CTXSTART past its word check (R362). -/
def State.ctxBegin (s : State) (i : Instr) (d : Reg) (w : W32) : State :=
  let c := wordCtx w
  let j := wordInc w
  if c = 0#12 ∧ s.g.level ≠ 2 then s.raise i 0x03 (w.setWidth 64)
  else if s.drains c j then s.raise i 0x18 (w.setWidth 64)
  else if s.isLive c then (s.wr d fun _ => 0x01000000#32).done
  else if s.entryPoisoned c then
    (match s.eatPoison s.g.ctx with
     | (s1, true) => s1
     | (s1, false) => s1.raise i 0x10 (s.dev.ctxb + BitVec.ofNat 64 (64 * c.toNat)))
  else
    match s.readEntry c j with
    | none => s.raise i 0x02 (s.dev.ctxb + BitVec.ofNat 64 (64 * c.toNat))
    | some x =>
      let s1 : State := { s with ctxs := (s.ctxs.filter fun y => decide (y.c ≠ c)) ++ [x] }
      (s1.wr d fun _ => BitVec.ofNat 32 (0x80000000 + j.toNat)).done

/-- CTXSTART (R362). -/
def execCtxstart (d a : Reg) (s : State) : Result :=
  issue (.ctxstart d a) s fun s =>
    s.ctxOp (.ctxstart d a) a (fun w => decide (bits w.toNat 31 20 ≠ 0)) fun s w => s.ctxBegin (.ctxstart d a) d w

/-- CTXKILL past its word check (R363). -/
def State.ctxEnd (s : State) (i : Instr) (d : Reg) (w : W32) : State :=
  let c := wordCtx w
  if c = 0#12 ∨ c = s.g.ctx then s.raise i 0x09 (w.setWidth 64)
  else
    match s.ctx c with
    | some x =>
      if x.live then ((s.kill c).wr d fun _ => BitVec.ofNat 32 (0x80000000 + x.cur.toNat * 256 + (x.cur + 1#8).toNat)).done
      else (s.wr d fun _ => 0x01000000#32).done
    | none => (s.wr d fun _ => 0x01000000#32).done

/-- CTXKILL (R363). -/
def execCtxkill (d a : Reg) (s : State) : Result :=
  issue (.ctxkill d a) s fun s =>
    s.ctxOp (.ctxkill d a) a (fun w => decide (bits w.toNat 31 12 ≠ 0)) fun s w => s.ctxEnd (.ctxkill d a) d w

/-- A draining pair becomes Unused: the RCFENCEs that wait for it can end (R361, R364). -/
def State.unuse (s : State) (c : BitVec 12) (j : BitVec 8) : State :=
  s.onCtx c fun x => { x with draining := x.draining.filter fun k => decide (k ≠ j), fencers := x.fencers.map fun f => if f.inc = j then { f with ended := true } else f }

/-- The RCFENCE with which the issuing split holds, with its context (R364). -/
def State.fencer (s : State) : Option (BitVec 12 × Fencer) :=
  s.ctxs.findSome? fun x => (x.fencers.find? fun f => decide ((f.gid, f.entry, f.bank) = s.holder)).map fun f => (x.c, f)

/-- The word of RCFENCE in its lane: as the split read it when it began to hold, else as it reads now (R35, R364). -/
def State.rcWord (s : State) (a : Reg) (l : Nat) : W32 :=
  match s.fencer with
  | some (c, f) => BitVec.ofNat 32 (c.toNat + 4096 * f.inc.toNat)
  | none => s.rd a l

/-- The pair that the issuing split's RCFENCE held for has become Unused since (R364). -/
def State.fenceOver (s : State) : Bool := match s.fencer with | some (_, f) => f.ended | none => false

/-- RCFENCE need not wait: it traps, nothing of a draining pair is left, or the pair has become Unused while it held (R364). -/
def State.rcGo (s : State) (a : Reg) : Bool :=
  match s.issuer with
  | none => true
  | some l =>
    let w := s.rcWord a l
    decide (bits w.toNat 31 20 ≠ 0) || s.fenceOver || !s.drains (wordCtx w) (wordInc w) || s.tagGone (wordCtx w) (wordInc w)

/-- RCFENCE holds its split: the pair is to become Unused once nothing of it is left. -/
def State.rcHold (s : State) (a : Reg) : State :=
  match s.issuer with
  | none => s.hold
  | some l =>
    let w := s.rcWord a l
    let f : Fencer := { gid := s.g.gid, entry := s.entry, bank := s.g.bank, inc := wordInc w, ended := false }
    (if s.fencer.isSome then s else s.onCtx (wordCtx w) fun x => { x with fencers := x.fencers ++ [f] }).hold

/-- The issuing split's RCFENCE holds no longer. -/
def State.dropFencer (s : State) : State :=
  { s with ctxs := s.ctxs.map fun x => { x with fencers := x.fencers.filter fun f => decide ((f.gid, f.entry, f.bank) ≠ s.holder) } }

/-- RCFENCE past its word check (R364). -/
def State.rcEnd (s : State) (i : Instr) (d : Reg) (w : W32) : State :=
  if s.fenceOver then (s.dropFencer.wr d fun _ => 0x80000000#32).done
  else if s.liveTag (wordCtx w) (wordInc w) then s.raise i 0x18 (w.setWidth 64)
  else ((s.unuse (wordCtx w) (wordInc w)).dropFencer.wr d fun _ => 0x80000000#32).done

/-- RCFENCE (R364). -/
def execRcfence (d a : Reg) (s : State) : Result :=
  issueOr (.rcfence d a) s (fun s => s.rcGo a) (fun s => s.rcHold a) fun s =>
    match s.issuer with
    | none => s.done
    | some l =>
      if bits (s.rcWord a l).toNat 31 20 ≠ 0 then s.raise (.rcfence d a) 0x02 ((s.rcWord a l).setWidth 64)
      else s.rcEnd (.rcfence d a) d (s.rcWord a l)

/-- RCFENCE_DRAIN_END (R364): the last request of a pair that an RCFENCE waits for has left; the pair becomes Unused. -/
def execRcfenceDrainEnd (c : BitVec 12) (j : BitVec 8) (s : State) : Result :=
  occur s fun s =>
    match s.ctx c with
    | some x => if (x.fencers.any fun f => decide (f.inc = j)) && s.drains c j && s.tagGone c j then s.unuse c j else s
    | none => s

/-! ## TLBINV (R365) -/

/-- The kind and the context of a selector. -/
def selKind (b : W32) : Nat := bits b.toNat 31 29

/-- The trap of TLBINV: a reserved value, or an address that is not canonical for kind 0 (R365). -/
def tlbTrap (va : W64) (b : W32) : Option (Nat × W64) :=
  if 3 < selKind b ∨ bits b.toNat 28 12 ≠ 0 ∨ (2 ≤ selKind b ∧ bits b.toNat 11 0 ≠ 0) then some (0x02, b.setWidth 64)
  else if selKind b = 0 ∧ !canonical va then some (0x09, va)
  else none

/-- The selector names a cached translation; a global entry maps the address for every context (R331, R365). -/
def tlbNames (va : W64) (b : W32) (t : TlbEntry) : Bool :=
  match selKind b with
  | 0 => (t.glob || decide (t.ctx = b.setWidth 12)) && t.maps va
  | 1 => !t.glob && decide (t.ctx = b.setWidth 12)
  | 2 => t.glob
  | _ => true

/-- The selector names a cached table entry (R365). -/
def tableNames (va : W64) (b : W32) (t : TableEntry) : Bool :=
  match selKind b with
  | 0 => decide (t.ctx = b.setWidth 12) && decide (t.vpn = vpnOf va t.level)
  | 1 => decide (t.ctx = b.setWidth 12)
  | 2 => false
  | _ => true

/-- The TLBs and walk caches without the entries that a selector names. -/
def MemSys.invalidate (m : MemSys) (va : W64) (b : W32) : MemSys :=
  { m with tlb := m.tlb.filter fun t => !tlbNames va b t, tables := m.tables.filter fun t => !tableNames va b t }

/-- A removed translation serves a context and leads to a physical address. -/
def TlbEntry.leadsTo (t : TlbEntry) (c : BitVec 12) (j : BitVec 8) (pa : Nat) : Bool :=
  let bytes := if t.level = 1 ∧ t.pte.getLsbD 54 then 65536 else pageBytes t.level
  (t.glob || (decide (t.ctx = c) && decide (t.inc = j))) && decide (ptePa t.pte / bytes = pa / bytes)

/-- An access translated through one of the removed leaves has not performed or landed: of a group, of an IRED command, of a near-bank sequence (R332). -/
def State.tlbBusy (s : State) (va : W64) (b : W32) : Bool :=
  let gone := s.m.tlb.filter (tlbNames va b)
  (s.m.reqs.any fun r => decide (r.space = .vm) && gone.any fun t => (t.glob || (decide (t.ctx = r.ctx) && decide (t.inc = r.inc))) && t.maps r.va) ||
    (s.eng.ired.any fun c => gone.any fun t => t.leadsTo c.ctx c.inc c.counter || c.lines.any fun p => (p.1 :: p.2).any (t.leadsTo c.ctx c.inc)) ||
    s.eng.nb.any fun q => gone.any fun t => t.leadsTo q.ctx q.inc q.page

/-- TLBINV need not wait. -/
def State.tlbGo (s : State) (a b : Reg) : Bool :=
  match s.issuer with
  | none => true
  | some l => (tlbTrap (s.rd64 a l) (s.rd b l)).isSome || (!s.writesPending s.g s.here s.act && !s.tlbBusy (s.rd64 a l) (s.rd b l))

/-- TLBINV (R365): earlier writes have performed, the entries go, and no access through them is left. -/
def execTlbinv (a b : Reg) (s : State) : Result :=
  issueWhen (.tlbinv a b) s (fun s => s.tlbGo a b) fun s =>
    match s.issuer with
    | none => s.done
    | some l =>
      match tlbTrap (s.rd64 a l) (s.rd b l) with
      | some (c, v) => s.raise (.tlbinv a b) c v
      | none => ({ s with m := s.m.invalidate (s.rd64 a l) (s.rd b l) } : State).done

/-! ## ERES (R358) -/

/-- The held command that an engine tag names. -/
def State.heldCmd (s : State) (w : W32) : Option Command :=
  s.eng.cmds.find? fun c => decide (c.st = .held) && decide (c.tag = w)

/-- The group whose matrix queue a tag names, held by a fault. -/
def State.heldQueue (s : State) (w : W32) : Option Group :=
  s.groups.find? fun g => g.present && decide (g.mheld ≠ 0) && decide (g.core % 1024 = bits w.toNat 29 20) && decide (g.slot % 64 = bits w.toNat 19 14) &&
    decide (bits w.toNat 3 0 = 0)

/-- ERES on what its tag names: resume, or end as a terminal fault; the result. DESIGN CHOICE (log 98): a streamer command resumed while four others run waits for its
turn, Queued, where R236's table has it Running. -/
def State.eresRun (s : State) (w : W32) (fin : Bool) : State × W32 :=
  if bits w.toNat 31 30 = 2 then
    match s.heldQueue w with
    | none => (s, 0x01000000#32)
    | some g =>
      (if fin then s.endQueue g g.mheld
       else s.onGroup g.gid fun y => { y with mheld := 0, maddr := 0, mrec := false }, 0x80000000#32)
  else
    match s.heldCmd w with
    | none => (s, 0x01000000#32)
    | some c =>
      if fin then (s.onCmd c.core c.k fun x => { x with st := .ending }, 0x80000000#32)
      else
        let st : TState := if c.walks || s.streamerFree c.core then .running else .queued
        let s1 := s.onCmd c.core c.k fun x => { x with st := st, code := 0, since := s.dev.time, deferred := none }
        (match c.bar with | some b => s1.unstallBar c.tid b | none => s1, 0x80000000#32)

/-- The reserved value of ERES, if any: of the tag, or of the action. -/
def eresTrap (w b : W32) : Option W32 :=
  if bits w.toNat 31 30 = 3 ∨ bits w.toNat 13 4 ≠ 0 then some w
  else if bits b.toNat 31 1 ≠ 0 then some b
  else none

/-- ERES (R358). -/
def execEres (d a b : Reg) (s : State) : Result :=
  issue (.eres d a b) s fun s =>
    match s.issuer with
    | none => s.done
    | some l =>
      match eresTrap (s.rd a l) (s.rd b l) with
      | some v => s.raise (.eres d a b) 0x02 (v.setWidth 64)
      | none =>
        let r := s.eresRun (s.rd a l) ((s.rd b l).getLsbD 0)
        (r.1.wr d fun _ => r.2).done

/-! ## HALT (R367) -/

/-- HALT (R367): the management core issues nothing further until module reset; elsewhere it is a privilege trap. -/
def execHalt (s : State) : Result :=
  issueWhen .halt s (fun s => decide (s.g.core ≠ mgmtCore) || s.accessesDone) fun s =>
    if s.g.core ≠ mgmtCore then s.raise .halt 0x03 (wordVal .halt) else { s.done with fw := { s.fw with halted := true } }

/-! ## Events -/

/-- TRAP_ENTRY (R351): what the entry waits for is over. -/
def execTrapEntry (gid : Nat) (s : State) : Result :=
  occur s fun s =>
    s.inGroup gid fun s =>
      match s.g.trap with
      | some t => if s.g.gid = gid && decide (s.g.place = .resident) && s.quiet then s.trapEntry t else s
      | none => s

/-- The records of held commands and queues whose report core is `ctl`, and that found no room in their ring, are written where there is
room now (R357). -/
def State.writeRecords (s : State) (ctl : Nat) : State :=
  let mine := fun (s : State) (c : BitVec 12) => match s.ctx c with | some x => decide (256 + x.report = ctl) | none => false
  let s1 := (s.eng.cmds.filter fun c => decide (c.st = .held) && !c.recorded && mine s c.ctx).foldl State.recordCmd s
  (s1.groups.filter fun g => g.present && decide (g.mheld ≠ 0) && !g.mrec && mine s1 g.ctx).foldl State.recordOp s1

/-- The group of a report control core: the one in its lowest slot. -/
def State.reportGroup (s : State) (ctl : Nat) : Option Group :=
  (s.resident ctl).foldl (fun b g => match b with | some x => some (if g.slot < x.slot then g else x) | none => some g) none

/-- Reports for a control core are delivered as one, naming the latest record, once its group has both banks free (R357). -/
def State.deliverReports (s : State) (ctl : Nat) : State :=
  match s.reportGroup ctl, (s.reports.filter fun r => decide (r.ctl = ctl)).getLast? with
  | some g, some r =>
    if g.bank ≥ 2 ∨ g.trap.isSome then s
    else
      let t : TrapReport := { cause := r.cause, async := true, val := r.record, ins := 0, fmask := 0, wdet := 0, logged := none,
                              entry := ((List.range 4).find? fun e => (g.split e).isSome).getD 0 }
      ({ s with reports := s.reports.filter fun x => decide (x.ctl ≠ ctl) } : State).inGroup g.gid fun s => s.report t
  | _, _ => s

/-- FAULT_REPORT_DELIVERY (R357). -/
def execFaultReportDelivery (ctl : Nat) (s : State) : Result := occur s fun s => (s.writeRecords ctl).deliverReports ctl

/-- The hold counters of held splits advance (R132). -/
def Group.tick (g : Group) : Group :=
  { g with splits := (List.range g.splits.length).map fun e => (g.split e).map fun x => if g.held e then { x with hold := min 65536 (x.hold + 1) } else x }

/-- Splits of the group that are held at their reconvergence points. -/
def Group.heldCount (g : Group) : Nat := ((List.range 4).filter g.held).length

/-- How often an event happens in a tick at a unit: 0 to 3 times, of which a context has no more than all together. -/
def freeEvents (fresh kind unit code : Nat) (filter : Option Nat) : Nat :=
  let key := fun (f : Nat) => ((f * 256 + code) * 2 + kind) * 1024 + unit
  let all := Config.choose fresh (key 0) % 4
  match filter with
  | none => all
  | some c => Config.choose fresh (key (1 + c)) % (all + 1)

/-- The counters that select an event that can happen at their unit, of `n` counters, gain as often as it happens. -/
def freeCount (sel : Store 32) (n kind : Nat) (may : Nat → Nat → Bool) (fresh : Nat) (cnt : Store 64) : Store 64 :=
  sel.foldl (fun c p =>
    let code := p.2.toNat % 256
    let filter := if p.2.getLsbD 29 then some (bits p.2.toNat 27 16) else none
    if p.2.getLsbD 31 && may (p.1 / n) code then Store.put c p.1 (Store.get c p.1 + BitVec.ofNat 64 (freeEvents fresh kind (p.1 / n) code filter)) else c) cnt

/-- The core runs cycles, or stalls on a full tether (R236, R446). -/
def State.coreMay (s : State) (core code : Nat) : Bool :=
  !s.lapsed core && (decide (code = 0x00) || (decide (code = 0x06) && decide (16 ≤ (s.eng.cmds.filter fun c => decide (c.core = core)).length)))

/-- Something could read or write memory: a group, a request, an engine, a base die, a delivery, or a cache that holds a line to write back. -/
def State.memoryMay (s : State) (code : Nat) : Bool :=
  decide (code ≤ 0x01) && ((s.groups.any fun g => decide (g.place = .resident)) || !s.m.reqs.isEmpty || !s.eng.cmds.isEmpty || !s.eng.nb.isEmpty || !s.eng.ired.isEmpty ||
    !s.eng.landings.isEmpty || !s.fab.deliveries.isEmpty || (s.m.l2.any fun x => x.dirty) || s.m.keel.any fun k => !k.dirty.isEmpty)

/-- The events of a tick (R446): split-held ticks of each core, ticks of thermal hold. DESIGN CHOICE (log 65): cycles, cycles stalled on a full tether, and the reads
and writes of a controller, which caches and refreshes time, are free values where they can happen. -/
def State.tickEvents (s : State) : State :=
  let run := s.groups.filter fun g => decide (g.place = .resident)
  let s1 := if s.dev.evsel.isEmpty then s else
    run.foldl (fun s g => (List.range g.heldCount).foldl (fun s _ => s.event g.core g.ctx 0x02) s) s
  let s2 : State := { s1 with dev := { s1.dev with
    evcnt := freeCount s1.dev.evsel 8 0 s.coreMay s.fresh s1.dev.evcnt, mevcnt := freeCount s1.dev.mevsel 4 1 (fun _ => s.memoryMay) s.fresh s1.dev.mevcnt } }
  s2.eng.selfRefresh.foldl (fun s k => (List.range 16).foldl (fun s j => s.mevent (16 * k + j) none 0x07) s) s2

/-- A group has lanes that wait to be issued again: they are pending, not in flight, and no trap or parking holds them. -/
def Group.restless (g : Group) : Bool :=
  decide (g.place = .resident) && g.trap.isNone && g.parking.isNone && g.log.any fun x => decide (x.pend &&& ~~~x.flight ≠ 0#32)

/-- TIME_TICK (R345): TIME advances by 1; lanes that wait for a home are issued again, and data from outside that waits is tried again. -/
def execTimeTick (s : State) : Result :=
  occur s fun s =>
    let s1 : State := { s with dev := { s.dev with time := s.dev.time + 1#64 } }
    let s2 := (s1.mapGroups (fun g => decide (g.place = .resident)) Group.tick).tickEvents
    (((s2.groups.filter Group.restless).map (·.gid)).foldl (fun s gid => s.inGroup gid State.reissue) s2).retryDeliveries

end Sys2Proof.Machine
end

