-- ==== Sys2Proof/Machine/Dispatch.lean ====
section
/-!
DEFINITION. Sys2Proof/Machine/Dispatch.lean: one arm per constructor of Instr, in the order of spec/opcode_table.json.
-/

namespace Sys2Proof.Machine

open Sys2Proof

def exec (i : Instr) (s : State) : Host.Outcome State Fault Refusal :=
  match i with
  | .add d a b => Sys2Proof.Machine.execAdd d a b s
  | .sub d a b => Sys2Proof.Machine.execSub d a b s
  | .addx d a b => Sys2Proof.Machine.execAddx d a b s
  | .mul d a b => Sys2Proof.Machine.execMul d a b s
  | .mulh d a b => Sys2Proof.Machine.execMulh d a b s
  | .mad d a b => Sys2Proof.Machine.execMad d a b s
  | .div d a b => Sys2Proof.Machine.execDiv d a b s
  | .rem d a b => Sys2Proof.Machine.execRem d a b s
  | .min d a b => Sys2Proof.Machine.execMin d a b s
  | .max d a b => Sys2Proof.Machine.execMax d a b s
  | .abs d a => Sys2Proof.Machine.execAbs d a s
  | .and d a b => Sys2Proof.Machine.execAnd d a b s
  | .or d a b => Sys2Proof.Machine.execOr d a b s
  | .xor d a b => Sys2Proof.Machine.execXor d a b s
  | .andn d a b => Sys2Proof.Machine.execAndn d a b s
  | .orn d a b => Sys2Proof.Machine.execOrn d a b s
  | .shl d a b => Sys2Proof.Machine.execShl d a b s
  | .shr d a b => Sys2Proof.Machine.execShr d a b s
  | .rot d a b => Sys2Proof.Machine.execRot d a b s
  | .popc d a => Sys2Proof.Machine.execPopc d a s
  | .clz d a => Sys2Proof.Machine.execClz d a s
  | .ctz d a => Sys2Proof.Machine.execCtz d a s
  | .brev d a => Sys2Proof.Machine.execBrev d a s
  | .bfx d a b => Sys2Proof.Machine.execBfx d a b s
  | .bfi d a b => Sys2Proof.Machine.execBfi d a b s
  | .sel d a b => Sys2Proof.Machine.execSel d a b s
  | .cmp c p a b => Sys2Proof.Machine.execCmp c p a b s
  | .mov d a => Sys2Proof.Machine.execMov d a s
  | .lea d a b sc => Sys2Proof.Machine.execLea d a b sc s
  | .dot4 d a b => Sys2Proof.Machine.execDot4 d a b s
  | .bperm d a b => Sys2Proof.Machine.execBperm d a b s
  | .addi d a imm => Sys2Proof.Machine.execAddi d a imm s
  | .andi d a imm => Sys2Proof.Machine.execAndi d a imm s
  | .ori d a imm => Sys2Proof.Machine.execOri d a imm s
  | .xori d a imm => Sys2Proof.Machine.execXori d a imm s
  | .shli d a n => Sys2Proof.Machine.execShli d a n s
  | .shri d a n => Sys2Proof.Machine.execShri d a n s
  | .cmpi c p a imm => Sys2Proof.Machine.execCmpi c p a imm s
  | .movi d imm => Sys2Proof.Machine.execMovi d imm s
  | .ihi d imm => Sys2Proof.Machine.execIhi d imm s
  | .fadd d a b => Sys2Proof.Machine.execFadd d a b s
  | .fsub d a b => Sys2Proof.Machine.execFsub d a b s
  | .fmul d a b => Sys2Proof.Machine.execFmul d a b s
  | .ffma d a b => Sys2Proof.Machine.execFfma d a b s
  | .fmin d a b => Sys2Proof.Machine.execFmin d a b s
  | .fmax d a b => Sys2Proof.Machine.execFmax d a b s
  | .fabs d a => Sys2Proof.Machine.execFabs d a s
  | .fneg d a => Sys2Proof.Machine.execFneg d a s
  | .fcmp c p a b => Sys2Proof.Machine.execFcmp c p a b s
  | .fclass d a => Sys2Proof.Machine.execFclass d a s
  | .frnd d a => Sys2Proof.Machine.execFrnd d a s
  | .fscale d a b => Sys2Proof.Machine.execFscale d a b s
  | .frcp d a l => Sys2Proof.Machine.execFrcp d a l s
  | .frsq d a l => Sys2Proof.Machine.execFrsq d a l s
  | .fsqrt d a l => Sys2Proof.Machine.execFsqrt d a l s
  | .fexp2 d a l => Sys2Proof.Machine.execFexp2 d a l s
  | .flog2 d a l => Sys2Proof.Machine.execFlog2 d a l s
  | .fsin d a l => Sys2Proof.Machine.execFsin d a l s
  | .fcos d a l => Sys2Proof.Machine.execFcos d a l s
  | .cvt d a t => Sys2Proof.Machine.execCvt d a t s
  | .cvtdx d a f => Sys2Proof.Machine.execCvtdx d a f s
  | .cvtmx d a f => Sys2Proof.Machine.execCvtmx d a f s
  | .qswapH d a => Sys2Proof.Machine.execQswapH d a s
  | .qswapV d a => Sys2Proof.Machine.execQswapV d a s
  | .qswapD d a => Sys2Proof.Machine.execQswapD d a s
  | .qbcast d a q => Sys2Proof.Machine.execQbcast d a q s
  | .shfl d a b => Sys2Proof.Machine.execShfl d a b s
  | .shflu d a b => Sys2Proof.Machine.execShflu d a b s
  | .shfld d a b => Sys2Proof.Machine.execShfld d a b s
  | .shflx d a b => Sys2Proof.Machine.execShflx d a b s
  | .voteAll p a => Sys2Proof.Machine.execVoteAll p a s
  | .voteAny p a => Sys2Proof.Machine.execVoteAny p a s
  | .voteBallot d a => Sys2Proof.Machine.execVoteBallot d a s
  | .gscanIncl d a o => Sys2Proof.Machine.execGscanIncl d a o s
  | .gscanExcl d a o => Sys2Proof.Machine.execGscanExcl d a o s
  | .gred d a o => Sys2Proof.Machine.execGred d a o s
  | .matchLanes d a => Sys2Proof.Machine.execMatchLanes d a s
  | .plog d a b t => Sys2Proof.Machine.execPlog d a b t s
  | .br o => Sys2Proof.Machine.execBr o s
  | .brc c o => Sys2Proof.Machine.execBrc c o s
  | .call f o => Sys2Proof.Machine.execCall f o s
  | .brx a => Sys2Proof.Machine.execBrx a s
  | .ret => Sys2Proof.Machine.execRet s
  | .exit => Sys2Proof.Machine.execExit s
  | .nop => Sys2Proof.Machine.execNop s
  | .yield d a => Sys2Proof.Machine.execYield d a s
  | .callx a f => Sys2Proof.Machine.execCallx a f s
  | .setm m imm => Sys2Proof.Machine.execSetm m imm s
  | .setmR m a => Sys2Proof.Machine.execSetmR m a s
  | .getm d => Sys2Proof.Machine.execGetm d s
  | .pushm => Sys2Proof.Machine.execPushm s
  | .popm => Sys2Proof.Machine.execPopm s
  | .ld d b o l => Sys2Proof.Machine.execLd d b o l s
  | .st d b o l => Sys2Proof.Machine.execSt d b o l s
  | .ldStr d b o sc => Sys2Proof.Machine.execLdStr d b o sc s
  | .stStr d b o sc => Sys2Proof.Machine.execStStr d b o sc s
  | .ldAcq d b o sc => Sys2Proof.Machine.execLdAcq d b o sc s
  | .stRel d b o sc => Sys2Proof.Machine.execStRel d b o sc s
  | .ldh d b o c => Sys2Proof.Machine.execLdh d b o c s
  | .pref v b o => Sys2Proof.Machine.execPref v b o s
  | .lds d b o l => Sys2Proof.Machine.execLds d b o l s
  | .sts d b o l => Sys2Proof.Machine.execSts d b o l s
  | .ldc d b o l => Sys2Proof.Machine.execLdc d b o l s
  | .stc d b o l => Sys2Proof.Machine.execStc d b o l s
  | .ldx d b o l => Sys2Proof.Machine.execLdx d b o l s
  | .stx d b o l => Sys2Proof.Machine.execStx d b o l s
  | .ldl d b o l => Sys2Proof.Machine.execLdl d b o l s
  | .stl d b o l => Sys2Proof.Machine.execStl d b o l s
  | .amo d a b l o => Sys2Proof.Machine.execAmo d a b l o s
  | .cas d a b l => Sys2Proof.Machine.execCas d a b l s
  | .amos d a b l o => Sys2Proof.Machine.execAmos d a b l o s
  | .red a b l o => Sys2Proof.Machine.execRed a b l o s
  | .fence c sc p => Sys2Proof.Machine.execFence c sc p s
  | .xfence c t f => Sys2Proof.Machine.execXfence c t f s
  | .pfence k => Sys2Proof.Machine.execPfence k s
  | .icinv sc => Sys2Proof.Machine.execIcinv sc s
  | .ldfe d a => Sys2Proof.Machine.execLdfe d a s
  | .ldfeE d a => Sys2Proof.Machine.execLdfeE d a s
  | .stfe a b => Sys2Proof.Machine.execStfe a b s
  | .fesetE a => Sys2Proof.Machine.execFesetE a s
  | .fesetF a => Sys2Proof.Machine.execFesetF a s
  | .feq d a => Sys2Proof.Machine.execFeq d a s
  | .tbinit a b => Sys2Proof.Machine.execTbinit a b s
  | .tbarr d a b => Sys2Proof.Machine.execTbarr d a b s
  | .tbwait d a b => Sys2Proof.Machine.execTbwait d a b s
  | .tbret a => Sys2Proof.Machine.execTbret a s
  | .cpyTile d a b l => Sys2Proof.Machine.execCpyTile d a b l s
  | .cpyLin d a b l => Sys2Proof.Machine.execCpyLin d a b l s
  | .cpyMem d a b l => Sys2Proof.Machine.execCpyMem d a b l s
  | .cpyoTile d a b l => Sys2Proof.Machine.execCpyoTile d a b l s
  | .cpyoLin d a b l => Sys2Proof.Machine.execCpyoLin d a b l s
  | .gath d a b l => Sys2Proof.Machine.execGath d a b l s
  | .scat d a b l => Sys2Proof.Machine.execScat d a b l s
  | .walkExact d a b l => Sys2Proof.Machine.execWalkExact d a b l s
  | .walkFloor d a b l => Sys2Proof.Machine.execWalkFloor d a b l s
  | .obres d a b => Sys2Proof.Machine.execObres d a b s
  | .obrel a => Sys2Proof.Machine.execObrel a s
  | .mma t a b l k => Sys2Proof.Machine.execMma t a b l k s
  | .mmas t a b l k => Sys2Proof.Machine.execMmas t a b l k s
  | .mloop t a b l sc => Sys2Proof.Machine.execMloop t a b l sc s
  | .mbatch d => Sys2Proof.Machine.execMbatch d s
  | .mwait d a => Sys2Proof.Machine.execMwait d a s
  | .accrd d b => Sys2Proof.Machine.execAccrd d b s
  | .accwr a b => Sys2Proof.Machine.execAccwr a b s
  | .accst a b => Sys2Proof.Machine.execAccst a b s
  | .accz t => Sys2Proof.Machine.execAccz t s
  | .mcomp d a l => Sys2Proof.Machine.execMcomp d a l s
  | .ired a l f => Sys2Proof.Machine.execIred a l f s
  | .nbrun d a l => Sys2Proof.Machine.execNbrun d a l s
  | .nbwait d a => Sys2Proof.Machine.execNbwait d a s
  | .nbq d a => Sys2Proof.Machine.execNbq d a s
  | .land d a b => Sys2Proof.Machine.execLand d a b s
  | .launch d a l => Sys2Proof.Machine.execLaunch d a l s
  | .lwait d a l => Sys2Proof.Machine.execLwait d a l s
  | .lquery d a l => Sys2Proof.Machine.execLquery d a l s
  | .iter d => Sys2Proof.Machine.execIter d s
  | .fixup d a => Sys2Proof.Machine.execFixup d a s
  | .xacq d a k => Sys2Proof.Machine.execXacq d a k s
  | .xrel d a k => Sys2Proof.Machine.execXrel d a k s
  | .gmig d a l => Sys2Proof.Machine.execGmig d a l s
  | .csrr d c => Sys2Proof.Machine.execCsrr d c s
  | .csrw d c => Sys2Proof.Machine.execCsrw d c s
  | .trap n => Sys2Proof.Machine.execTrap n s
  | .tret => Sys2Proof.Machine.execTret s
  | .tlbinv a b => Sys2Proof.Machine.execTlbinv a b s
  | .ctxstart d a => Sys2Proof.Machine.execCtxstart d a s
  | .ctxkill d a => Sys2Proof.Machine.execCtxkill d a s
  | .rcfence d a => Sys2Proof.Machine.execRcfence d a s
  | .eres d a b => Sys2Proof.Machine.execEres d a b s
  | .drain d a => Sys2Proof.Machine.execDrain d a s
  | .halt => Sys2Proof.Machine.execHalt s
  | .thset d a b => Sys2Proof.Machine.execThset d a b s
  | .thclr d a => Sys2Proof.Machine.execThclr d a s
  | .append d a l => Sys2Proof.Machine.execAppend d a l s
  | .apseal d a l => Sys2Proof.Machine.execApseal d a l s
  | .apwait d a b l => Sys2Proof.Machine.execApwait d a b l s
  | .wsget d a l => Sys2Proof.Machine.execWsget d a l s
  | .wsrel a b l => Sys2Proof.Machine.execWsrel a b l s
  | .wsset d a b l => Sys2Proof.Machine.execWsset d a b l s
  | .ckclose d a b => Sys2Proof.Machine.execCkclose d a b s
  | .shseal d => Sys2Proof.Machine.execShseal d s
  | .l2leaseWrite q v => Sys2Proof.Machine.execL2leaseWrite q v s
  | .mcselWrite v => Sys2Proof.Machine.execMcselWrite v s
  | .evcntWrite core k v => Sys2Proof.Machine.execEvcntWrite core k v s
  | .timeTick => Sys2Proof.Machine.execTimeTick s
  | .splitHoldTimeout gid e => Sys2Proof.Machine.execSplitHoldTimeout gid e s
  | .splitMerge gid lo hi => Sys2Proof.Machine.execSplitMerge gid lo hi s
  | .yieldWake gid e => Sys2Proof.Machine.execYieldWake gid e s
  | .yreqExpiry gid => Sys2Proof.Machine.execYreqExpiry gid s
  | .preemption ls => Sys2Proof.Machine.execPreemption ls s
  | .groupEviction gid => Sys2Proof.Machine.execGroupEviction gid s
  | .groupResume gid => Sys2Proof.Machine.execGroupResume gid s
  | .gangPlacement ls => Sys2Proof.Machine.execGangPlacement ls s
  | .controlCorePlacement ls => Sys2Proof.Machine.execControlCorePlacement ls s
  | .launchDependencesMet ls => Sys2Proof.Machine.execLaunchDependencesMet ls s
  | .launchCompletion ls => Sys2Proof.Machine.execLaunchCompletion ls s
  | .groupEnd gid => Sys2Proof.Machine.execGroupEnd gid s
  | .xacqGrant tid tiles => Sys2Proof.Machine.execXacqGrant tid tiles s
  | .gondola gid => Sys2Proof.Machine.execGondola gid s
  | .loadResponse rid src => Sys2Proof.Machine.execLoadResponse rid src s
  | .writePerform rid => Sys2Proof.Machine.execWritePerform rid s
  | .atomicPerform rid => Sys2Proof.Machine.execAtomicPerform rid s
  | .leaseExpiry core line => Sys2Proof.Machine.execLeaseExpiry core line s
  | .waitTableRetry gid e => Sys2Proof.Machine.execWaitTableRetry gid e s
  | .trapEntry gid => Sys2Proof.Machine.execTrapEntry gid s
  | .engineCommandStart core k => Sys2Proof.Machine.execEngineCommandStart core k s
  | .engineDelivery core k units => Sys2Proof.Machine.execEngineDelivery core k units s
  | .engineCommandEnd core k => Sys2Proof.Machine.execEngineCommandEnd core k s
  | .engineRestartableFault core k => Sys2Proof.Machine.execEngineRestartableFault core k s
  | .faultReportDelivery ctl => Sys2Proof.Machine.execFaultReportDelivery ctl s
  | .flashDefer rid => Sys2Proof.Machine.execFlashDefer rid s
  | .parkingWake gid => Sys2Proof.Machine.execParkingWake gid s
  | .parkingEscalation gid => Sys2Proof.Machine.execParkingEscalation gid s
  | .thermalSelfRefresh stack => Sys2Proof.Machine.execThermalSelfRefresh stack s
  | .thermalSelfRefreshExit stack => Sys2Proof.Machine.execThermalSelfRefreshExit stack s
  | .thermalHoldPark gid => Sys2Proof.Machine.execThermalHoldPark gid s
  | .matrixKstep core => Sys2Proof.Machine.execMatrixKstep core s
  | .accstRowLand core row => Sys2Proof.Machine.execAccstRowLand core row s
  | .matrixOpFault core => Sys2Proof.Machine.execMatrixOpFault core s
  | .nbRowOperation pc => Sys2Proof.Machine.execNbRowOperation pc s
  | .refreshDue pc => Sys2Proof.Machine.execRefreshDue pc s
  | .iredCommand cid line => Sys2Proof.Machine.execIredCommand cid line s
  | .landingPacket ep hdr data => Sys2Proof.Machine.execLandingPacket ep hdr data s
  | .landingPacketHoldExpiry k => Sys2Proof.Machine.execLandingPacketHoldExpiry k s
  | .landingCloseComplete k => Sys2Proof.Machine.execLandingCloseComplete k s
  | .dirReadFill agent line => Sys2Proof.Machine.execDirReadFill agent line s
  | .dirOwnershipRequest agent line => Sys2Proof.Machine.execDirOwnershipRequest agent line s
  | .dirWriteAtHome line => Sys2Proof.Machine.execDirWriteAtHome line s
  | .dirWriteback agent line evict => Sys2Proof.Machine.execDirWriteback agent line evict s
  | .dirCleanEvictNotice agent line => Sys2Proof.Machine.execDirCleanEvictNotice agent line s
  | .gleaner cache line => Sys2Proof.Machine.execGleaner cache line s
  | .directoryEntryError line => Sys2Proof.Machine.execDirectoryEntryError line s
  | .bisnp line => Sys2Proof.Machine.execBisnp line s
  | .poolWriteCompletion rid => Sys2Proof.Machine.execPoolWriteCompletion rid s
  | .fabricCompletionTimeout rid => Sys2Proof.Machine.execFabricCompletionTimeout rid s
  | .ueDelivery ep va data => Sys2Proof.Machine.execUeDelivery ep va data s
  | .rcfenceDrainEnd c j => Sys2Proof.Machine.execRcfenceDrainEnd c j s
  | .migrationDecision c h => Sys2Proof.Machine.execMigrationDecision c h s
  | .tensorMoveSwitch c h frame => Sys2Proof.Machine.execTensorMoveSwitch c h frame s
  | .tensorMoveAbandon c h => Sys2Proof.Machine.execTensorMoveAbandon c h s
  | .compressedPageExpand leaf frame => Sys2Proof.Machine.execCompressedPageExpand leaf frame s
  | .flashRelocation page dest => Sys2Proof.Machine.execFlashRelocation page dest s
  | .appendAccept rid => Sys2Proof.Machine.execAppendAccept rid s
  | .intervalAgeExpiry c => Sys2Proof.Machine.execIntervalAgeExpiry c s
  | .logShareThreshold c => Sys2Proof.Machine.execLogShareThreshold c s
  | .intervalCommit c => Sys2Proof.Machine.execIntervalCommit c s
  | .rollback c => Sys2Proof.Machine.execRollback c s
  | .generationReclaim ws gen => Sys2Proof.Machine.execGenerationReclaim ws gen s
  | .scanStart => Sys2Proof.Machine.execScanStart s
  | .scanPass core => Sys2Proof.Machine.execScanPass core s
  | .scanFail core => Sys2Proof.Machine.execScanFail core s
  | .spareRepair core => Sys2Proof.Machine.execSpareRepair core s
  | .channelRecalibration ch => Sys2Proof.Machine.execChannelRecalibration ch s
  | .channelRecovery ch sector trained clean => Sys2Proof.Machine.execChannelRecovery ch sector trained clean s
  | .columnBufferDrain core => Sys2Proof.Machine.execColumnBufferDrain core s
  | .announcedLapse core => Sys2Proof.Machine.execAnnouncedLapse core s
  | .unannouncedLapse core selfCheck kept => Sys2Proof.Machine.execUnannouncedLapse core selfCheck kept s
  | .tileResume core => Sys2Proof.Machine.execTileResume core s
  | .thermalForecastUpdate temps => Sys2Proof.Machine.execThermalForecastUpdate temps s
  | .junctionTrip q temp core => Sys2Proof.Machine.execJunctionTrip q temp core s
  | .quarterPowerLimit q core => Sys2Proof.Machine.execQuarterPowerLimit q core s
  | .moduleReset sigOk ver => Sys2Proof.Machine.execModuleReset sigOk ver s
  | .recoveryImage sigOk ver => Sys2Proof.Machine.execRecoveryImage sigOk ver s
  | .getVersion => Sys2Proof.Machine.execGetVersion s
  | .getCapabilities => Sys2Proof.Machine.execGetCapabilities s
  | .negotiateAlgorithms sign hash dhe aead => Sys2Proof.Machine.execNegotiateAlgorithms sign hash dhe aead s
  | .getDigests => Sys2Proof.Machine.execGetDigests s
  | .getCertificate slot => Sys2Proof.Machine.execGetCertificate slot s
  | .challenge slot nonce => Sys2Proof.Machine.execChallenge slot nonce s
  | .getMeasurements index => Sys2Proof.Machine.execGetMeasurements index s
  | .keyExchange slot => Sys2Proof.Machine.execKeyExchange slot s
  | .finish => Sys2Proof.Machine.execFinish s
  | .endSession => Sys2Proof.Machine.execEndSession s
  | .cxlIoWrite rq va data => Sys2Proof.Machine.execCxlIoWrite rq va data s
  | .endpointBinding io ep c => Sys2Proof.Machine.execEndpointBinding io ep c s
  | .memoryError pa corrected => Sys2Proof.Machine.execMemoryError pa corrected s
  | .l2LineEviction line => Sys2Proof.Machine.execL2LineEviction line s

end Sys2Proof.Machine
end

