-- ==== Sys2Proof/Machine/Schedule.lean ====
section
/-!
DEFINITION. Sys2Proof/Machine/Schedule.lean: what happens next (log 4): an input, an event of an agent that can act now, or the issue of the split
that R137 and R138 choose; and the fetch of its instruction (R19, R223, R324–R333).
-/

namespace Sys2Proof.Machine

open Sys2Proof

/-! ## Fetch -/

/-- What a fetch gives: a word, a trap, a wait, or nothing (its context rolls back). -/
inductive Fetched where
  | word (w : W32)
  | trap (t : TrapReport)
  | wait
  | over
  deriving DecidableEq, Repr

/-- A trap that a fetch raises: there is no word, and TRET fetches again. -/
def State.fetchTrap (s : State) (cause : Nat) (wdet : W64) : TrapReport :=
  { cause := cause, async := false, val := s.cur.pc, ins := 0, fmask := s.act, wdet := wdet, logged := none, entry := s.entry }

/-- The line of a core's instruction cache. -/
def MemSys.iline (m : MemSys) (core line : Nat) : Option ILine := m.icache.find? fun x => decide (x.core = core) && decide (x.line = line)

/-- A line is fetched from its home into a core's instruction cache. -/
def State.fillIline (s : State) (core pa : Nat) (ms : Bool) : State :=
  let rest := s.m.icache.filter fun x => !(decide (x.core = core) && decide (x.line = lineOf pa))
  let m1 := if inL2 ms pa then s.m.readL2 (lineOf pa) 0 else s.m
  { s with m := { m1 with icache := rest ++ [{ core := core, line := lineOf pa, data := s.m.homeLine (lineOf pa), bad := s.m.homeBad (lineOf pa) }] } }

/-- The word at a physical address: of the line as the core fetched it, or as it stands now (R223, log 12). -/
def State.fetchWord (s : State) (pa : Nat) (ms : Bool) : State × W32 :=
  let now := BitVec.ofNat 32 (s.m.homeRead pa 4)
  match s.m.iline s.g.core (lineOf pa) with
  | none => (s.fillIline s.g.core pa ms, now)
  | some x =>
    let old := BitVec.ofNat 32 (Store.getLE x.data (pa % 128) 4)
    if old = now ∨ Config.stalePickLine s.fresh (lineOf pa) then (s, old) else (s.fillIline s.g.core pa ms, now)

/-- A fetch of poison (R433): the first consumption rolls the context back, a repeat traps. -/
def State.fetchPoison (s : State) : State × Fetched :=
  match s.eatPoison s.g.ctx with
  | (s1, true) => (s1, .over)
  | (s1, false) => (s1, .trap (s.fetchTrap 0x10 0))

/-- A fetch reads poison: as the instruction cache holds the line, or at its home (R432). -/
def State.fetchBad (s : State) (pa : Nat) : Bool :=
  match s.m.iline s.g.core (lineOf pa) with
  | some x => badBytes x.bad pa 4
  | none => s.m.poisoned pa 4

/-- A line that neither the instruction cache nor L2 holds must wait: its flash page is being relocated, or its stack sleeps (R298, R333). -/
def State.fetchWaits (s : State) (pa : Nat) : Bool :=
  (s.m.iline s.g.core (lineOf pa)).isNone && (s.m.l2Line (lineOf pa)).isNone &&
    (s.stackHeld pa || (decide (tierOf pa = some .flash) && s.fl.relocating.any fun p => decide (p = pa / 4096)))

/-- The fetch of the issuing split's next instruction. -/
def State.fetch (s : State) : State × Fetched :=
  match s.xlate s.g.asker .exec s.cur.pc with
  | (s1, .fault c w) => (s1, .trap (s.fetchTrap c w))
  | (s1, .wait) => (s1, .wait)
  | (s1, .over) => (s1, .over)
  | (s1, .ok pa p) =>
    if s1.fetchWaits pa then (s1, .wait)
    else if s1.fetchBad pa then s1.fetchPoison
    else
      let r := s1.fetchWord pa (pteMs p)
      (r.1, .word (if s1.wild s.g.ctx s.cur.pc pa then (Config.unpredictable s1.fresh pa).setWidth 32 else r.2))

/-- A split fetches and runs its next instruction (R37). -/
def State.runSplit (s : State) (gid e : Nat) : Result :=
  let s1 := s.focus gid e
  if s1.g.gid ≠ gid ∨ (s1.g.split e).isNone ∨ !s1.mayIssue then .next s1
  else
    match s1.fetch with
    | (s2, .word w) =>
      match decode w with
      | .ok i => exec i s2
      | .error _ => .next (s2.raiseWord w)
    | (s2, .trap t) => .next (s2.report t)
    | (s2, .wait) => .next (s2.sleep (.retry true))
    | (s2, .over) => .next s2

/-! ## Merges (R133) -/

/-- Entry `lo` merges now with entry `hi`, or with parked set `hi` − 4. -/
def Group.mergeable (g : Group) (lo hi : Nat) : Bool :=
  match g.split lo with
  | none => false
  | some x =>
    g.mayMerge lo x &&
      (if hi < 4 then decide (lo < hi) && (match g.split hi with | some y => g.mayMerge hi y && decide (x.pc = y.pc) | none => false)
       else match g.parked[hi - 4]? with | some p => decide (x.pc = p.pc) | none => false)

/-- The first pair of a group that merges. -/
def Group.mergePair (g : Group) : Option (Nat × Nat) :=
  ((List.range 4).flatMap fun lo => (List.range (4 + g.parked.length)).map fun hi => (lo, hi)).find? fun p => g.mergeable p.1 p.2

/-- A merge that is due: a group on its core and its pair. -/
def State.mergeDue (s : State) : Option (Nat × Nat × Nat) :=
  (s.groups.filter fun g => decide (g.place = .resident)).findSome? fun g => g.mergePair.map fun p => (g.gid, p.1, p.2)

/-! ## Events that agents bring about by themselves -/

/-- An event that an agent of the machine may bring about unasked (log 4): a row without an encoding that needs nothing from outside. -/
inductive Auto where
  | yieldWake (gid e : Nat)
  | waitTableRetry (gid e : Nat)
  | splitHoldTimeout (gid e : Nat)
  | trapEntry (gid : Nat)
  | parkingWake (gid : Nat)
  | parkingEscalation (gid : Nat)
  | thermalHoldPark (gid : Nat)
  | yreqExpiry (gid : Nat)
  | groupEviction (gid : Nat)
  | groupResume (gid : Nat)
  | gondola (gid : Nat)
  | groupEnd (gid : Nat)
  | appendAccept (rid : Nat)
  | writePerform (rid : Nat)
  | atomicPerform (rid : Nat)
  | loadResponse (rid : Nat) (src : LoadSource)
  | flashDefer (rid : Nat)
  | engineCommandStart (core k : Nat)
  | engineDelivery (core k : Nat)
  | engineRestartableFault (core k : Nat)
  | engineCommandEnd (core k : Nat)
  | launchDependencesMet (ls : Nat)
  | gangPlacement (ls : Nat)
  | controlCorePlacement (ls : Nat)
  | preemption (ls : Nat)
  | launchCompletion (ls : Nat)
  | intervalCommit (c : BitVec 12)
  | rollback (c : BitVec 12)
  | intervalAgeExpiry (c : BitVec 12)
  | logShareThreshold (c : BitVec 12)
  | rcfenceDrainEnd (c : BitVec 12) (j : BitVec 8)
  | matrixKstep (core : Nat)
  | accstRowLand (core : Nat) (row : BitVec 4)
  | matrixOpFault (core : Nat)
  | xacqGrant (tid : Nat) (tiles : Bool)
  | iredCommand (cid line : Nat)
  | nbRowOperation (pc : Nat)
  | landingCloseComplete (k : Nat)
  | landingPacketHoldExpiry (k : Nat)
  | poolWriteCompletion (rid : Nat)
  | fabricCompletionTimeout (rid : Nat)
  | gleaner (cache line : Nat)
  | columnBufferDrain (core : Nat)
  | generationReclaim (ws gen : Nat)
  | faultReportDelivery (ctl : Nat)
  | tensorMoveAbandon (c : BitVec 12) (h : BitVec 8)
  | leaseExpiry (core line : Nat)
  | migrationDecision (c : BitVec 12) (h : BitVec 8)
  | bisnp (line : Nat)
  | splitMerge (gid lo hi : Nat)
  | timeTick
  deriving DecidableEq, Repr

/-- What such an event does: the meaning of its row. -/
def Auto.run : Auto → State → Result
  | .yieldWake gid e => execYieldWake gid e
  | .waitTableRetry gid e => execWaitTableRetry gid e
  | .splitHoldTimeout gid e => execSplitHoldTimeout gid e
  | .trapEntry gid => execTrapEntry gid
  | .parkingWake gid => execParkingWake gid
  | .parkingEscalation gid => execParkingEscalation gid
  | .thermalHoldPark gid => execThermalHoldPark gid
  | .yreqExpiry gid => execYreqExpiry gid
  | .groupEviction gid => execGroupEviction gid
  | .groupResume gid => execGroupResume gid
  | .gondola gid => execGondola gid
  | .groupEnd gid => execGroupEnd gid
  | .appendAccept rid => execAppendAccept rid
  | .writePerform rid => execWritePerform rid
  | .atomicPerform rid => execAtomicPerform rid
  | .loadResponse rid src => execLoadResponse rid src
  | .flashDefer rid => execFlashDefer rid
  | .engineCommandStart core k => execEngineCommandStart core k
  | .engineDelivery core k => execEngineDelivery core k 64
  | .engineRestartableFault core k => execEngineRestartableFault core k
  | .engineCommandEnd core k => execEngineCommandEnd core k
  | .launchDependencesMet ls => execLaunchDependencesMet ls
  | .gangPlacement ls => execGangPlacement ls
  | .controlCorePlacement ls => execControlCorePlacement ls
  | .preemption ls => execPreemption ls
  | .launchCompletion ls => execLaunchCompletion ls
  | .intervalCommit c => execIntervalCommit c
  | .rollback c => execRollback c
  | .intervalAgeExpiry c => execIntervalAgeExpiry c
  | .logShareThreshold c => execLogShareThreshold c
  | .rcfenceDrainEnd c j => execRcfenceDrainEnd c j
  | .matrixKstep core => execMatrixKstep core
  | .accstRowLand core row => execAccstRowLand core row
  | .matrixOpFault core => execMatrixOpFault core
  | .xacqGrant tid tiles => execXacqGrant tid tiles
  | .iredCommand cid line => execIredCommand cid line
  | .nbRowOperation pc => execNbRowOperation pc
  | .landingCloseComplete k => execLandingCloseComplete k
  | .landingPacketHoldExpiry k => execLandingPacketHoldExpiry k
  | .poolWriteCompletion rid => execPoolWriteCompletion rid
  | .fabricCompletionTimeout rid => execFabricCompletionTimeout rid
  | .gleaner cache line => execGleaner cache line
  | .columnBufferDrain core => execColumnBufferDrain core
  | .generationReclaim ws gen => execGenerationReclaim ws (BitVec.ofNat 16 gen)
  | .faultReportDelivery ctl => execFaultReportDelivery ctl
  | .tensorMoveAbandon c h => execTensorMoveAbandon c h
  | .leaseExpiry core line => execLeaseExpiry core line
  | .migrationDecision c h => execMigrationDecision c h
  | .bisnp line => execBisnp line
  | .splitMerge gid lo hi => execSplitMerge gid lo hi
  | .timeTick => execTimeTick

/-- What may happen to a group. -/
def groupEvents (g : Group) : List Auto :=
  let each := fun (p : Split → Bool) (f : Nat → Auto) => (List.range 4).filterMap fun e => match g.split e with
    | some x => if p x then some (f e) else none
    | none => none
  each (fun x => match x.wait with | .yield .. => true | _ => false) (.yieldWake g.gid) ++
  each (fun x => match x.wait with | .retryParked _ => true | _ => false) (.waitTableRetry g.gid) ++
  each (fun x => decide (65536 ≤ x.hold)) (.splitHoldTimeout g.gid) ++
  (if g.trap.isSome then [.trapEntry g.gid] else []) ++
  (if g.parking.isSome then [.parkingWake g.gid, .parkingEscalation g.gid] else []) ++
  (if g.yreq.getLsbD 63 then [.yreqExpiry g.gid] else []) ++
  (if g.forced then [.groupEviction g.gid] else []) ++
  (if g.place = .evicted then [.groupResume g.gid] else []) ++
  (if g.gmove.isSome then [.gondola g.gid] else []) ++
  (if g.live.isEmpty then [.groupEnd g.gid] else []) ++
  (g.log.filter fun e => flashCommand e.i).map fun e => .appendAccept e.seq

/-- What may happen to a request. -/
def reqEvents (r : Req) : List Auto :=
  match r.kind with
  | .store => [.writePerform r.rid]
  | .atomic => [.atomicPerform r.rid, .loadResponse r.rid .home]
  | .load => [.loadResponse r.rid .forward, .loadResponse r.rid .l1, .loadResponse r.rid .home, .flashDefer r.rid]

/-- What may happen to an engine command. -/
def cmdEvents (c : Command) : List Auto :=
  match c.st with
  | .queued => [.engineCommandStart c.core c.k]
  | .running => [.engineDelivery c.core c.k, .engineRestartableFault c.core c.k]
  | .held => []
  | .ending => [.engineCommandEnd c.core c.k]

/-- What may happen to a launch. -/
def launchEvents (l : Launch) : List Auto :=
  match l.st with
  | .waiting => [.launchDependencesMet l.slot]
  | .queued => [.gangPlacement l.slot, .controlCorePlacement l.slot, .preemption l.slot]
  | .running => [.launchCompletion l.slot, .gangPlacement l.slot, .controlCorePlacement l.slot, .preemption l.slot]
  | .ended => []

/-- What may happen to a context. -/
def ctxEvents (x : Ctx) : List Auto :=
  [.intervalCommit x.c, .rollback x.c, .intervalAgeExpiry x.c, .logShareThreshold x.c] ++
    (x.fencers.filter fun f => !f.ended).map fun f => .rcfenceDrainEnd x.c f.inc

/-- The report cores that have something to deliver. -/
def State.reportCores (s : State) : List Nat :=
  let of := fun (c : BitVec 12) => (s.ctx c).map fun x => 256 + x.report
  s.reports.map (·.ctl) ++ (s.eng.cmds.filter fun c => decide (c.st = .held) && !c.recorded).filterMap (fun c => of c.ctx) ++
    (s.groups.filter fun g => g.present && decide (g.mheld ≠ 0) && !g.mrec).filterMap fun g => of g.ctx

/-- The tensors whose move the migration engine may decide on now: those that ask to move at once, and 1 ms after its latest decision the auto ones (R337, R340). -/
def State.decisions (s : State) : List ResHandle :=
  s.fl.handles.filter fun h => h.live && (decide (h.placement ≠ 0) || decide (s.fl.decided.toNat + 1000000 ≤ s.dev.time.toNat)) && s.mayMove h.ctx h.idx

/-- The events that agents could bring about now, in the order the model tries them (log 4). -/
def State.agentEvents (s : State) : List Auto :=
  let gs := s.groups.filter Group.present
  gs.flatMap groupEvents ++ s.m.reqs.flatMap reqEvents ++
  gs.flatMap (fun g => if g.mqueue.isEmpty then [] else
    .matrixKstep g.core :: (List.range 16).map (fun r => .accstRowLand g.core (BitVec.ofNat 4 r)) ++ [.matrixOpFault g.core]) ++
  s.eng.cmds.flatMap cmdEvents ++
  s.teams.flatMap (fun t => (if t.queueR.isEmpty then [] else [.xacqGrant t.tid false]) ++ if t.queueT.isEmpty then [] else [.xacqGrant t.tid true]) ++
  s.eng.ired.flatMap (fun c => match c.lines with | [] => [.iredCommand c.cid 0] | l => l.map fun p => .iredCommand c.cid p.1) ++
  s.eng.nb.map (fun q => .nbRowOperation q.pc) ++
  s.eng.landings.map (fun x => .landingCloseComplete x.k) ++
  s.eng.held.map (fun p => .landingPacketHoldExpiry p.k) ++
  s.fab.poolWrites.flatMap (fun p => [.poolWriteCompletion p.rid, .fabricCompletionTimeout p.rid]) ++
  (s.m.keel.filter fun k => !k.dirty.isEmpty).map (fun k => .gleaner k.cache k.line) ++
  s.onchip.colbuf.map (fun u => .columnBufferDrain u.core) ++
  s.launches.flatMap launchEvents ++
  s.ctxs.flatMap ctxEvents ++
  s.fl.sets.flatMap (fun w => (w.recs.filter fun r => decide (r.gen ≠ w.cur)).map fun r => .generationReclaim w.ws r.gen) ++
  s.reportCores.map .faultReportDelivery ++
  (s.fl.moves.filter s.mustAbandon).map (fun v => .tensorMoveAbandon v.ctx (BitVec.ofNat 8 v.idx)) ++
  s.decisions.map (fun h => .migrationDecision h.ctx (BitVec.ofNat 8 h.idx)) ++
  (s.fab.snoops.filter fun x => x.answered.isNone).map (fun x => .bisnp x.line) ++
  (gs.filter fun g => !(s.heldSince g).isEmpty).map (fun g => .thermalHoldPark g.gid) ++
  (s.m.l1.filter fun x => decide (x.expiry ≤ s.dev.time)).map fun x => .leaseExpiry x.core x.line

/-- An event changes something now. -/
def State.changes (s : State) (e : Auto) : Bool :=
  match e.run s with
  | .next t => decide ({ t with fresh := s.fresh } ≠ s.wakeAll)
  | _ => false

/-- The event that happens next by itself, if any. -/
def State.auto (s : State) : Option Auto := s.agentEvents.find? s.changes

/-! ## The split that issues (R137, R138) -/

/-- The splits that may try to issue, with their groups. -/
def State.readySplits (s : State) : List (Group × Nat × Split) :=
  (s.groups.filter fun g => decide (g.place = .resident) && !s.lapsed g.core && g.trap.isNone && g.parking.isNone && !g.forced && !s.late g.yreq &&
      !(s.fw.halted && decide (g.core = mgmtCore))).flatMap fun g =>
    (List.range 4).filterMap fun e => match g.split e with
      | some x => if x.wait.tries && !x.wait.asleep && !g.held e && !g.sealingBut e then some (g, e, x) else none
      | none => none

/-- The issue slot of a group: on a compute core slot modulo 4 (R138), on a control core its one slot (R315). -/
def Group.issueSlot (g : Group) : Nat × Nat := (g.core, if g.onControl then 0 else g.slot % 4)

/-- The first pair of a list of comparisons that differ decides; the smaller wins. -/
def firstLess : List (Nat × Nat) → Bool
  | [] => false
  | (a, b) :: t => if a < b then true else if b < a then false else firstLess t

/-- R138: a split goes before another of its issue slot. -/
def goesBefore (a b : Group × Nat × Split) : Bool :=
  let old := fun (x : Group × Nat × Split) => decide (192 ≤ x.2.2.age)
  if old a then
    (if old b then firstLess [(b.2.2.age, a.2.2.age), (a.1.slot, b.1.slot), (a.2.1, b.2.1)] else true)
  else if old b then false
  else firstLess [(b.1.prio, a.1.prio), (a.1.started, b.1.started), (a.1.slot, b.1.slot), (a.2.2.pc.toNat, b.2.2.pc.toNat), (a.2.1, b.2.1)]

/-- The split goes on when it is tried now: its instruction issues, were it only to hold the split, or the one that holds it goes on (R133, R137). -/
def State.canIssue (s : State) (x : Group × Nat × Split) : Bool :=
  match s.runSplit x.1.gid x.2.1 with
  | .next t => (match (t.find x.1.gid).bind fun g => g.split x.2.1 with | some y => !y.wait.asleep || (y.wait.holds && !x.2.2.wait.holds) | none => true)
  | _ => false

/-- The split is ready (R137): its next instruction can issue; one that an instruction holds which has issued is not. -/
def State.isReady (s : State) (x : Group × Nat × Split) : Bool := !x.2.2.wait.holds && s.canIssue x

/-- The splits of an issue slot that may try to issue, but for those that its cycle does not accept. -/
def State.slotSplits (s : State) (k : Nat × Nat) (busy : List (Nat × Nat)) : List (Group × Nat × Split) :=
  s.readySplits.filter fun x => decide (x.1.issueSlot = k) && !busy.contains (x.1.gid, x.2.1)

/-- The split of a list that R138 puts first. -/
def firstSplit : List (Group × Nat × Split) → Option (Group × Nat × Split)
  | [] => none
  | x :: t => match firstSplit t with
    | none => some x
    | some y => some (if goesBefore y x then y else x)

/-- The split that an issue slot tries in a cycle: of its ready ones the first by R138, where none is ready the first that still has to find that out. -/
def State.slotPick (s : State) (k : Nat × Nat) (busy : List (Nat × Nat)) : Option (Nat × Nat) :=
  let pick := match s.slotSplits k busy with
    | [x] => some x
    | xs => (firstSplit (xs.filter s.canIssue)).or (firstSplit xs)
  pick.map fun x => (x.1.gid, x.2.1)

/-- The split that issues next: the issue slots with a split that may try take turns (log 4), R138 chooses within one. -/
def State.readySplit (s : State) : Option (Nat × Nat) :=
  let slots := (s.readySplits.map fun x => x.1.issueSlot).eraseDups
  slots[s.seq % max 1 slots.length]?.bind fun k => s.slotPick k []

/-- The split that a cycle of the issue slot of a named split issues; the named one where that slot has nothing to try. -/
def State.slotCycle (s : State) (gid e : Nat) (busy : List (Nat × Nat)) : Nat × Nat :=
  match s.find gid with
  | none => (gid, e)
  | some g => (s.slotPick g.issueSlot busy).getD (gid, e)

/-- The other ready splits of an issue slot grow older as one issues (R137, R138); the counter has 9 bits (R348). -/
def State.aged (s : State) (gid e : Nat) (busy : List (Nat × Nat)) : State :=
  match s.find gid with
  | none => s
  | some g =>
    let others := (s.slotSplits g.issueSlot busy).filter fun x => !(decide (x.1.gid = gid) && decide (x.2.1 = e))
    let own := s.readySplits.find? fun x => decide (x.1.gid = gid) && decide (x.2.1 = e)
    if others.isEmpty || !own.any s.isReady then s
    else (others.filter s.isReady).foldl (fun s x => s.onGroup x.1.gid fun g => g.onSplit x.2.1 fun y => { y with age := min 511 (y.age + 1) }) s

/-! ## What happens next -/

/-- A lapse that is asked for waits until the groups of its tile have drained (R411). -/
def State.mustDrain (s : State) (e : Instr) : Bool :=
  let on := fun (core : Nat) => decide (core < 256) && !s.lapsed core && !s.lapseReady core
  match e with
  | .announcedLapse core => on core
  | .unannouncedLapse core ok _ => ok && s.charged core && on core
  | .junctionTrip q t core => on core && decide (quarterOf core = q.toNat) && (match s.quarters[q.toNat]? with | some x => decide (x.gate ≤ t) | none => false)
  | .quarterPowerLimit q core => on core && decide (quarterOf core = q.toNat) && (match s.quarters[q.toNat]? with | some x => x.lowered | none => false)
  | _ => false

/-- What the machine does in one step, and the inputs that are left. -/
inductive Choice where
  | event (e : Instr) (rest : List Input)
  | auto (a : Auto) (rest : List Input)
  | issue (gid entry : Nat) (busy : List (Nat × Nat)) (rest : List Input)
  | skip (rest : List Input)
  | firmware (x : Setting) (rest : List Input)
  deriving DecidableEq, Repr

/-- An event of the machine's own, or a tick. -/
def State.autoOrTick (s : State) : Auto := s.auto.getD .timeTick

/-- With no input: an event that can happen, else an issue, else a tick; TIME also ticks at every fourth value of the counter, so that no
program that spins can stop it (log 8). -/
def State.unasked (s : State) : Choice :=
  if s.fresh % 4 = 3 then .auto .timeTick [] else
  match s.auto with
  | some e => .auto e []
  | none =>
    match s.readySplit with
    | some (gid, e) => .issue gid e [] []
    | none => .auto .timeTick []

/-- A stopped module waits for its reset (R346). -/
def State.stoppedChoice (s : State) : Choice :=
  match s.inputs with
  | .event (.moduleReset ok v) :: rest => .event (.moduleReset ok v) rest
  | _ :: rest => .skip rest
  | [] => .auto .timeTick []

/-- What the first input asks for; a lapse waits for its tile to drain. -/
def State.inputChoice (s : State) : Choice :=
  match s.inputs with
  | [] => s.unasked
  | .firmware x :: rest => .firmware x rest
  | .issue gid e busy :: rest => .issue (s.slotCycle gid e busy).1 (s.slotCycle gid e busy).2 busy rest
  | .event e :: rest =>
    if !e.isEvent then .skip rest
    else if s.mustDrain e then .auto s.autoOrTick s.inputs
    else .event e rest

/-- What happens next: merges that are due come first (R133), then the inputs. -/
def State.choice (s : State) : Choice :=
  if s.fw.stopped then s.stoppedChoice
  else
    match s.mergeDue with
    | some (gid, lo, hi) => .auto (.splitMerge gid lo hi) s.inputs
    | none => s.inputChoice

/-- The one instruction that a group issues in the cycle in which a request to it expires is its last (R123). -/
def State.endCycle (s : State) (gid : Nat) (last : Bool) : State :=
  if last then s.onGroup gid fun g => { g with forced := true } else s

/-- A cycle of an issue slot in which a split tries its next instruction. -/
def State.issueCycle (s : State) (gid e : Nat) : Result :=
  let last := match s.find gid with | some g => s.expired g.yreq | none => false
  match s.runSplit gid e with
  | .next t => .next (t.endCycle gid last)
  | r => r

/-- A choice is carried out. -/
def State.perform (s : State) : Choice → Result
  | .event e rest => exec e { s with inputs := rest }
  | .auto a rest => a.run { s with inputs := rest }
  | .issue gid e busy rest => (({ s with inputs := rest } : State).aged gid e busy).issueCycle gid e
  | .skip rest => .next { s with inputs := rest }
  | .firmware x rest => ({ s with inputs := rest } : State).setting x

end Sys2Proof.Machine
end

