-- ==== Sys2Proof/Machine/Step.lean ====
section
/-!
DEFINITION. Sys2Proof/Machine/Step.lean: one step of the machine, and the placing of one instruction where a step fetches it.
-/

namespace Sys2Proof.Machine

open Sys2Proof

/-- One step: what happens next (Machine/Schedule.lean), as the dirty bits of the images see it (R410). -/
def step (s : State) : Host.Outcome State Fault Refusal :=
  match s.perform s.choice with
  | .next t => .next t.noteFrames
  | r => r

/-- Where the split in focus fetches its next instruction, if it may issue. -/
def State.fetchPlace (s : State) : Option Nat :=
  if (s.g.split s.entry).isNone || !s.mayIssue || s.fw.stopped || s.mergeDue.isSome then none
  else
    match s.translate s.g.asker .exec s.cur.pc with
    | (s1, .ok pa _) => if s1.fetchWaits pa then none else some pa
    | _ => none

/-- The bytes of an instruction at a physical address; no core holds the line. -/
def State.placeWord (s : State) (pa : Nat) (v : Nat) : State :=
  let m1 := s.m.putHome false pa 4 v
  { s with m := { m1 with icache := m1.icache.filter fun x => decide (x.line ≠ lineOf pa) } }

/-- The launch that stands for a program loaded from outside (log 3): one team of one group, in slot 0. -/
def loaderLaunch : Launch :=
  { slot := 0, sequ := 1, st := .running, fault := false, free := false, packet := Store.putLE [] 8 4 1, ctx := 0, inc := 0, order := 0, placed := 1,
    ended := 0, wgen := 0, endedIn := 0, victims := [], vcores := [] }

/-- Its team. -/
def loaderTeam (tid : Nat) : Team :=
  { tid := tid, ls := 0, tidx := 0, core := 0, ctx := 0, base := 0, size := 0, xregs := 0, xtiles := 0, queueR := [], queueT := [], cursor := 0,
    gens := [], migrated := false, swapped := false, image := [], imageTags := [] }

/-- Its group: 32 lanes at address 0, at SYS, on core 0. -/
def loaderGroup (gid tid : Nat) : Group :=
  { Group.absent with
    gid := gid, place := .resident, tid := tid, stat := 1#32,
    splits := [some { Split.init with mask := BitVec.allOnes 32 }, none, none, none] }

/-- A program loaded into a machine that has no split to issue: the launch, team and group of a one-group kernel of context 0, whose table maps
virtual address 0 to 1 GiB of HBM4E, every right given, A and D set. -/
def State.loaded (s : State) : State :=
  let tables := [(0x1000, 0x2001), (0x2000, 0x3001), (0x3000, 0x0080000040000000 + 0xCF)]
  let mem := tables.foldl (fun (m : MemSys) p => m.putHome false p.1 8 p.2) s.m
  ((({ s with m := mem, fw := { s.fw with stopped := false }, launches := s.launches.filter (fun l => decide (l.slot ≠ 0)) ++ [loaderLaunch],
              teams := s.teams ++ [loaderTeam (s.seq + 1)], seq := s.seq + 2, entry := 0 } : State).onCtx 0#12 fun x =>
    { x with cur := 0, live := true, root := 0x1000 }).addGroup (loaderGroup (s.seq + 2) (s.seq + 1))).focus (s.seq + 2) 0

/-- The splits other than the one in focus that might issue before it: in the step that a program is placed for they are not accepted. -/
def State.otherSplits (s : State) : List (Nat × Nat) :=
  (s.readySplits.map fun x => (x.1.gid, x.2.1)).filter fun x => decide (x ≠ (s.g.gid, s.entry))

/-- The instruction whose `nbits` low bits are `w` stands where the next step fetches: at the PC of the split in focus, or, where no split can issue
(as after reset), at the first address of a program loaded from outside (log 3). The next step issues that split. -/
def State.withFetchWord (s : State) (nbits w : Nat) : State :=
  let v := w % 2 ^ nbits % 2 ^ 32
  match s.fetchPlace with
  | some pa => { s.placeWord pa v with inputs := .issue s.g.gid s.entry s.otherSplits :: s.inputs }
  | none => { s.loaded.placeWord 0x40000000 v with inputs := .issue (s.seq + 2) 0 s.otherSplits :: s.inputs }

end Sys2Proof.Machine
end

