-- ==== Sys2Proof/Safety.lean ====
section
/-!
DEFINITION. Sys2Proof/Safety.lean: what counts as a safe run, and the words the claims are stated in: what an instruction wrote, what it left
as it was, and the canonical form of memory.
-/

namespace Sys2Proof.Machine

open Sys2Proof

/-! ## Safe runs -/

/-- The machine goes on: a step answers a next state, not a fault and not a refusal. -/
def Continues (s : State) : Prop := ∃ t, step s = .next t

/-- The states that steps lead to. -/
inductive Reaches (s : State) : State → Prop where
  | start : Reaches s s
  | more {t u : State} : Reaches s t → step t = .next u → Reaches s u

/-- A safe run: the machine goes on from every state the run comes to. -/
def Safe (s : State) : Prop := ∀ t, Reaches s t → Continues t

/-- The byte memories in canonical form: DRAM, flash and pool; scratchpads; column memories; chip scratchpads; operand buffers. -/
structure Canonical (s : State) : Prop where
  memory : Store.wf s.m.mem = true
  scratch : Store.wf s.onchip.scratch = true
  column : Store.wf s.onchip.column = true
  chip : Store.wf s.onchip.chip = true
  opbuf : Store.wf s.onchip.opbuf = true

/-! ## What an instruction wrote -/

/-- The value of place `p` in lane `l` after the lanes of `m` were written with `f` over `g`: a vector register takes each lane's value, a
uniform register that of the lowest lane (R23, R25). -/
def afterWrite (g : Group) (p : Nat) (m : W32) (f : Nat → W32) (l : Nat) : W32 :=
  if p < 1024 then (if m.getLsbD l then f l else g.getPlace p l)
  else match lowest m with
    | some k => f k
    | none => g.getPlace p l

/-- Between `u` and `t` the destination `d` was written in the lanes of `m` with `f`. With d = z there is nothing to hold (R23). -/
def WroteIn (u t : State) (d : Reg) (m : W32) (f : Nat → W32) : Prop :=
  ∀ p, u.g.regPlace d = some p → ∀ l, l < 32 → t.g.getPlace p l = afterWrite u.g p m f l

/-- The same in the GUARD lanes. -/
def Wrote (u t : State) (d : Reg) (f : Nat → W32) : Prop := WroteIn u t d u.grd f

/-- The pair d, d + 1 was written in the lanes of `m` with the low and high words of `f`, where its registers are two places (R26). -/
def WroteIn64 (u t : State) (d : Reg) (m : W32) (f : Nat → W64) : Prop :=
  d ≠ 63#6 → u.g.regPlace d ≠ u.g.regPlace (d + 1#6) →
    WroteIn u t d m (fun l => (f l).setWidth 32) ∧ WroteIn u t (d + 1#6) m fun l => (f l >>> 32).setWidth 32

/-- The same in the GUARD lanes. -/
def Wrote64 (u t : State) (d : Reg) (f : Nat → W64) : Prop := WroteIn64 u t d u.grd f

/-- An integer result of the element type of `u`: a pair for a 64-bit type, else one register with the low 32 bits (R45). -/
def WroteElt (u t : State) (d : Reg) (f : Nat → W64) : Prop :=
  if u.w = 64 then Wrote64 u t d f else Wrote u t d fun l => (f l).setWidth 32

/-- Predicate `p` holds `f` in the GUARD lanes of `u` and is as it was in the others; p0 stays 1 (R27). -/
def WroteP (u t : State) (p : BitVec 3) (f : Nat → Bool) : Prop :=
  ∀ l, l < 32 → (t.g.pred p).getLsbD l =
    if p = 0#3 then true else if u.grd.getLsbD l then f l else (u.g.pred p).getLsbD l

/-- The element of a register field in a lane: its w bits (R45, R69). -/
def State.el (s : State) (r : Reg) (l : Nat) : BitVec s.w := BitVec.ofNat s.w (s.raw r l)

/-- An element as an integer of the type (R45). -/
def State.intOf (s : State) (v : BitVec s.w) : Int := if s.sg then v.toInt else (v.toNat : Int)

/-- A register operand as an integer of the type (R69). -/
def State.num (s : State) (r : Reg) (l : Nat) : Int := s.intOf (s.el r l)

/-- The smallest and the largest integer of a type (R45). -/
def rangeOf (sg : Bool) (w : Nat) : Int × Int := if sg then (-(2 : Int) ^ (w - 1), (2 : Int) ^ (w - 1) - 1) else (0, (2 : Int) ^ w - 1)

/-- FIT (R46): the low w bits, or with MODE[12] set the value clamped to the type. -/
def State.fitted (s : State) (x : Int) : BitVec s.w :=
  let r := rangeOf s.sg s.w
  BitVec.ofInt s.w (if s.md.getLsbD 12 then max r.1 (min r.2 x) else x)

/-- An element extended to 64 bits, with its sign for a signed type (R45). -/
def State.widen (s : State) (v : BitVec s.w) : W64 := if s.sg then v.signExtend 64 else v.setWidth 64

/-! ## What an instruction left as it was -/

/-- A split without its wait. -/
def Split.still (x : Split) : Split := { x with wait := .none }

/-- A group without the waits of its splits. -/
def Group.still (g : Group) : Group := { g with splits := g.splits.map fun (o : Option Split) => o.map Split.still }

/-- The device registers but the event counters (R445). -/
def Device.uncounted (d : Device) : Device := { d with evcnt := [] }

/-- The checkpoint records but what they note of a core that runs a context (R426, R431). -/
def Ckpt.unrun (k : Ckpt) : Ckpt := { k with ran := [], cores := [] }

/-- A group but for its registers, predicates, split table and scoreboard (windows and owed writes). -/
def Group.outer (g : Group) : Group := { g with vregs := [], uregs := [], preds := [], splits := [], wins := [], owed := [] }

/-- Everything outside the issuing group is as it was: memory, the on-chip memories, engines, flash, contexts, teams, launches, the other groups
(but for the waits that issue wakes), and the device registers but the event counters (R445). What a checkpoint notes of a core that
runs a context (R426, R431) is left out. -/
structure KeepsRest (u t : State) : Prop where
  others : t.others.map Group.still = u.others.map Group.still
  entry : t.entry = u.entry
  teams : t.teams = u.teams
  launches : t.launches = u.launches
  onchip : t.onchip = u.onchip
  memory : t.m = u.m
  engines : t.eng = u.eng
  flash : t.fl = u.fl
  contexts : t.ctxs = u.ctxs
  device : t.dev.uncounted = u.dev.uncounted
  quarters : t.quarters = u.quarters
  firmware : t.fw = u.fw
  fabric : t.fab = u.fab
  reports : t.reports = u.reports
  checkpoints : t.ck.unrun = u.ck.unrun
  inputs : t.inputs = u.inputs

/-- Everything of the issuing group but its registers, predicates, split table and scoreboard (windows and owed writes) is as it was: MODE, STAT,
the window state, the banks, stamps, tiles, latch, queues, pins, tickets and requests of every kind. -/
def KeepsGroup (u t : State) : Prop := t.g.outer = u.g.outer

/-- Every register but those at the places of `ps` is as it was, in every lane. -/
def KeepsRegs (u t : State) (ps : List Nat) : Prop := ∀ p l, l < 32 → p ∉ ps → t.g.getPlace p l = u.g.getPlace p l

/-- The places of a register field, or of a pair. -/
def State.places (s : State) (d : Reg) (wide : Bool) : List Nat := (s.g.dst d wide).places

/-- Every predicate is as it was. -/
def KeepsPreds (u t : State) : Prop := t.g.preds = u.g.preds

/-- The issuing split goes on at `pc` with its lanes and its mode state; the other splits are as they were, but for a hold that this ends (R132) and
the waits that issue wakes. -/
def GoesTo (u t : State) (pc : W64) : Prop :=
  (t.g.split u.entry).map (fun x => (x.pc, x.mask, x.ms)) = (u.g.split u.entry).map (fun x => (pc, x.mask, x.ms)) ∧
  ∀ e, e ≠ u.entry → (t.g.split e).map (fun x => (x.pc, x.mask, x.ms)) = (u.g.split e).map (fun x => (x.pc, x.mask, x.ms))

/-- The issuing split goes on at the next word (R19). -/
def GoesOn (u t : State) : Prop := GoesTo u t (u.cur.pc + 4#64)

/-- Lane `l` stands at `pc` in a split or in a parked set of the group (R129, R134). -/
def Group.At (g : Group) (l : Nat) (pc : W64) : Prop :=
  (∃ e x, g.split e = some x ∧ x.mask.getLsbD l = true ∧ x.pc = pc) ∨ ∃ p ∈ g.parked, p.mask.getLsbD l = true ∧ p.pc = pc

/-- Lane `l` stands at `pc` in a split other than entry `e`, or in a parked set. -/
def Group.Elsewhere (g : Group) (e l : Nat) (pc : W64) : Prop :=
  (∃ k x, k ≠ e ∧ g.split k = some x ∧ x.mask.getLsbD l = true ∧ x.pc = pc) ∨ ∃ p ∈ g.parked, p.mask.getLsbD l = true ∧ p.pc = pc

/-- Each active lane goes on where `goal` says, a lane it gives nothing has ended, and the lanes of other splits and of parked sets stand where they stood,
whatever entries hold them (R130, R134, R135); and nothing but the split table and the overflow set changed. -/
structure MovesLanes (u t : State) (goal : Nat → Option W64) : Prop where
  rest : KeepsRest u t
  group : t.g.outer = { u.g.outer with parked := t.g.parked }
  regs : KeepsRegs u t []
  preds : KeepsPreds u t
  lanes : ∀ l pc, l < 32 → (t.g.At l pc ↔ u.g.Elsewhere u.entry l pc ∨ (u.act.getLsbD l = true ∧ goal l = some pc))

/-- A register instruction left everything as it was but the registers at `ps` and its own place in the program. -/
structure OnlyWrote (u t : State) (ps : List Nat) : Prop where
  rest : KeepsRest u t
  group : KeepsGroup u t
  regs : KeepsRegs u t ps
  preds : KeepsPreds u t
  next : GoesOn u t

/-! ## What an instruction computes -/

/-- The places an element of the type is written to: one register, or the pair of a 64-bit type (R45). -/
def State.eltPlaces (s : State) (d : Reg) : List Nat := s.places d (decide (s.w = 64))

/-- Where it issues and `ok` holds, instruction `i` writes the elements `f` to `d` in the GUARD lanes and nothing else, and its split goes on at the next
word. `f` and `ok` see the state at issue. -/
def ComputesElt (i : Instr) (s : State) (d : Reg) (ok : State → Bool) (f : (u : State) → Nat → BitVec u.w) : Prop :=
  s.issues i = true → ok (s.start i) = true →
    ∃ t, exec i s = .next t ∧ OnlyWrote s t ((s.start i).eltPlaces d) ∧ WroteElt (s.start i) t d fun l => (s.start i).widen (f (s.start i) l)

/-- The same with one 32-bit register. -/
def Computes32 (i : Instr) (s : State) (d : Reg) (ok : State → Bool) (f : State → Nat → W32) : Prop :=
  s.issues i = true → ok (s.start i) = true →
    ∃ t, exec i s = .next t ∧ OnlyWrote s t ((s.start i).places d false) ∧ Wrote (s.start i) t d (f (s.start i))

/-- The same with a 64-bit pair. -/
def Computes64 (i : Instr) (s : State) (d : Reg) (ok : State → Bool) (f : State → Nat → W64) : Prop :=
  s.issues i = true → ok (s.start i) = true →
    ∃ t, exec i s = .next t ∧ OnlyWrote s t ((s.start i).places d true) ∧ Wrote64 (s.start i) t d (f (s.start i))

/-- The same with register bits that are copied, a pair of a 64-bit type and else one register, without extension (R80, R99). -/
def ComputesBits (i : Instr) (s : State) (d : Reg) (ok : State → Bool) (f : State → Nat → W64) : Prop :=
  s.issues i = true → ok (s.start i) = true →
    ∃ t, exec i s = .next t ∧ OnlyWrote s t ((s.start i).eltPlaces d) ∧ WroteElt (s.start i) t d (f (s.start i))

/-- The register bits of a field in a lane: the pair for a 64-bit type, else one register. -/
def State.bitsAt (s : State) (r : Reg) (l : Nat) : W64 := if s.w = 64 then s.rd64 r l else (s.rd r l).setWidth 64

/-- Where it issues and `ok` holds, instruction `i` writes predicate `p` in the GUARD lanes and nothing else (R27). -/
def ComputesP (i : Instr) (s : State) (p : BitVec 3) (ok : State → Bool) (f : State → Nat → Bool) : Prop :=
  s.issues i = true → ok (s.start i) = true →
    ∃ t, exec i s = .next t ∧ KeepsRest s t ∧ KeepsGroup s t ∧ KeepsRegs s t [] ∧ GoesOn s t ∧
      WroteP (s.start i) t p (f (s.start i)) ∧ ∀ q, q ≠ p → t.g.pred q = s.g.pred q

/-- The fields are pairs where the element type has 64 bits (R26, R68). -/
def pairs (rs : List Reg) (s : State) : Bool := s.pairsOk rs

/-- The element type is a floating-point one, and the fields are pairs where it has 64 bits (R68). -/
def floats (rs : List Reg) (s : State) : Bool := s.isFloat && s.pairsOk rs

/-- No condition. -/
def always (_ : State) : Bool := true

/-- The integer that an integral value is; 0 for NaN and the infinities. -/
def FVal.whole : FVal → Int
  | .fin n m e => (if n then -1 else 1) * ((m * 2 ^ e.toNat : Nat) : Int)
  | _ => 0

/-- The magnitude of a value. -/
def FVal.abs : FVal → FVal
  | .fin _ m e => .fin false m e
  | .inf _ => .inf false
  | .nan => .nan

/-- R93's table where it gives a result: of FRCP, FRSQ, FSQRT, FEXP2, FLOG2, FSIN and FCOS (0 to 6) for −∞, −0, +0, +∞ and NaN, and for the negative numbers
that have no root or logarithm. -/
def FFmt.special (F : FFmt) (r : Rnd) (fn : Nat) : FVal → Option Nat
  | .nan => some F.canonical
  | .inf n => some (
    match fn with
    | 0 => F.pack n 0
    | 1 => if n then F.canonical else 0
    | 2 => if n then F.canonical else F.infMag
    | 3 => if n then 0 else F.infMag
    | 4 => if n then F.canonical else F.infMag
    | _ => F.canonical)
  | .fin n m _ =>
    if m = 0 then some (
      match fn with
      | 0 => F.pack n F.infMag
      | 1 => F.pack n F.infMag
      | 2 => F.pack n 0
      | 4 => F.pack true F.infMag
      | 5 => F.pack n 0
      | _ => F.rnd r false (.fin false 1 0))
    else if n = true ∧ (fn = 1 ∨ fn = 2 ∨ fn = 4) then some F.canonical
    else none

/-! ## Names -/

/-- What a group, or a bank of it, logs and owes has a name given so far. -/
def Group.NamedUpTo (g : Group) (n : Nat) : Prop :=
  (∀ x ∈ g.log, x.seq ≤ n ∧ x.pend ≠ 0#32) ∧ (∀ o ∈ g.owed, o.id ≤ n) ∧
    ∀ b, (∀ x ∈ (g.bankOf b).log, x.seq ≤ n ∧ x.pend ≠ 0#32) ∧ ∀ o ∈ (g.bankOf b).owed, o.id ≤ n

/-- Names are given in rising order. No group, resident, evicted or kept in a boundary image or a sealed image, logs or owes under a name not yet given, and what it
logs has a lane pending. Every group has a name of its own. A boundary image keeps groups of its context under names of their own, which no group and no image of
another context has. -/
structure NamesGiven (s : State) : Prop where
  logged : ∀ g, (g = s.g ∨ g ∈ s.others ∨ (∃ b ∈ s.ck.bounds, g ∈ b.groups) ∨ ∃ x ∈ s.ck.images, x.snapG = some g) → g.NamedUpTo s.seq
  given : ∀ g ∈ s.groups, g.gid ≤ s.seq
  apart : ((s.groups.filter fun g => g.present).map fun g => g.gid).Nodup
  kept : ∀ b ∈ s.ck.bounds, (b.groups.map fun g => g.gid).Nodup ∧ ∀ g ∈ b.groups, g.present = true ∧ g.ctx = b.c ∧ g.gid ≤ s.seq ∧
    ∀ x ∈ s.groups, x.present = true → x.gid = g.gid → x.ctx = b.c
  disjoint : ∀ a ∈ s.ck.bounds, ∀ b ∈ s.ck.bounds, a.c ≠ b.c → ∀ g ∈ a.groups, ∀ h ∈ b.groups, g.gid ≠ h.gid

/-- Memory alone holds the line of a place: no slice of L2 has it, the directory lists no agent for it, and it is not of the checkpoint store (R421). -/
structure Bare (s : State) (pa : Nat) : Prop where
  store : inStore pa = false
  agents : s.m.dirOf (lineOf pa) = none
  slice : s.m.l2Line (lineOf pa) = none

/-- The home of a place, where the page has MS or not, takes a write as it stands: no agent holds the line, no slice of L2 one of a page with MS, and it is not of the
checkpoint store. -/
structure AtHome (s : State) (ms : Bool) (pa : Nat) : Prop where
  store : inStore pa = false
  agents : s.m.dirOf (lineOf pa) = none
  slice : inL2 ms pa = false → s.m.l2Line (lineOf pa) = none

/-- Nothing tagged (c, j) is left anywhere in the device (R360, R364): no request, engine command, near-bank sequence, IRED command, landing, packet, outside write on its
way, pool write without its completion, or dirty word of a staging cache. -/
structure NothingLeft (s : State) (c : BitVec 12) (j : BitVec 8) : Prop where
  requests : ∀ r ∈ s.m.reqs, ¬(r.ctx = c ∧ r.inc = j)
  commands : ∀ r ∈ s.eng.cmds, ¬(r.ctx = c ∧ r.inc = j)
  sequences : ∀ r ∈ s.eng.nb, ¬(r.ctx = c ∧ r.inc = j)
  reductions : ∀ r ∈ s.eng.ired, ¬(r.ctx = c ∧ r.inc = j)
  landings : ∀ r ∈ s.eng.landings, ¬(r.ctx = c ∧ r.inc = j)
  packets : ∀ r ∈ s.eng.held, ¬(r.ctx = c ∧ r.inc = j)
  deliveries : ∀ r ∈ s.fab.deliveries, ¬(r.ctx = c ∧ r.inc = j)
  pool : ∀ r ∈ s.fab.poolWrites, ¬(r.ctx = c ∧ r.inc = j)
  dirty : ∀ k ∈ s.m.keel, ∀ r ∈ k.dirty, ¬(r.ctx = c ∧ r.inc = j)

/-- No other group goes by the name of a group. -/
def State.isOnly (s : State) (g : Group) : Prop := ∀ x ∈ s.groups, x.present = true → x.gid = g.gid → x = g

/-! ## Events -/

/-- The machine as an event meets it: splits that waited for something to happen try again, and the next free value is at hand. -/
def State.met (s : State) : State := { s.wakeAll with fresh := s.fresh + 1 }

/-- Where `i` issues and `go` holds: with an issuing lane `n` it answers a next state of which `P u t n` holds, where `u` is the machine at issue; without one
only the program goes on. -/
def ActsOnce (i : Instr) (s : State) (go : State → Bool) (P : State → State → Nat → Prop) : Prop :=
  s.issues i = true → go (s.start i) = true → (s.issuer = none → ∃ t, exec i s = .next t ∧ OnlyWrote s t []) ∧
    ∀ n, s.issuer = some n → ∃ t, exec i s = .next t ∧ P (s.start i) t n

/-! ## Traps -/

/-- The group in focus entered its handler with trap `r` (R351): the state is the trap entry of `u`, or, while accesses are outstanding, the entry waits and
the group is stopped with the trap noted. -/
def Trapped (u t : State) (r : TrapReport) : Prop :=
  t = if u.g.trap.isSome then u else if u.quiet then u.trapEntry r else u.onG fun g => { g with trap := some r }

/-- The trap of a decode or issue check of instruction `i` at a state (R352). -/
def State.checkTrap (s : State) (i : Instr) (cause : Nat) (val : W64) : TrapReport :=
  { cause := cause, async := false, val := val, ins := encode i, fmask := s.act, wdet := 0, logged := none, entry := s.entry }

end Sys2Proof.Machine
end

