-- ==== Sys2Proof/Certificates/Slice0/Obligations.lean ====
section
/-!
DEFINITION. Sys2Proof/Certificates/Slice0/Obligations.lean: the statements for the provers, in the words of Safety.lean.
-/

open Sys2Proof Sys2Proof.Machine

/-! ## Integer, address and floating-point instructions (R67–R95) -/

/-- R72: each of ADD, SUB, MUL, MULH, MAD, MIN, MAX, ABS and ADDI computes an exact result over the integers under T and writes FIT of it where GUARD
holds (MULH: the result itself); with the encodings R72 gives. -/
def Obligations.IntegerArithmetic : Prop := ∀ (s : State) (d a b : Reg) (imm : BitVec 13),
  ComputesElt (.add d a b) s d (pairs [d, a, b]) (fun u l => u.fitted (u.num a l + u.num b l)) ∧
  ComputesElt (.sub d a b) s d (pairs [d, a, b]) (fun u l => u.fitted (u.num a l - u.num b l)) ∧
  ComputesElt (.mul d a b) s d (pairs [d, a, b]) (fun u l => u.fitted (u.num a l * u.num b l)) ∧
  ComputesElt (.mulh d a b) s d (pairs [d, a, b]) (fun u l => BitVec.ofInt u.w (u.num a l * u.num b l / 2 ^ u.w)) ∧
  ComputesElt (.mad d a b) s d (pairs [d, a, b]) (fun u l => u.fitted (u.num a l * u.num b l + u.num d l)) ∧
  ComputesElt (.min d a b) s d (pairs [d, a, b]) (fun u l => if u.num a l ≤ u.num b l then u.el a l else u.el b l) ∧
  ComputesElt (.max d a b) s d (pairs [d, a, b]) (fun u l => if u.num a l ≤ u.num b l then u.el b l else u.el a l) ∧
  ComputesElt (.abs d a) s d (pairs [d, a]) (fun u l => u.fitted (if u.num a l < 0 then - u.num a l else u.num a l)) ∧
  ComputesElt (.addi d a imm) s d (pairs [d, a]) (fun u l => u.fitted (u.num a l + imm.toInt)) ∧
  encode (.add d a b) = (0x01#7 ++ d ++ a ++ b ++ 0x00#7 : BitVec 32) ∧ encode (.sub d a b) = (0x01#7 ++ d ++ a ++ b ++ 0x01#7 : BitVec 32) ∧
  encode (.mul d a b) = (0x01#7 ++ d ++ a ++ b ++ 0x03#7 : BitVec 32) ∧ encode (.mulh d a b) = (0x01#7 ++ d ++ a ++ b ++ 0x04#7 : BitVec 32) ∧
  encode (.mad d a b) = (0x01#7 ++ d ++ a ++ b ++ 0x05#7 : BitVec 32) ∧ encode (.min d a b) = (0x01#7 ++ d ++ a ++ b ++ 0x08#7 : BitVec 32) ∧
  encode (.max d a b) = (0x01#7 ++ d ++ a ++ b ++ 0x09#7 : BitVec 32) ∧ encode (.abs d a) = (0x01#7 ++ d ++ a ++ 0#6 ++ 0x0A#7 : BitVec 32) ∧
  encode (.addi d a imm) = (0x02#7 ++ d ++ a ++ imm : BitVec 32)

/-- R73: DIV and REM truncate toward zero and never trap; division by zero, and the smallest value by −1, as the table gives them. -/
def Obligations.IntegerDivision : Prop := ∀ (s : State) (d a b : Reg),
  ComputesElt (.div d a b) s d (pairs [d, a, b]) (fun u l =>
    let r := rangeOf u.sg u.w
    let A := u.num a l
    let B := u.num b l
    if B = 0 then BitVec.ofInt u.w (if u.sg = true ∧ A < 0 then r.1 else r.2)
    else if u.sg = true ∧ A = r.1 ∧ B = -1 then BitVec.ofInt u.w (if u.md.getLsbD 12 then r.2 else r.1)
    else BitVec.ofInt u.w (A.tdiv B)) ∧
  ComputesElt (.rem d a b) s d (pairs [d, a, b]) (fun u l =>
    if u.num b l = 0 then u.el a l else BitVec.ofInt u.w (u.num a l - (u.num a l).tdiv (u.num b l) * u.num b l)) ∧
  encode (.div d a b) = (0x01#7 ++ d ++ a ++ b ++ 0x06#7 : BitVec 32) ∧ encode (.rem d a b) = (0x01#7 ++ d ++ a ++ b ++ 0x07#7 : BitVec 32)

/-- R75: the logic instructions compute bitwise on w-bit values; an immediate is zero-extended to w bits. -/
def Obligations.LogicInstructions : Prop := ∀ (s : State) (d a b : Reg) (imm : BitVec 13),
  ComputesElt (.and d a b) s d (pairs [d, a, b]) (fun u l => u.el a l &&& u.el b l) ∧
  ComputesElt (.or d a b) s d (pairs [d, a, b]) (fun u l => u.el a l ||| u.el b l) ∧
  ComputesElt (.xor d a b) s d (pairs [d, a, b]) (fun u l => u.el a l ^^^ u.el b l) ∧
  ComputesElt (.andn d a b) s d (pairs [d, a, b]) (fun u l => u.el a l &&& ~~~(u.el b l)) ∧
  ComputesElt (.orn d a b) s d (pairs [d, a, b]) (fun u l => u.el a l ||| ~~~(u.el b l)) ∧
  ComputesElt (.andi d a imm) s d (pairs [d, a]) (fun u l => u.el a l &&& imm.setWidth u.w) ∧
  ComputesElt (.ori d a imm) s d (pairs [d, a]) (fun u l => u.el a l ||| imm.setWidth u.w) ∧
  ComputesElt (.xori d a imm) s d (pairs [d, a]) (fun u l => u.el a l ^^^ imm.setWidth u.w) ∧
  encode (.and d a b) = (0x01#7 ++ d ++ a ++ b ++ 0x10#7 : BitVec 32) ∧ encode (.or d a b) = (0x01#7 ++ d ++ a ++ b ++ 0x11#7 : BitVec 32) ∧
  encode (.xor d a b) = (0x01#7 ++ d ++ a ++ b ++ 0x12#7 : BitVec 32) ∧ encode (.andn d a b) = (0x01#7 ++ d ++ a ++ b ++ 0x13#7 : BitVec 32) ∧
  encode (.orn d a b) = (0x01#7 ++ d ++ a ++ b ++ 0x14#7 : BitVec 32) ∧ encode (.andi d a imm) = (0x03#7 ++ d ++ a ++ imm : BitVec 32) ∧
  encode (.ori d a imm) = (0x04#7 ++ d ++ a ++ imm : BitVec 32) ∧ encode (.xori d a imm) = (0x05#7 ++ d ++ a ++ imm : BitVec 32)

/-- R76: shifts and rotations; a count of w or more gives 0, all sign bits, or a rotation modulo w.

R77, R78: bit counts into one 32-bit register, reversal, a field extracted and a field inserted. -/
def Obligations.ShiftAndBitInstructions : Prop :=
  (∀ (s : State) (d a b : Reg) (n : BitVec 6),
    ComputesElt (.shl d a b) s d (pairs [d, a]) (fun u l => u.el a l <<< ((u.rd b l).toNat % 128)) ∧
    ComputesElt (.shr d a b) s d (pairs [d, a]) (fun u l =>
      if u.sg then (u.el a l).sshiftRight ((u.rd b l).toNat % 128) else u.el a l >>> ((u.rd b l).toNat % 128)) ∧
    ComputesElt (.rot d a b) s d (pairs [d, a]) (fun u l => (u.el a l).rotateLeft ((u.rd b l).toNat % 128)) ∧
    ComputesElt (.shli d a n) s d (pairs [d, a]) (fun u l => u.el a l <<< n.toNat) ∧
    ComputesElt (.shri d a n) s d (pairs [d, a]) (fun u l => if u.sg then (u.el a l).sshiftRight n.toNat else u.el a l >>> n.toNat) ∧
    encode (.shl d a b) = (0x01#7 ++ d ++ a ++ b ++ 0x18#7 : BitVec 32) ∧ encode (.shr d a b) = (0x01#7 ++ d ++ a ++ b ++ 0x19#7 : BitVec 32) ∧
    encode (.rot d a b) = (0x01#7 ++ d ++ a ++ b ++ 0x1A#7 : BitVec 32) ∧ encode (.shli d a n) = (0x06#7 ++ d ++ a ++ 0#7 ++ n : BitVec 32) ∧
    encode (.shri d a n) = (0x07#7 ++ d ++ a ++ 0#7 ++ n : BitVec 32)) ∧
  (∀ (s : State) (d a b : Reg),
    Computes32 (.popc d a) s d (pairs [a]) (fun u l => BitVec.ofNat 32 ((List.range u.w).countP fun k => (u.el a l).getLsbD k)) ∧
    Computes32 (.clz d a) s d (pairs [a]) (fun u l => BitVec.ofNat 32 ((List.range u.w).reverse.takeWhile fun k => !(u.el a l).getLsbD k).length) ∧
    Computes32 (.ctz d a) s d (pairs [a]) (fun u l => BitVec.ofNat 32 ((List.range u.w).takeWhile fun k => !(u.el a l).getLsbD k).length) ∧
    ComputesElt (.brev d a) s d (pairs [d, a]) (fun u l => (u.el a l).reverse) ∧
    ComputesElt (.bfx d a b) s d (pairs [d, a]) (fun u l =>
      let c := (u.rd b l).toNat
      let f := (u.el a l >>> (c % 64)).setWidth (Min.min (c / 256 % 64) u.w)
      if u.sg then f.signExtend u.w else f.setWidth u.w) ∧
    ComputesElt (.bfi d a b) s d (pairs [d, a]) (fun u l =>
      let c := (u.rd b l).toNat
      let m := (BitVec.ofNat u.w (2 ^ Min.min (c / 256 % 64) u.w - 1)) <<< (c % 64)
      (u.el d l &&& ~~~m) ||| ((u.el a l <<< (c % 64)) &&& m)))

/-- R74, R79–R81, R83: moves, constants, selection, four-byte products, byte permutation and 64-bit addresses. SEL writes every active lane.

R82, R27: CMP and CMPI write their condition to the predicate where GUARD holds. -/
def Obligations.MovesAndCompares : Prop :=
  (∀ (s : State) (d a b : Reg) (imm : BitVec 19) (sc : BitVec 2),
    ComputesBits (.mov d a) s d (pairs [d, a]) (fun u l => u.bitsAt a l) ∧
    Computes32 (.movi d imm) s d always (fun _ _ => imm.signExtend 32) ∧
    Computes32 (.ihi d imm) s d always (fun _ _ => imm.setWidth 32 <<< 13) ∧
    (s.issues (.sel d a b) = true → (s.start (.sel d a b)).pairsOk [d, a, b] = true →
      let u := s.start (.sel d a b)
      ∃ t, exec (.sel d a b) s = .next t ∧ OnlyWrote s t (u.eltPlaces d) ∧
        if u.w = 64 then WroteIn64 u t d u.act fun l => u.rd64 (if u.grd.getLsbD l then a else b) l
        else WroteIn u t d u.act fun l => u.rd (if u.grd.getLsbD l then a else b) l) ∧
    Computes32 (.dot4 d a b) s d always (fun u l =>
      let num := fun (v : BitVec 8) => if u.sg then v.toInt else (v.toNat : Int)
      let r := rangeOf u.sg 32
      let x := (if u.sg then (u.rd d l).toInt else ((u.rd d l).toNat : Int)) +
        (num ((u.rd a l).extractLsb' 0 8) * num ((u.rd b l).extractLsb' 0 8) + num ((u.rd a l).extractLsb' 8 8) * num ((u.rd b l).extractLsb' 8 8) +
         num ((u.rd a l).extractLsb' 16 8) * num ((u.rd b l).extractLsb' 16 8) + num ((u.rd a l).extractLsb' 24 8) * num ((u.rd b l).extractLsb' 24 8))
      BitVec.ofInt 32 (if u.md.getLsbD 12 then max r.1 (min r.2 x) else x)) ∧
    Computes32 (.bperm d a b) s d always (fun u l =>
      let pick := fun (q : BitVec 8) => if q.getLsbD 7 then 0#8 else (u.rd d l ++ u.rd a l : BitVec 64).extractLsb' (8 * (q.toNat % 8)) 8
      (pick ((u.rd b l).extractLsb' 24 8) ++ pick ((u.rd b l).extractLsb' 16 8) ++ pick ((u.rd b l).extractLsb' 8 8) ++
        pick ((u.rd b l).extractLsb' 0 8) : BitVec 32)) ∧
    Computes64 (.addx d a b) s d always (fun u l => u.rd64 a l + u.rd64 b l) ∧
    Computes64 (.lea d a b sc) s d always (fun u l => u.rd64 a l + (u.rd b l).signExtend 64 * BitVec.ofNat 64 (2 ^ sc.toNat))) ∧
  (∀ (s : State) (c p : BitVec 3) (a b : Reg) (imm : BitVec 13),
    let test := fun (x y : Int) => match c.toNat with
      | 0 => decide (x = y)
      | 1 => decide (x ≠ y)
      | 2 => decide (x < y)
      | 3 => decide (x ≤ y)
      | 4 => decide (y < x)
      | _ => decide (y ≤ x)
    ComputesP (.cmp c p a b) s p (pairs [a, b]) (fun u l => test (u.num a l) (u.num b l)) ∧
    ComputesP (.cmpi c p a imm) s p (pairs [a]) (fun u l => test (u.num a l) (u.intOf (BitVec.ofInt u.w imm.toInt))))

/-- R84, R85, R89, R90: the floating-point results, each the exact result rounded once; FMIN and FMAX choose an operand.

R86–R88: FABS clears the sign bit and FNEG inverts it, NaN payloads unchanged; FCLASS sets exactly one of ten bits; FCMP compares values, with the
unordered cases of R87's table. -/
def Obligations.FloatInstructions : Prop :=
  (∀ (s : State) (d a b : Reg),
    let once := fun (u : State) (x : FVal) => BitVec.ofNat 64 (u.fmt.rnd u.rnd false x)
    let down := fun (u : State) => decide (u.rnd.rm = 3)
    ComputesBits (.fadd d a b) s d (floats [d, a, b]) (fun u l => once u (FVal.add (down u) (u.fval a l) (u.fval b l))) ∧
    ComputesBits (.fsub d a b) s d (floats [d, a, b]) (fun u l => once u (FVal.add (down u) (u.fval a l) (u.fval b l).neg)) ∧
    ComputesBits (.fmul d a b) s d (floats [d, a, b]) (fun u l => once u ((u.fval a l).mul (u.fval b l))) ∧
    ComputesBits (.ffma d a b) s d (floats [d, a, b]) (fun u l => once u (FVal.add (down u) ((u.fval a l).mul (u.fval b l)) (u.fval d l))) ∧
    ComputesBits (.fmin d a b) s d (floats [d, a, b]) (fun u l => BitVec.ofNat 64 (u.fmt.pick u.rnd.flush false (u.raw a l) (u.raw b l))) ∧
    ComputesBits (.fmax d a b) s d (floats [d, a, b]) (fun u l => BitVec.ofNat 64 (u.fmt.pick u.rnd.flush true (u.raw a l) (u.raw b l))) ∧
    ComputesBits (.frnd d a) s d (floats [d, a]) (fun u l => once u ((u.fval a l).integral u.rnd.rm)) ∧
    ComputesBits (.fscale d a b) s d (floats [d, a]) (fun u l => once u ((u.fval a l).scale (u.rd b l).toInt))) ∧
  (∀ (s : State) (c p : BitVec 3) (d a b : Reg),
    ComputesElt (.fabs d a) s d (floats [d, a]) (fun u l => u.el a l &&& ~~~(1#u.w <<< (u.w - 1))) ∧
    ComputesElt (.fneg d a) s d (floats [d, a]) (fun u l => u.el a l ^^^ (1#u.w <<< (u.w - 1))) ∧
    Computes32 (.fclass d a) s d (floats [a]) (fun u l => 1#32 <<< u.fmt.class (u.raw a l)) ∧
    (∀ (F : FFmt) (v : Nat), F.class v < 10) ∧
    ComputesP (.fcmp c p a b) s p (floats [a, b]) (fun u l =>
      match (u.fval a l).cmp (u.fval b l), c.toNat with
      | none, 1 => true
      | none, 6 => true
      | none, _ => false
      | some x, 0 => decide (x = 0)
      | some x, 1 => decide (x ≠ 0)
      | some x, 2 => decide (x < 0)
      | some x, 3 => decide (x ≤ 0)
      | some x, 4 => decide (0 < x)
      | some x, 5 => decide (0 ≤ x)
      | some _, k => decide (k = 7)))

/-- R91–R93: FRCP, FRSQ, FSQRT, FEXP2, FLOG2, FSIN and FCOS complete with a value that is one function of the instruction, the element type, the MODE fields
[13:9] and the operand bits, on every core and in every state. It gives R93's table where the table gives an exact result: the special inputs, a power of
four for FRSQ, an integral argument for FEXP2, a power of two for FLOG2. FSQRT, and FRCP and FRSQ of the 16-bit types, round the exact result once: `q` is the
exact root, reciprocal or reciprocal root in units of a power of two, cut off below a bit far beyond the format. FEXP2, FLOG2, FSIN and FCOS take no 64-bit
type (R68). Which value within R92's bound the other cases take is the model's free value (log 10) and is left open here.

R53, R94: CVT converts A from the element type of MODE to the type of its field, into a pair for a 64-bit destination: an integer to an integer wraps, or
clamps under MODE[12], a float to an integer is rounded by the mode and clamped (NaN gives 0), an integer or another float type to a float is rounded
once, and a float to its own type passes with a canonical NaN and MODE[13]'s flush. R62, R63, R95: CVTDX and CVTMX write one block image: a block with a NaN
or an infinity in a GUARD lane gives the reserved scale; else one scale of the whole block, which is the smallest the maximum fits (DX), or the exponent of
the maximum (MX), and each lane's own element. -/
def Obligations.FunctionsAndConversions : Prop :=
  (∃ h : Nat → Nat → Nat → Nat → Nat,
    (∀ (s : State) (d a : Reg) (n : BitVec 4),
      let small := fun (u : State) => floats [d, a] u && decide (u.w ≠ 64)
      let val := fun (k : Nat) (u : State) (l : Nat) => BitVec.ofNat 64 (h k u.elt (u.md.toNat / 2 ^ 9 % 32) (u.raw a l))
      ComputesBits (.frcp d a n) s d (floats [d, a]) (val 0) ∧ ComputesBits (.frsq d a n) s d (floats [d, a]) (val 1) ∧
      ComputesBits (.fsqrt d a n) s d (floats [d, a]) (val 2) ∧ ComputesBits (.fexp2 d a n) s d small (val 3) ∧
      ComputesBits (.flog2 d a n) s d small (val 4) ∧ ComputesBits (.fsin d a n) s d small (val 5) ∧ ComputesBits (.fcos d a n) s d small (val 6)) ∧
    ∀ (e m v : Nat) (F : FFmt), eltFmt e = some F →
      let r : Rnd := rndOf (BitVec.ofNat 32 (m * 2 ^ 9))
      let x := F.valIn r.flush v
      let round := fun (y : FVal) => F.rnd r false y
      (∀ k y, k < 7 → F.special r k x = some y → h k e m v = y) ∧
      (∀ k : Int, x.cmp (.fin false 1 (2 * k)) = some 0 → h 1 e m v = round (.fin false 1 (-k))) ∧
      (∀ k : Int, x.cmp (FVal.ofInt k) = some 0 → F.qmin ≤ k → k ≤ F.bias → h 3 e m v = round (.fin false 1 k)) ∧
      (∀ k : Int, x.cmp (.fin false 1 k) = some 0 → h 4 e m v = round (FVal.ofInt k)) ∧
      (∀ c p, x = .fin false c p → 0 < c →
        (∃ (q j : Nat) (i : Int), p = 2 * i + j ∧ q * q ≤ c * 2 ^ j ∧ c * 2 ^ j < (q + 1) * (q + 1) ∧ 2 ^ 56 ≤ q ∧
          h 2 e m v = F.rnd r (decide (q * q ≠ c * 2 ^ j)) (.fin false q i)) ∧
        (F.eb + F.fb = 15 → ∃ (q j b : Nat) (i : Int), p = 2 * i + b ∧ b ≤ 1 ∧ q * q * (c * 2 ^ b) ≤ 2 ^ (2 * j) ∧
          2 ^ (2 * j) < (q + 1) * (q + 1) * (c * 2 ^ b) ∧ 2 ^ 56 ≤ q ∧
          h 1 e m v = F.rnd r (decide (q * q * (c * 2 ^ b) ≠ 2 ^ (2 * j))) (.fin false q (-(j : Int) - i)))) ∧
      (∀ n c p, x = .fin n c p → 0 < c → F.eb + F.fb = 15 → ∃ q j : Nat, q * c ≤ 2 ^ j ∧ 2 ^ j < (q + 1) * c ∧ 2 ^ 56 ≤ q ∧
        h 0 e m v = F.rnd r (decide (q * c ≠ 2 ^ j)) (.fin n q (-p - j)))) ∧
  (∀ (s : State) (d a : Reg) (t : BitVec 5) (f : BitVec 2) (k : BitVec 3),
    let ext := fun (x : Int) => let y := BitVec.ofInt (eltWidth t.toNat) x
      if eltSigned t.toNat then y.signExtend 64 else y.setWidth 64
    let bound := rangeOf (eltSigned t.toNat) (eltWidth t.toNat)
    let value := fun (u : State) (l : Nat) => match eltFmt u.elt, eltFmt t.toNat with
      | none, none => ext (if u.elt = t.toNat ∨ u.md.getLsbD 12 = false then u.num a l else max bound.1 (min bound.2 (u.num a l)))
      | some _, none => (match u.fval a l with
        | .nan => 0#64
        | .inf n => ext (if n then bound.1 else bound.2)
        | x => ext (max bound.1 (min bound.2 (x.integral u.rnd.rm).whole)))
      | none, some G => BitVec.ofNat 64 (G.rnd u.rnd false (FVal.ofInt (u.num a l)))
      | some F, some G => BitVec.ofNat 64 (if u.elt = t.toNat then (if (F.val (u.raw a l)).isNan then F.canonical else F.flushed u.rnd.flush (u.raw a l))
          else G.rnd u.rnd false (u.fval a l))
    let block := fun (u : State) (i : Nat) => if u.grd.getLsbD i then u.fval a i else .fin false 0 0
    let odd := fun (u : State) => (List.range 32).any fun i => notFinite (block u i)
    let rne := fun (x : FVal) (n : Int) => ((x.abs.scale (-n)).integral 0).whole.toNat
    (eltWidth t.toNat = 64 → Computes64 (.cvt d a t) s d (fun u => u.pairsOk [a] && pairOk d) value) ∧
    (eltWidth t.toNat ≠ 64 → Computes32 (.cvt d a t) s d (pairs [a]) fun u l => (value u l).setWidth 32) ∧
    (∀ w i top, (w, i, top) = (if f = 0#2 then (6, 132, 63) else if f = 1#2 then (4, 130, 15) else (2, 128, 3)) → ∃ hi : State → Nat,
      (∀ u, odd u = false → w ≤ hi u ∧ hi u ≤ 254 ∧ (hi u < 254 → ∀ l, l < 32 → rne (block u l) (hi u - i) ≤ top) ∧
        ∀ j, w ≤ j → j < hi u → ∃ l, l < 32 ∧ top < rne (block u l) (j - i)) ∧
      Computes32 (.cvtdx d a f) s d (fun u => u.blockType) fun u l =>
        if odd u then 0xFFFF0000#32
        else
          let lo := hi u - w
          let q := rne (u.fval a l) (lo - i)
          let sign := if (u.fval a l).isNeg then 2 ^ w else 0
          BitVec.ofNat 32 (hi u * 2 ^ 24 + lo * 2 ^ 16 + sign + if q ≤ top then q else 2 ^ (w + 1) + min (rne (u.fval a l) (hi u - i)) top)) ∧
    (∃ sc : State → Nat,
      (∀ u, odd u = false → (sc u = 0 ∧ ∀ l, l < 32 → (block u l).cmp (.fin false 0 0) = some 0) ∨
        ∃ l n m e, l < 32 ∧ block u l = .fin n m e ∧ 0 < m ∧ (∀ j, j < 32 → (block u j).abs.cmp (.fin false m e) ≠ some 1) ∧
          (sc u : Int) = max 0 (min 254 ((Nat.log2 m : Int) + e - mxEmax k.toNat + 127))) ∧
      Computes32 (.cvtmx d a k) s d (fun u => u.blockType) fun u l =>
        if odd u then 0x00FF0000#32
        else
          let y := (u.fval a l).scale (127 - (sc u : Int))
          let el := match mxFmt k.toNat, y with
            | some (F, top), .fin n m e => F.pack n (if m = 0 then 0 else min (F.roundMag 0 n m e false) top)
            | none, .fin n _ _ => (BitVec.ofInt 8 ((if n then -1 else 1) * ((min (rne y (-6)) 127 : Nat) : Int))).toNat
            | _, _ => 0
          BitVec.ofNat 32 (sc u * 2 ^ 16 + el)))

/-! ## Cross-lane instructions and predicates (R96–R106) -/

/-- R99–R101: each GUARD lane takes the register bits of its source lane, as that lane holds them.

R103, R104, R106: votes over the GUARD lanes, matches of register bits, and predicate logic through a truth table.

R105: scans and reductions over the participating lanes in their order: the integer sum is exact, with one FIT on the total; a floating-point sum rounds at each step;
minimum and maximum follow the type, R85 for floats; the bitwise operators act on the w bits; no lane gives the identity. That one lane gives its bits as held is log 94's
choice. -/
def Obligations.ExchangesVotesAndReductions : Prop :=
  (∀ (s : State) (d a b : Reg) (q : BitVec 2),
    let from_ := fun (u : State) (j : Nat) => if u.g.onControl = true ∧ j ≠ 0 then 0#64 else u.bitsAt a j
    let n := fun (u : State) (l : Nat) => (u.rd b l).toNat
    ComputesBits (.qswapH d a) s d (pairs [d, a]) (fun u l => from_ u (l ^^^ 1)) ∧
    ComputesBits (.qswapV d a) s d (pairs [d, a]) (fun u l => from_ u (l ^^^ 2)) ∧
    ComputesBits (.qswapD d a) s d (pairs [d, a]) (fun u l => from_ u (l ^^^ 3)) ∧
    ComputesBits (.qbcast d a q) s d (pairs [d, a]) (fun u l => from_ u (4 * (l / 4) + q.toNat)) ∧
    ComputesBits (.shfl d a b) s d (pairs [d, a]) (fun u l => from_ u (n u l % 32)) ∧
    ComputesBits (.shflu d a b) s d (pairs [d, a]) (fun u l => from_ u (if n u l % 64 ≤ l then l - n u l % 64 else l)) ∧
    ComputesBits (.shfld d a b) s d (pairs [d, a]) (fun u l => from_ u (if l + n u l % 64 < 32 then l + n u l % 64 else l)) ∧
    ComputesBits (.shflx d a b) s d (pairs [d, a]) (fun u l => from_ u (l ^^^ (n u l % 32)))) ∧
  (∀ (s : State) (p x y : BitVec 3) (d a : Reg) (tt : BitVec 4),
    ComputesP (.voteAll p x) s p always (fun u _ => (lanesOf u.grd).all fun j => (u.g.pred x).getLsbD j) ∧
    ComputesP (.voteAny p x) s p always (fun u _ => (lanesOf u.grd).any fun j => (u.g.pred x).getLsbD j) ∧
    Computes32 (.voteBallot d x) s d always (fun u _ => u.grd &&& u.g.pred x) ∧
    Computes32 (.matchLanes d a) s d (pairs [a]) (fun u l => maskOf fun j => u.grd.getLsbD j && decide (u.el a j = u.el a l)) ∧
    ComputesP (.plog p x y tt) s p always (fun u l =>
      tt.getLsbD (2 * (if (u.g.pred x).getLsbD l then 1 else 0) + if (u.g.pred y).getLsbD l then 1 else 0))) ∧
  (∀ (s : State) (d a : Reg) (o : BitVec 3),
    let step := fun (u : State) (x y : BitVec u.w) => match o.toNat, u.isFloat with
      | 0, _ => BitVec.ofNat u.w (u.fmt.rnd u.rnd false (FVal.add (decide (u.rnd.rm = 3)) (u.fmt.valIn u.rnd.flush x.toNat) (u.fmt.valIn u.rnd.flush y.toNat)))
      | 1, true => BitVec.ofNat u.w (u.fmt.pick u.rnd.flush false x.toNat y.toNat)
      | 2, true => BitVec.ofNat u.w (u.fmt.pick u.rnd.flush true x.toNat y.toNat)
      | 1, false => if u.intOf y < u.intOf x then y else x
      | 2, false => if u.intOf x < u.intOf y then y else x
      | 3, _ => x &&& y
      | 4, _ => x ||| y
      | _, _ => x ^^^ y
    let identity := fun (u : State) => match o.toNat, u.isFloat with
      | 1, true => BitVec.ofNat u.w (u.fmt.pack false u.fmt.infMag)
      | 2, true => BitVec.ofNat u.w (u.fmt.pack true u.fmt.infMag)
      | 1, false => BitVec.ofInt u.w (rangeOf u.sg u.w).2
      | 2, false => BitVec.ofInt u.w (rangeOf u.sg u.w).1
      | 3, _ => BitVec.allOnes u.w
      | _, _ => 0#u.w
    let sum := fun (u : State) (js : List Nat) => match js with
      | [] => identity u
      | j :: ks => if o = 0#3 ∧ u.isFloat = false then u.fitted ((js.map (u.num a)).sum) else ks.foldl (fun x k => step u x (u.el a k)) (u.el a j)
    ComputesElt (.gscanIncl d a o) s d (pairs [d, a]) (fun u l => sum u ((lanesOf u.grd).filter fun j => decide (j ≤ l))) ∧
    ComputesElt (.gscanExcl d a o) s d (pairs [d, a]) (fun u l => sum u ((lanesOf u.grd).filter fun j => decide (j < l))) ∧
    ComputesElt (.gred d a o) s d (pairs [d, a]) (fun u _ => sum u (lanesOf u.grd)))

/-- R68 (with R26, R94, R95, R99 and R105): under a 64-bit element type a register instruction with a field of that type that names no pair traps as illegal, with TVAL
its word, and has no other effect; so do a floating-point instruction under an integer type, FEXP2, FLOG2, FSIN and FCOS under f64, and CVTDX and CVTMX under
a type without block images.

R39, R343: a privileged instruction below its level traps with 0x03 and TVAL its word, and has no other effect: TLBINV, CTXSTART, CTXKILL, RCFENCE,
ERES, DRAIN, WSSET and CKCLOSE below SYS, HALT below FW, and an access to a special register below the level of the register. -/
def Obligations.DecodeChecksTrap : Prop :=
  (∀ (s : State) (d a b : Reg) (imm : BitVec 13) (n : BitVec 6) (c p o : BitVec 3) (l : BitVec 4) (q : BitVec 2) (ty : BitVec 5),
    let traps := fun (ok : State → Bool) (is : List Instr) => ∀ i ∈ is, s.issues i = true → ok (s.start i) = false →
      exec i s = .next ((s.start i).raise i 0x01 ((encode i).setWidth 64))
    traps (pairs [d, a, b]) [.add d a b, .sub d a b, .mul d a b, .mulh d a b, .mad d a b, .div d a b, .rem d a b, .min d a b, .max d a b, .and d a b, .or d a b,
      .xor d a b, .andn d a b, .orn d a b, .sel d a b] ∧
    traps (pairs [d, a]) [.abs d a, .addi d a imm, .andi d a imm, .ori d a imm, .xori d a imm, .shl d a b, .shr d a b, .rot d a b, .shli d a n, .shri d a n, .brev d a,
      .bfx d a b, .bfi d a b, .mov d a, .qswapH d a, .qswapV d a, .qswapD d a, .qbcast d a q, .shfl d a b, .shflu d a b, .shfld d a b, .shflx d a b, .gscanIncl d a o,
      .gscanExcl d a o, .gred d a o] ∧
    traps (pairs [a]) [.popc d a, .clz d a, .ctz d a, .cmpi c p a imm, .matchLanes d a] ∧ traps (pairs [a, b]) [.cmp c p a b] ∧
    traps (floats [d, a, b]) [.fadd d a b, .fsub d a b, .fmul d a b, .ffma d a b, .fmin d a b, .fmax d a b] ∧
    traps (floats [d, a]) [.fabs d a, .fneg d a, .frnd d a, .fscale d a b, .frcp d a l, .frsq d a l, .fsqrt d a l] ∧
    traps (fun u => floats [d, a] u && decide (u.w ≠ 64)) [.fexp2 d a l, .flog2 d a l, .fsin d a l, .fcos d a l] ∧
    traps (floats [a, b]) [.fcmp c p a b] ∧ traps (floats [a]) [.fclass d a] ∧
    traps (fun u => u.pairsOk [a] && (decide (eltWidth ty.toNat ≠ 64) || pairOk d)) [.cvt d a ty] ∧
    traps (fun u => u.isFloat && decide (u.w ≠ 64)) [.cvtdx d a q, .cvtmx d a o]) ∧
  (∀ (s : State) (d a b : Reg) (c : BitVec 12),
    let traps := fun (i : Instr) (need : Nat) => (s.g.split s.entry).isSome = true → s.mayIssue = true → i.wellFormed = true →
      s.g.level < need → exec i s = .next (s.raise i 0x03 ((encode i).setWidth 64))
    traps (.tlbinv a b) 1 ∧ traps (.ctxstart d a) 1 ∧ traps (.ctxkill d a) 1 ∧ traps (.rcfence d a) 1 ∧ traps (.eres d a b) 1 ∧ traps (.drain d a) 1 ∧
    (∀ l, traps (.wsset d a b l) 1) ∧ traps (.ckclose d a b) 1 ∧ traps .halt 2 ∧
    (s.appCounter s.g.core c = false → traps (.csrr d c) (csrLevel c)) ∧ traps (.csrw d c) (csrLevel c) ∧
    (∀ n, n < 0x200 → csrLevel (BitVec.ofNat 12 n) = 0) ∧ (∀ n, 0x200 ≤ n → n < 0x300 → csrLevel (BitVec.ofNat 12 n) = 1) ∧
    (∀ n, 0x300 ≤ n → n < 0x400 → csrLevel (BitVec.ofNat 12 n) = 2) ∧ (∀ n, 0x400 ≤ n → n < 0x1000 → csrLevel (BitVec.ofNat 12 n) = 1))

/-! ## Control flow, MODE and calls (R30, R31, R108–R121) -/

/-- R108–R110, R119: where each active lane goes. BR sends the GUARD lanes to the target and the others to PC + 4; BRC moves the whole split or none of
it; BRX sends the lanes of one target there, and the lanes of other targets stay; EXIT ends the GUARD lanes.

R130, R113: a BR that divides a split: its entry keeps the lanes that go to PC + 4, the lowest free entry takes those that go to the target; the RP
of each is the higher of the target and PC + 4, both counters are zero, and each takes the mode state of the divided split. -/
def Obligations.BranchesDivideSplits : Prop :=
  (∀ (s : State) (c : BitVec 3) (o : BitVec 22) (a : Reg),
    let next := s.cur.pc + 4#64
    let target := s.cur.pc + (o.signExtend 64 <<< 2)
    (s.issues (.br o) = true → ∃ t, exec (.br o) s = .next t ∧
      MovesLanes s t fun l => some (if s.grd.getLsbD l then target else next)) ∧
    (s.issues (.brc c o) = true → ∃ t, exec (.brc c o) s = .next t ∧
      let taken := match c.toNat with
        | 0 => (lanesOf s.act).all fun l => s.grd.getLsbD l
        | 1 => (lanesOf s.act).any fun l => s.grd.getLsbD l
        | 2 => (lanesOf s.act).all fun l => !s.grd.getLsbD l
        | _ => (lanesOf s.act).any fun l => !s.grd.getLsbD l
      MovesLanes s t fun _ => some (if taken then target else next)) ∧
    (s.issues (.brx a) = true → ∀ k, lowest s.grd = some k → ((s.start (.brx a)).rd64 a k).toNat % 4 = 0 → ∃ t, exec (.brx a) s = .next t ∧
      let at_ := (s.start (.brx a)).rd64 a
      MovesLanes s t fun l => some (if s.grd.getLsbD l = false then next else if at_ l = at_ k then at_ k else s.cur.pc)) ∧
    (s.issues (.brx a) = true → s.grd = 0#32 → ∃ t, exec (.brx a) s = .next t ∧ MovesLanes s t fun _ => some next) ∧
    (s.issues .exit = true → ∃ t, exec .exit s = .next t ∧ MovesLanes s t fun l => if s.grd.getLsbD l then none else some next)) ∧
  (∀ (s : State) (o : BitVec 22) (e : Nat),
    let next := s.cur.pc + 4#64
    let target := s.cur.pc + (o.signExtend 64 <<< 2)
    let off := s.act &&& ~~~s.grd
    let rp := some (if target ≤ next then next else target)
    s.issues (.br o) = true → s.grd ≠ 0#32 → off ≠ 0#32 → target ≠ next → s.g.freeSplit = some e →
      ∃ t, exec (.br o) s = .next t ∧
        t.g.split s.entry = some { pc := next, mask := off, rp := rp, hold := 0, age := 0, ms := s.cur.ms, wait := .none } ∧
        t.g.split e = some { pc := target, mask := s.grd, rp := rp, hold := 0, age := 0, ms := s.cur.ms, wait := .none } ∧
        t.g.parked = s.g.parked)

/-- R120, R121: NOP has no effect; YIELD goes on at its continuation, or leaves issue until the register it awaits is written; under a yield request
the group goes to its eviction (R123).

R30, R31, R112, R113: SETM writes the selected fields of the effective MODE of the issuing split, or traps with 0x02 and leaves MODE; GETM reads it;
PUSHM saves it on the mode stack of the split and POPM takes it back, and they trap at depth 4 and 0. -/
def Obligations.ModeNopAndYield : Prop :=
  (∀ (s : State) (d a : Reg),
    (s.issues .nop = true → ∃ t, exec .nop s = .next t ∧ OnlyWrote s t []) ∧
    (s.issues (.yield d a) = true →
      let u := s.start (.yield d a)
      let c := if a = 63#6 then s.cur.pc + 4#64 else u.value64 a
      c.toNat % 4 = 0 → ∃ t, exec (.yield d a) s = .next t ∧ KeepsRest s t ∧ KeepsRegs s t [] ∧ KeepsPreds s t ∧
        t.g.outer = { s.g.outer with forced := s.g.forced || s.g.yreq.getLsbD 63 } ∧
        match u.g.regPlace d with
        | some p => if u.g.owes p u.seq then GoesTo s t s.cur.pc ∧ t.cur.wait = .yield p c u.seq else GoesTo s t c
        | none => GoesTo s t c)) ∧
  (∀ (s : State) (m : BitVec 5) (imm : BitVec 14) (a d : Reg),
    let picked := fun (k : Nat) => (m.getLsbD 0 && decide (k < 4)) || (m.getLsbD 1 && decide (4 ≤ k ∧ k < 9)) || (m.getLsbD 2 && decide (9 ≤ k ∧ k < 12)) ||
      (m.getLsbD 3 && decide (k = 12)) || (m.getLsbD 4 && decide (k = 13))
    let refused := fun (x : W32) => (m.getLsbD 1 && decide (11 < x.toNat / 16 % 32)) || (m.getLsbD 2 && decide (4 < x.toNat / 512 % 8))
    let sets := fun (i : Instr) (x : W32) => ∃ t, exec i s = .next t ∧ KeepsRest s t ∧ KeepsRegs s t [] ∧ KeepsPreds s t ∧
      t.g.outer = { s.g.outer with mode := t.g.mode } ∧ t.cur.pc = s.cur.pc + 4#64 ∧ t.cur.mask = s.cur.mask ∧
      (∀ k, k < 32 → t.md.getLsbD k = if picked k then x.getLsbD k else s.md.getLsbD k) ∧
      if s.cur.ms.stack = [] then t.cur.ms = s.cur.ms else t.g.mode = s.g.mode ∧ t.cur.ms.stack = s.cur.ms.stack
    let traps := fun (i : Instr) (x : W32) => exec i s = .next ((s.start i).raise i 0x02 (x.setWidth 64))
    let x := (s.start (.setmR m a)).value a
    (s.issues (.setm m imm) = true → if refused (imm.setWidth 32) then traps (.setm m imm) (imm.setWidth 32) else sets (.setm m imm) (imm.setWidth 32)) ∧
    (s.issues (.setmR m a) = true → if x.toNat / 2 ^ 15 ≠ 0 ∨ refused x then traps (.setmR m a) x else sets (.setmR m a) x) ∧
    Computes32 (.getm d) s d always (fun u _ => u.md) ∧
    (s.issues .pushm = true → s.cur.ms.stack.length ≠ 4 → ∃ t, exec .pushm s = .next t ∧ KeepsRest s t ∧ KeepsRegs s t [] ∧ KeepsPreds s t ∧
      KeepsGroup s t ∧ t.cur.pc = s.cur.pc + 4#64 ∧ t.cur.mask = s.cur.mask ∧ t.cur.ms = { stack := s.cur.ms.stack ++ [s.md], priv := s.md }) ∧
    (s.issues .pushm = true → s.cur.ms.stack.length = 4 → exec .pushm s = .next ((s.start .pushm).raise .pushm 0x01 ((encode .pushm).setWidth 64))) ∧
    (∀ rest v, s.issues .popm = true → s.cur.ms.stack = rest ++ [v] → ∃ t, exec .popm s = .next t ∧ KeepsRest s t ∧ KeepsRegs s t [] ∧ KeepsPreds s t ∧
      KeepsGroup s t ∧ t.cur.pc = s.cur.pc + 4#64 ∧ t.cur.mask = s.cur.mask ∧ t.cur.ms = { stack := rest, priv := v }) ∧
    (s.issues .popm = true → s.cur.ms.stack = [] → exec .popm s = .next ((s.start .popm).raise .popm 0x01 ((encode .popm).setWidth 64))))

/-- R115, R117, R118: CALL, CALLX and RET of a divided group trap as illegal, a call at depth 65,535 with 0x14 and a return at depth 0 as illegal, and a misaligned
target with 0x05 (where several hold, the model checks them in this order: log 16); else, where the register ring holds the frames, a call writes the link
pair in every lane of the group, appends its frame and moves the window, and a return goes back through the link pair of the lowest active lane.

R115–R117: where the frames do not fit the ring, a call first spills the oldest ones, no more than it must, and where its caller's frame is in the slices, a return first
refills it: where no access of the slices stops it, the call moves WSP down by 4 bytes for each register spilled and RB past them, and then the window as above;
the return moves WSP up by the refilled frame. A spill leaves each lane's registers at the homes of their slice words, a refill takes them from there. A spill below WSL
stops with 0x14 and TVAL = WSP. -/
def Obligations.CallsAndWindows : Prop :=
  (∀ (s : State) (f : BitVec 3) (o : BitVec 22) (a : Reg),
    let n := 8 * (f.toNat + 1)
    let A := s.g.nregs
    let lo := (s.g.win.wb + n - 2) % A
    let hi := (s.g.win.wb + n - 1) % A
    let ret := s.cur.pc + 4#64
    let bad := fun (i : Instr) (c : Nat) (v : W64) => exec i s = .next ((s.start i).raise i c v)
    let call := fun (i : Instr) (target : W64) => s.issues i = true →
      if s.g.converged = false then bad i 0x01 ((encode i).setWidth 64)
      else if s.g.win.cd = 65535 then bad i 0x14 (s.g.win.wsp.setWidth 64)
      else (s.g.win.frames ++ [n]).sum + 56 ≤ A →
        if target.toNat % 4 ≠ 0 then bad i 0x05 target
        else ∃ t, exec i s = .next t ∧ KeepsRest s t ∧ KeepsPreds s t ∧ KeepsRegs s t [lo, hi] ∧ GoesTo s t target ∧
          (∀ l, l < 32 → s.g.ownLanes.getLsbD l = true → t.g.getPlace lo l = ret.setWidth 32 ∧
            t.g.getPlace hi l = BitVec.ofNat 32 (f.toNat * 2 ^ 25 + ret.toNat / 2 ^ 32 % 2 ^ 25)) ∧
          t.g.outer = { s.g.outer with win := { s.g.win with frames := s.g.win.frames ++ [n], wb := (s.g.win.wb + n) % A, cd := s.g.win.cd + 1 } }
    call (.call f o) (s.cur.pc + (o.signExtend 64 <<< 2)) ∧
    call (.callx a f) ((s.start (.callx a f)).value64 a) ∧
    (s.issues .ret = true →
      if s.g.converged = false ∨ s.g.win.cd = 0 then bad .ret 0x01 ((encode .ret).setWidth 64)
      else ∀ rest G, s.g.win.frames = rest ++ [G] →
        let l := (lowest s.act).getD 0
        let h := s.g.getPlace ((s.g.win.wb + A - 1) % A) l
        let w := s.g.getPlace ((s.g.win.wb + A - 2) % A) l
        let target : W64 := (0#7 ++ h.extractLsb' 0 25 ++ w : BitVec 64)
        if target.toNat % 4 ≠ 0 then bad .ret 0x05 target
        else ∃ t, exec .ret s = .next t ∧ KeepsRest s t ∧ KeepsPreds s t ∧ KeepsRegs s t [] ∧ GoesTo s t ((target.setWidth 57).signExtend 64) ∧
          t.g.outer = { s.g.outer with win := { s.g.win with frames := rest, wb := (s.g.win.wb + A - G % A) % A, cd := s.g.win.cd - 1 } })) ∧
  (∀ (s : State) (f : BitVec 3) (o : BitVec 22) (a : Reg),
    let n := 8 * (f.toNat + 1)
    let A := s.g.nregs
    let call := fun (i : Instr) (target : W64) => s.issues i = true → s.g.converged = true → s.g.win.cd ≠ 65535 → target.toNat % 4 = 0 →
      ((s.start i).callFrame f.toNat).2 = .ok → 56 ≤ A → s.g.win.frames.length < 199 →
      ∃ t k, exec i s = .next t ∧ ((s.g.win.frames ++ [n]).drop k).sum + 56 ≤ A ∧ (∀ j, j < k → A < ((s.g.win.frames ++ [n]).drop j).sum + 56) ∧
        KeepsPreds s t ∧ t.cur.pc = target ∧ t.cur.mask = s.cur.mask ∧ t.teams = s.teams ∧ t.onchip = s.onchip ∧ t.eng = s.eng ∧
        t.g.win.frames = (s.g.win.frames ++ [n]).drop k ∧ t.g.win.wb = (s.g.win.wb + n) % A ∧ t.g.win.cd = s.g.win.cd + 1 ∧
        t.g.win.wsp = s.g.win.wsp - BitVec.ofNat 32 (4 * ((s.g.win.frames ++ [n]).take k).sum) ∧
        t.g.win.rb % A = (s.g.win.rb + ((s.g.win.frames ++ [n]).take k).sum) % A ∧ t.g.win.wsl = s.g.win.wsl
    call (.call f o) (s.cur.pc + (o.signExtend 64 <<< 2)) ∧
    call (.callx a f) ((s.start (.callx a f)).value64 a) ∧
    (s.issues .ret = true → s.g.converged = true → s.g.win.cd ≠ 0 → s.g.win.frames = [] → ∀ v, (s.start .ret).callerFrame = (v, .ok) →
      let l := (lowest s.act).getD 0
      let target : W64 := (0#7 ++ (v.g.getPlace ((s.g.win.wb + A - 1) % A) l).extractLsb' 0 25 ++ v.g.getPlace ((s.g.win.wb + A - 2) % A) l : BitVec 64)
      if target.toNat % 4 ≠ 0 then exec .ret s = .next (v.raise .ret 0x05 target)
      else ∃ t m, exec .ret s = .next t ∧ v.g.win.frames = [m] ∧ KeepsPreds s t ∧ t.cur.pc = (target.setWidth 57).signExtend 64 ∧
        t.cur.mask = s.cur.mask ∧ m % 8 = 0 ∧ 8 ≤ m ∧ m ≤ 64 ∧
        t.g.win = { s.g.win with wsp := s.g.win.wsp + BitVec.ofNat 32 (4 * m), rb := (s.g.win.wb + A - m % A) % A, wb := (s.g.win.wb + A - m % A) % A,
                                 cd := s.g.win.cd - 1 }) ∧
    (∀ t r, s.g.win.frames = r :: t → s.g.win.wsp.toNat < 4 * r + s.g.win.wsl.toNat → s.spillOldest = (s, .fault 0x14 (s.g.win.wsp.setWidth 64) 0)) ∧
    (∀ t r u, s.g.win.frames = r :: t → s.spillOldest = (u, .ok) → u.g.win =
      { s.g.win with wsp := s.g.win.wsp - BitVec.ofNat 32 (4 * r), rb := (s.g.win.rb + r) % s.g.nregs, frames := t } ∧
      ∀ w ps, let ws := frameWords s.g (s.g.win.wsp.toNat - 4 * r) (s.g.win.rb + r) r
        s.probeAll .write ws = (w, .ok, ps) → (ps.map (·.1)).Nodup → (∀ p ∈ ps, ∀ q ∈ ps, p.2 = q.2) →
        (∀ p ∈ ps, AtHome w p.2 p.1 ∧ p.1 % 4 = 0 ∧ ∀ x ∈ w.m.races, x.word ≠ p.1 / 4) →
        ∀ (k l off place pa : Nat) (ms : Bool), ws[k]? = some (l, off, place) → ps[k]? = some (pa, ms) → u.m.homeRead pa 4 = (s.g.getPlace place l).toNat) ∧
    (∀ top u m, s.refill top = (u, .ok, m) → s.g.nregs ≤ 1024 → ∀ v y pa0 ms0 w ps,
      let ws := frameWords s.g s.g.win.wsp.toNat top m
      s.sliceProbe .read (s.sliceVa s.g ((lowest s.act).getD 0) s.g.win.wsp.toNat) = (v, y, pa0, ms0) → v.probeAll .read ws = (w, .ok, ps) →
      m = 8 * (v.m.homeRead pa0 4 / 2 ^ 25 % 8 + 1) ∧ u.g.win = { s.g.win with wsp := s.g.win.wsp + BitVec.ofNat 32 (4 * m) } ∧
      (m ≤ s.g.nregs → ∀ (k l off place pa : Nat) (ms : Bool), ws[k]? = some (l, off, place) → ps[k]? = some (pa, ms) → u.g.getPlace place l = BitVec.ofNat 32 (w.m.homeRead pa 4))))

/-! ## Exceptions and special registers (R39, R343–R355) -/

/-- R346: the bank a trap goes to, by the level and the bank in use where it is raised; none inside an FW handler, where the group's context is killed
or, for context 0, the module stops. A trap whose entry must wait is noted, and its group issues nothing (R351). -/
def Obligations.TrapRouting : Prop := ∀ (s : State) (r : TrapReport),
  let delegated := s.dev.tdlg.getLsbD r.cause && decide (s.g.bankReg 1 0x30 ≠ 0#64)
  (s.g.bank = 0 → s.g.level = 0 → s.trapBank r.cause = if delegated then 1 else 2) ∧
  (s.g.bank = 0 → s.g.level = 1 → s.trapBank r.cause = 2) ∧
  (s.g.bank = 0 → s.g.level = 2 → s.trapBank r.cause = 3) ∧
  (s.g.bank = 1 → s.trapBank r.cause = 2) ∧
  (s.g.bank = 2 → s.trapBank r.cause = 3) ∧
  (s.g.trap = none → s.quiet = true → s.g.bank = 3 →
    if s.g.ctx = 0#12 then (s.report r).fw.stopped = true ∧ (s.report r).g = s.g else s.report r = s.kill s.g.ctx) ∧
  (s.g.trap = none → s.quiet = false → s.report r = { s with g := { s.g with trap := some r } } ∧ (s.report r).mayIssue = false)

/-- R347, R348, R351, R352: what a trap saves in its bank, and where the group goes on: the cause, the value, the status word, the live lanes, the
faulting lanes, the parked lanes, the word, the walk detail and the images of the four split entries; one split of all lanes at TVEC, MODE i32 with
its precise bit, STAT with the bank and its level, call depth 0, an empty log and latch. The registers, the predicates and the rest of the bank stay.

R351, R355: the return undoes the entry: of a group whose split table fits its images, entry into a bank and the return from it give back the split
table, the parked sets, the window state, the latch, MODE and STAT. -/
def Obligations.TrapEntryAndUndo : Prop :=
  (∀ (s : State) (r : TrapReport),
    s.g.trap = none → s.quiet = true → s.trapBank r.cause ≠ 0 →
      let t := s.report r
      let b := s.trapBank r.cause
      let cell := fun (o : Nat) => Store.get (t.g.bankOf b).cells o
      let old := fun (o : Nat) => Store.get (s.g.bankOf b).cells o
      cell 0x00 = BitVec.ofNat 64 (r.cause + if r.async then 2 ^ 31 else 0) ∧ cell 0x01 = r.val ∧
      cell 0x03 = BitVec.ofNat 64 (s.g.mode.toNat % 2 ^ 15 + s.g.stat.toNat % 4 * 2 ^ 15 + s.g.stat.toNat / 4 % 4 * 2 ^ 17 + r.entry % 4 * 2 ^ 19 +
        match r.logged with | some e => 2 ^ 24 + e % 8 * 2 ^ 21 | none => 0) ∧
      cell 0x04 = s.g.liveLanes.setWidth 64 ∧ cell 0x05 = r.fmask.setWidth 64 ∧
      cell 0x06 = (s.g.parked.foldl (fun m p => m ||| p.mask) 0#32).setWidth 64 ∧ cell 0x07 = r.ins.setWidth 64 ∧ cell 0x08 = r.wdet ∧
      (∀ n k, n < 4 → k < 5 → cell (0x10 + 8 * n + k) = splWord (s.g.split n) k) ∧ (∀ o, 0x30 ≤ o → cell o = old o) ∧
      t.entry = 0 ∧ t.g.split 0 = some { pc := sext57 (old 0x30), mask := s.g.ownLanes, rp := none, hold := 0, age := 0,
                                         ms := { stack := [], priv := 0 }, wait := .none } ∧
      t.g.split 1 = none ∧ t.g.split 2 = none ∧ t.g.split 3 = none ∧ t.g.parked = [] ∧
      t.g.mode = 0x20#32 ||| (s.g.mode &&& 0x4000#32) ∧ t.g.bank = b ∧ t.g.level = b - 1 ∧ t.g.log = [] ∧ t.g.latch = none ∧ t.g.trap = none ∧
      t.g.win = { s.g.win with cd := 0 } ∧ (t.g.bankOf b).win = s.g.win ∧ (t.g.bankOf b).parked = s.g.parked ∧ (t.g.bankOf b).latch = s.g.latch ∧
      t.g.vregs = s.g.vregs ∧ t.g.uregs = s.g.uregs ∧ t.g.preds = s.g.preds ∧
      (∀ k, k ≠ b → 1 ≤ k → k ≤ 3 → t.g.bankOf k = s.g.bankOf k)) ∧
  (∀ (g : Group) (b : Nat) (r : TrapReport),
    let m14 := g.mode &&& 0x4000#32
    let mode := fun (v : W32) => v = (v &&& 0x3FFF#32) ||| m14
    let fits := fun (x : Split) => x.pc = sext57 x.pc ∧ x.hold < 2 ^ 17 ∧ x.age < 2 ^ 9 ∧ (∀ p, x.rp = some p → p = sext57 p) ∧
      x.ms.stack.length ≤ 4 ∧ (∀ v ∈ x.ms.stack, mode v) ∧ mode x.ms.priv ∧ x.wait = .none
    1 ≤ b → b ≤ 3 → g.splits.length = 4 → (∀ e x, g.split e = some x → fits x) → mode g.mode → g.stat.toNat < 16 → r.logged = none →
      let h := (g.enter b r).leave b
      h.splits = g.splits ∧ h.parked = g.parked ∧ h.win = g.win ∧ h.latch = g.latch ∧ h.mode = g.mode ∧ h.stat = g.stat ∧
      h.vregs = g.vregs ∧ h.uregs = g.uregs ∧ h.preds = g.preds)

/-- R346, R351, R354: TRAP n takes trap entry with cause 0x19, TVAL = n and TINS its word, and the saved PC of its split is the address after it; the handler
starts in entry 0 at TVEC of the bank and level of the entry, with the registers and predicates as they stand. While an access is outstanding the entry waits
and the group issues nothing; inside an FW handler the module stops (context 0) or the group's context is no longer Live.

R355: where its checks pass and no frame was spilled and no access is held since the entry, TRET restores the split table from the images, the
parked sets, the window state and the latch, MODE and STAT from TSTAT; the registers and predicates keep the handler's values. Where a check
fails it is an illegal instruction, or a bad return with TVAL = TSTAT. -/
def Obligations.TrapAndReturnInstructions : Prop :=
  (∀ (s : State) (n : BitVec 12), s.issues (.trap n) = true →
    let u := (s.start (.trap n)).done
    let b := s.trapBank 0x19
    (u.g.split s.entry).map (·.pc) = some (s.cur.pc + 4#64) ∧
    (u.quiet = true → b ≠ 0 → ∃ t, exec (.trap n) s = .next t ∧
      let cell := fun (o : Nat) => Store.get (t.g.bankOf b).cells o
      cell 0x00 = 0x19#64 ∧ cell 0x01 = n.setWidth 64 ∧ cell 0x05 = s.act.setWidth 64 ∧ cell 0x07 = (encode (.trap n)).setWidth 64 ∧
      (∀ e k, e < 4 → k < 5 → cell (0x10 + 8 * e + k) = splWord (u.g.split e) k) ∧
      t.entry = 0 ∧ (t.g.split 0).map (fun x => (x.pc, x.mask)) = some (sext57 (Store.get (s.g.bankOf b).cells 0x30), s.g.ownLanes) ∧
      (∀ e, 1 ≤ e → e < 4 → t.g.split e = none) ∧ t.g.bank = b ∧ t.g.level = b - 1 ∧ t.g.mode = 0x20#32 ||| (s.g.mode &&& 0x4000#32) ∧
      KeepsRegs s t [] ∧ KeepsPreds s t) ∧
    (u.quiet = false → ∃ t, exec (.trap n) s = .next t ∧ t.mayIssue = false ∧ KeepsRest s t ∧ KeepsRegs s t [] ∧ KeepsPreds s t ∧
      t.g.outer = { s.g.outer with trap := t.g.trap } ∧
      t.g.trap.map (fun r => (r.cause, r.val, r.async, r.entry)) = some (0x19, n.setWidth 64, false, s.entry)) ∧
    (u.quiet = true → b = 0 → ∃ t, exec (.trap n) s = .next t ∧
      if s.g.ctx = 0#12 then t.fw.stopped = true else t.isLive s.g.ctx = false)) ∧
  (∀ (s : State), s.issues .tret = true →
    let k := s.g.bankOf s.g.bank
    let st := Store.get k.cells 0x03
    (s.g.bank = 0 ∨ s.g.converged = false → exec .tret s = .next ((s.start .tret).raise .tret 0x01 ((encode .tret).setWidth 64))) ∧
    (s.g.bank ≠ 0 → s.g.converged = true → tstatBad s.g.bank st.toNat = true ∨ tsplBad k.cells = true →
      exec .tret s = .next ((s.start .tret).raise .tret 0x04 st)) ∧
    (s.g.bank ≠ 0 → s.g.converged = true → tstatBad s.g.bank st.toNat = false → tsplBad k.cells = false →
      s.g.log = [] → s.g.owed = [] → k.log = [] → k.win.wsp ≤ s.g.win.wsp →
      ∃ t, exec .tret s = .next t ∧ KeepsRest s t ∧ KeepsRegs s t [] ∧ KeepsPreds s t ∧
        (∀ n, n < 4 → t.g.split n = splOf (s.g.mode &&& 0x4000#32) fun j => Store.get k.cells (0x10 + 8 * n + j)) ∧
        t.g.parked = k.parked ∧ t.g.win = k.win ∧ t.g.latch = k.latch ∧ t.g.log = [] ∧
        t.g.mode = (BitVec.ofNat 32 (st.toNat % 2 ^ 14)) ||| (s.g.mode &&& 0x4000#32) ∧
        t.g.level = st.toNat / 2 ^ 15 % 4 ∧ t.g.bank = st.toNat / 2 ^ 17 % 4 ∧ (t.g.bankOf s.g.bank).cells = k.cells))

/-- R344, R345: CSRR writes the register to the GUARD lanes, a 64-bit register to a pair; the registers of the map stand where the map says, the identity of the group as
R127 lays it out, the lease lengths (R163), the error counters (R436), the forecast and its limit (R438), and the event counters and selectors of the issuing core and of
the controller that MCSEL names (R445).

R344, R345, R347: CSRW takes its value in the lowest GUARD lane that is no helper, or writes nothing where there is none; a value that sets a
reserved bit traps with 0x02 and TVAL = the value; else the register reads back the value, TSTAT but for its read-only fields. -/
def Obligations.SpecialRegisters : Prop :=
  (∀ (s : State) (d : Reg) (c : BitVec 12),
    (csrWide c = true → Computes64 (.csrr d c) s d always fun u l => u.csrGet c.toNat l) ∧
    (csrWide c = false → Computes32 (.csrr d c) s d always fun u l => (u.csrGet c.toNat l).setWidth 32) ∧
    (∀ l, s.csrGet 0x001 l = s.g.tidx.setWidth 64 ∧ s.csrGet 0x002 l = BitVec.ofNat 64 l ∧ s.csrGet 0x003 l = s.g.helper.setWidth 64 ∧
      s.csrGet 0x004 l = s.g.yreq ∧ s.csrGet 0x005 l = s.g.parkc ∧ s.csrGet 0x006 l = s.g.win.wsp.setWidth 64 ∧
      s.csrGet 0x007 l = s.g.win.wsl.setWidth 64 ∧ s.csrGet 0x008 l = s.dev.time ∧ s.csrGet 0x009 l = s.g.stat.setWidth 64 ∧
      s.csrGet 0x400 l = s.dev.tdlg.setWidth 64 ∧ s.csrGet 0x401 l = s.dev.ygrace.setWidth 64 ∧ s.csrGet 0x402 l = s.dev.ctxb ∧
      s.csrGet 0x403 l = s.dev.orph ∧ s.csrGet 0x404 l = s.dev.dropc ∧ s.csrGet 0x430 l = s.dev.thfc ∧ s.csrGet 0x431 l = s.dev.thlim.setWidth 64 ∧
      s.csrGet 0x450 l = s.dev.mcsel.setWidth 64) ∧
    (∀ l, let v := (s.csrGet 0x000 l).toNat
      v / 2 ^ 52 = s.g.ctx.toNat ∧ v / 2 ^ 44 % 2 ^ 8 = s.g.inc.toNat ∧ v / 2 ^ 36 % 2 ^ 8 = s.g.lslot.toNat ∧ v / 2 ^ 26 % 2 ^ 10 = s.g.core % 2 ^ 10 ∧
      v / 2 ^ 20 % 2 ^ 6 = s.g.slot % 2 ^ 6 ∧ v / 2 ^ 15 % 2 ^ 5 = s.g.gidx.toNat ∧ v / 2 ^ 13 % 2 ^ 2 = s.g.gang.toNat ∧ v % 2 ^ 13 = 0) ∧
    (∀ k l, let m := 4 * (s.dev.mcsel.toNat % 2 ^ 8)
      (k < 4 → s.csrGet (0x408 + k) l = (Store.get s.dev.lease k).setWidth 64 ∧ s.csrGet (0x451 + k) l = (Store.get s.dev.mevsel (m + k)).setWidth 64 ∧
        s.csrGet (0x455 + k) l = Store.get s.dev.mevcnt (m + k)) ∧
      (k < 10 → s.csrGet (0x420 + k) l = Store.get s.dev.errs (0x420 + k)) ∧
      (k < 8 → s.csrGet (0x440 + k) l = (Store.get s.dev.evsel (8 * s.g.core + k)).setWidth 64 ∧ s.csrGet (0x448 + k) l = Store.get s.dev.evcnt (8 * s.g.core + k))) ∧
    (∀ b o l, 1 ≤ b → b ≤ 3 → o < 0x100 → o ≠ 2 → s.csrGet (0x100 * b + o) l =
      if o = 3 then Store.get (s.g.bankOf b).cells 3 &&& 0x3FFFFFF#64 else Store.get (s.g.bankOf b).cells o) ∧
    (∀ b l, 1 ≤ b → b ≤ 3 → s.csrGet (0x100 * b + 2) l =
      ((Store.get (s.g.bankOf b).cells (0x10 + 8 * ((Store.get (s.g.bankOf b).cells 3).toNat / 2 ^ 19 % 4))).setWidth 57).setWidth 64)) ∧
  (∀ (s : State) (d : Reg) (c : BitVec 12), s.issues (.csrw d c) = true →
    let u := s.start (.csrw d c)
    (s.issuer = none → ∃ t, exec (.csrw d c) s = .next t ∧ OnlyWrote s t []) ∧
    (∀ l, s.issuer = some l → c.toNat < 0x400 ∨ s.accessesDone = true →
      let v := u.csrValue d c l
      if u.csrBad c.toNat v = true then exec (.csrw d c) s = .next (u.raise (.csrw d c) 0x02 v)
      else ∃ t, exec (.csrw d c) s = .next t ∧ KeepsRest s { t with dev := s.dev } ∧ KeepsRegs s t [] ∧ KeepsPreds s t ∧ GoesOn s t ∧
        t.csrGet c.toNat 0 = (if c.toNat % 0x100 = 3 then (v &&& 0x0207FFFF#64) ||| (s.csrGet c.toNat 0 &&& 0x01F80000#64) else v) ∧
        (c.toNat < 0x400 → t.dev.uncounted = s.dev.uncounted) ∧ (0x400 ≤ c.toNat → t.g.outer = s.g.outer) ∧
        { t.g.outer with bankA := s.g.bankA, bankS := s.g.bankS, bankF := s.g.bankF, win := s.g.win } = s.g.outer))

/-! ## Contexts, translation and the management core (R358–R367) -/

/-- R359, R361–R364: CTXSTART, CTXKILL and RCFENCE check their context word in the issuing lane, trap where it or the context's entry is refused, give
0x0100_0000 where there is nothing to start or to kill, and else act: CTXSTART makes the pair of its word Live with what the entry at CTXB holds (an entry in poisoned
memory rolls the context back, or traps: R433), CTXKILL advances the incarnation and ends the groups, teams, engine commands, landings and launches of the context;
the GUARD lanes of d take the result. Without an issuing lane they have no effect (R344). RCFENCE holds its split while a request, command, sequence, landing, packet,
outside write, pool write or dirty word of the draining pair is left, and then leaves the pair no longer Draining; one that held ends when its pair has become
Unused meanwhile, whatever started since (the model keeps which pair it holds for: log 109).

R361, R363: a kill of a Live context advances its incarnation and leaves the old pair Draining; no group, team, engine command or landing of the
context is left, and its launches have ended. -/
def Obligations.Contexts : Prop :=
  (∀ (s : State) (d a : Reg) (l : Nat),
    let traps := fun (i : Instr) (c : Nat) (v : W64) => exec i s = .next ((s.start i).raise i c v)
    let gives := fun (i : Instr) (v : W32) (ctxs : List Ctx) => ∃ t, exec i s = .next t ∧ OnlyWrote s { t with ctxs := s.ctxs } ((s.start i).places d false) ∧
      Wrote (s.start i) t d (fun _ => v) ∧ t.ctxs = ctxs
    (∀ i ∈ [.ctxstart d a, .ctxkill d a, .rcfence d a], s.issues i = true → s.issuer = none → ∃ t, exec i s = .next t ∧ OnlyWrote s t []) ∧
    (s.issues (.ctxstart d a) = true → s.issuer = some l →
      let i := Instr.ctxstart d a
      let w := (s.start i).rd a l
      let c := w.setWidth 12
      let j := w.extractLsb' 12 8
      if w.toNat / 2 ^ 20 ≠ 0 then traps i 0x02 (w.setWidth 64)
      else if c = 0#12 ∧ s.g.level ≠ 2 then traps i 0x03 (w.setWidth 64)
      else if s.drains c j = true then traps i 0x18 (w.setWidth 64)
      else if s.isLive c = true then gives i 0x01000000#32 s.ctxs
      else if s.entryPoisoned c = true then
        (match (s.start i).eatPoison s.g.ctx with
         | (v, true) => exec i s = .next v
         | (v, false) => exec i s = .next (v.raise i 0x10 (s.dev.ctxb + 64#64 * c.setWidth 64)))
      else match (s.start i).readEntry c j with
        | none => traps i 0x02 (s.dev.ctxb + 64#64 * c.setWidth 64)
        | some x => gives i (0x80000000#32 ||| j.setWidth 32) ((s.ctxs.filter fun y => decide (y.c ≠ c)) ++ [x])) ∧
    (∀ c j x, s.readEntry c j = some x →
      let at_ := s.dev.ctxb.toNat + 64 * c.toNat
      x.c = c ∧ x.cur = j ∧ x.live = true ∧ x.root = s.m.homeRead at_ 8 ∧ x.root % 4096 = 0 ∧ x.ring = s.m.homeRead (at_ + 32) 8 ∧ x.ring % 4096 = 0 ∧
      x.notify = decide (s.m.homeRead (at_ + 40) 4 / 2 ^ 31 = 1) ∧ x.report = s.m.homeRead (at_ + 40) 4 % 32 ∧
      (∀ q, q < 4 → (x.chips[q]?).map (·.toNat) = some (s.m.homeRead (at_ + 16 + 4 * q) 4 % 2 ^ 32)) ∧ x.poisoned = false ∧ x.rolling = false) ∧
    (s.issues (.ctxkill d a) = true → s.issuer = some l →
      let i := Instr.ctxkill d a
      let w := (s.start i).rd a l
      let c := w.setWidth 12
      if w.toNat / 2 ^ 12 ≠ 0 then traps i 0x02 (w.setWidth 64)
      else if c = 0#12 ∨ c = s.g.ctx then traps i 0x09 (w.setWidth 64)
      else if s.isLive c = false then gives i 0x01000000#32 s.ctxs
      else ∀ x, s.ctx c = some x → ∃ t, exec i s = .next t ∧ t.cur.pc = s.cur.pc + 4#64 ∧ t.cur.mask = s.cur.mask ∧
        (∀ p k, (s.start i).g.regPlace d = some p → k < 32 → s.grd.getLsbD k = true →
          t.g.getPlace p k = 0x80000000#32 ||| (x.cur ++ (x.cur + 1#8) : BitVec 16).setWidth 32) ∧
        (t.ctx c).map (fun y => (y.live, y.cur)) = some (false, x.cur + 1#8) ∧ t.drains c x.cur = true ∧
        (∀ g ∈ t.groups, g.present = true → g.ctx ≠ c) ∧ (∀ y ∈ t.teams, y.ctx ≠ c) ∧ (∀ y ∈ t.eng.cmds, y.ctx ≠ c) ∧ (∀ y ∈ t.eng.landings, y.ctx ≠ c) ∧
        (∀ y ∈ t.launches, y.ctx = c → y.st = .ended)) ∧
    (s.issues (.rcfence d a) = true → s.issuer = some l →
      let i := Instr.rcfence d a
      let w := (s.start i).rd a l
      let c := w.setWidth 12
      let j := w.extractLsb' 12 8
      let mine := fun (f : Fencer) => f.gid = s.g.gid ∧ f.entry = s.entry ∧ f.bank = s.g.bank
      let ended := fun (f : Fencer) => if f.inc = j then { f with ended := true } else f
      let me : Fencer := { gid := s.g.gid, entry := s.entry, bank := s.g.bank, inc := j, ended := false }
      ((∀ y ∈ s.ctxs, ∀ f ∈ y.fencers, ¬mine f) →
        (w.toNat / 2 ^ 20 ≠ 0 → traps i 0x02 (w.setWidth 64)) ∧
        (w.toNat / 2 ^ 20 = 0 → s.liveTag c j = true → s.drains c j = false → traps i 0x18 (w.setWidth 64)) ∧
        (w.toNat / 2 ^ 20 = 0 → s.liveTag c j = false → s.drains c j = false ∨ NothingLeft s c j →
          gives i 0x80000000#32 (s.ctxs.map fun y =>
            if y.c = c then { y with draining := y.draining.filter (fun k => decide (k ≠ j)), fencers := y.fencers.map ended } else y)) ∧
        (w.toNat / 2 ^ 20 = 0 → s.drains c j = true → ¬NothingLeft s c j → ∃ t, exec i s = .next t ∧ KeepsRest s { t with ctxs := s.ctxs } ∧
          KeepsGroup s t ∧ KeepsRegs s t [] ∧ KeepsPreds s t ∧ GoesTo s t s.cur.pc ∧ t.cur.wait = .holding true ∧
          t.ctxs = s.ctxs.map fun y => if y.c = c then { y with fencers := y.fencers ++ [me] } else y)) ∧
      (∀ y f, y ∈ s.ctxs → f ∈ y.fencers → mine f → f.ended = true → (∀ z ∈ s.ctxs, ∀ k ∈ z.fencers, mine k → z = y ∧ k = f) →
        gives i 0x80000000#32 (s.ctxs.map fun z => { z with fencers := z.fencers.filter fun k => decide ((k.gid, k.entry, k.bank) ≠ (s.g.gid, s.entry, s.g.bank)) })))) ∧
  (∀ (s : State) (c : BitVec 12) (x : Ctx),
    s.ctx c = some x → x.live = true →
      (∃ y, (s.kill c).ctx c = some y ∧ y.live = false ∧ y.cur = x.cur + 1#8 ∧ x.cur ∈ y.draining) ∧
      (∀ g ∈ (s.kill c).groups, g.present = true → g.ctx ≠ c) ∧ (∀ t ∈ (s.kill c).teams, t.ctx ≠ c) ∧
      (∀ k ∈ (s.kill c).eng.cmds, k.ctx ≠ c) ∧ (∀ k ∈ (s.kill c).eng.landings, k.ctx ≠ c) ∧ (∀ k ∈ (s.kill c).m.tlb, k.glob = true ∨ k.ctx ≠ c) ∧
      (∀ k ∈ (s.kill c).launches, k.ctx = c → k.st = .ended))

/-- R358, R365, R367: once its waits are over TLBINV removes the cached translations its selector names (those of an address or of a context, where kind 0 takes
the global ones of the address too: log 35; the global ones; all) and the walk caches' entries with them, and traps on a reserved selector or a non-canonical
address; ERES resumes or ends the held command or matrix queue of a tag, gives 0x0100_0000 where none is held, and traps on a reserved value; HALT stops the
management core and is a privilege trap elsewhere. The order of ERES's TVAL values is log 57's choice, that TLBINV and ERES without an issuing lane have no effect log
43's, and that a streamer command resumed while four others run is Queued, where R358 says Running, log 98's. -/
def Obligations.TranslationEngineAndHalt : Prop := ∀ (s : State) (d a b : Reg) (l : Nat),
  let rest := fun (u t : State) => KeepsRest u { t with m := u.m, fw := u.fw } ∧ KeepsGroup u t ∧ KeepsRegs u t [] ∧ KeepsPreds u t ∧ GoesOn u t
  (s.issues (.tlbinv a b) = true → s.issuer = none → ∃ t, exec (.tlbinv a b) s = .next t ∧ OnlyWrote s t []) ∧
  (s.issues (.tlbinv a b) = true → s.issuer = some l → (s.start (.tlbinv a b)).tlbGo a b = true →
    let u := s.start (.tlbinv a b)
    let va := u.rd64 a l
    let sel := u.rd b l
    let kind := sel.toNat / 2 ^ 29
    if 3 < kind ∨ sel.toNat / 2 ^ 12 % 2 ^ 17 ≠ 0 ∨ (2 ≤ kind ∧ sel.toNat % 2 ^ 12 ≠ 0) then
      exec (.tlbinv a b) s = .next (u.raise (.tlbinv a b) 0x02 (sel.setWidth 64))
    else if kind = 0 ∧ canonical va = false then exec (.tlbinv a b) s = .next (u.raise (.tlbinv a b) 0x09 va)
    else ∃ t, exec (.tlbinv a b) s = .next t ∧ rest s t ∧ t.fw = s.fw ∧ t.m = { s.m with tlb := t.m.tlb, tables := t.m.tables } ∧
      (∀ e, e ∈ t.m.tlb ↔ e ∈ s.m.tlb ∧ ¬(match kind with
        | 0 => (e.glob = true ∨ e.ctx = sel.setWidth 12) ∧ e.maps va = true
        | 1 => e.glob = false ∧ e.ctx = sel.setWidth 12
        | 2 => e.glob = true
        | _ => True)) ∧
      (∀ e, e ∈ t.m.tables ↔ e ∈ s.m.tables ∧ ¬(match kind with
        | 0 => e.ctx = sel.setWidth 12 ∧ e.vpn = va.toNat / pageBytes e.level
        | 1 => e.ctx = sel.setWidth 12
        | 2 => False
        | _ => True))) ∧
  (s.issues (.eres d a b) = true → s.issuer = none → ∃ t, exec (.eres d a b) s = .next t ∧ OnlyWrote s t []) ∧
  (s.issues (.eres d a b) = true → s.issuer = some l →
    let i := Instr.eres d a b
    let u := s.start i
    let w := u.rd a l
    let fin := (u.rd b l).getLsbD 0
    let acts := fun (f : State → Prop) => ∃ t, exec i s = .next t ∧ t.cur.pc = s.cur.pc + 4#64 ∧ t.cur.mask = s.cur.mask ∧ KeepsPreds s t ∧ f t ∧
      ∀ p k, u.g.regPlace d = some p → k < 32 → s.grd.getLsbD k = true → t.g.getPlace p k = 0x80000000#32
    if w.toNat / 2 ^ 30 = 3 ∨ w.toNat / 2 ^ 4 % 2 ^ 10 ≠ 0 then exec i s = .next (u.raise i 0x02 (w.setWidth 64))
    else if (u.rd b l).toNat / 2 ≠ 0 then exec i s = .next (u.raise i 0x02 ((u.rd b l).setWidth 64))
    else if w.toNat / 2 ^ 30 = 2 then match s.heldQueue w with
      | none => ∃ t, exec i s = .next t ∧ OnlyWrote s t (u.places d false) ∧ Wrote u t d fun _ => 0x01000000#32
      | some g => acts fun t => if fin then (t.find g.gid).map (·.mqueue) = some [] else (t.find g.gid).map (·.mheld) = some 0
    else match s.heldCmd w with
      | none => ∃ t, exec i s = .next t ∧ OnlyWrote s t (u.places d false) ∧ Wrote u t d fun _ => 0x01000000#32
      | some c => acts fun t => (t.cmd c.core c.k).map (·.st) =
          some (if fin then .ending else if c.walks || s.streamerFree c.core then .running else .queued)) ∧
  (s.issues .halt = true → s.g.core ≠ mgmtCore → exec .halt s = .next ((s.start .halt).raise .halt 0x03 ((encode .halt).setWidth 64))) ∧
  (s.issues .halt = true → s.g.core = mgmtCore → s.accessesDone = true →
    ∃ t, exec .halt s = .next t ∧ rest s t ∧ t.m = s.m ∧ t.fw = { s.fw with halted := true } ∧ t.mayIssue = false)

/-! ## Memory (R182–R219) -/

/-- R203, R204, R206, R208: a memory instruction whose operand fields fit MODE issues: the lanes that take part are the GUARD lanes of a load, and those that are
no helpers of a store or an atomic. Where none of their accesses fails a check, parks or waits, each lane has its request at its place with its data (a weak
access of 8 bytes two requests of 4), all pending in a new log entry, the destination is owed, and the split goes on at the next word; no register, no
predicate and nothing outside the memory system, its fabric and the checkpoint logs has changed. Where a field does not fit MODE it is an illegal instruction. -/
def Obligations.MemoryAccessesIssue : Prop := ∀ (s : State) (d a b : Reg) (o : BitVec 9) (n : BitVec 4) (p : BitVec 3), NamesGiven s →
  let global := fun (r : Reg) (k : Nat) (u : State) (l : Nat) => u.rd64 r l + (o.signExtend 64) * BitVec.ofNat 64 k
  let local_ := fun (r : Reg) (k : Nat) (u : State) (l : Nat) => (u.rd r l + (o.signExtend 32) * BitVec.ofNat 32 k).setWidth 64
  let plain := fun (r : Reg) (_ : Nat) (u : State) (l : Nat) => u.rd64 r l
  let claims := fun (i : Instr) (dst : Option Reg) (kind : ReqKind) (addr : Nat → State → Nat → W64) (data : State → Nat → W64) =>
    s.issues i = true →
      let u := s.start i
      if u.memLegal i = false then exec i s = .next (u.raise i 0x01 ((encode i).setWidth 64))
      else ∀ sp, accSpec i s.md = some sp →
        let m := if kind = .load then u.grd else u.grd &&& ~~~u.g.helpers
        let where_ := (match dst with | some r => u.g.dst r (decide (u.w = 64)) | none => .none : Dst)
        let ts := (u.targets u.g i sp (byLane m (addr (u.w / 8) u)) (lanesOf m)).2
        (∀ x ∈ ts, match x.2 with | .ok .. | .pair .. => True | _ => False) →
          ∃ t, exec i s = .next t ∧ KeepsRest s { t with m := s.m, fab := s.fab, ck := s.ck } ∧ KeepsRegs s t [] ∧ KeepsPreds s t ∧ GoesOn s t ∧
            t.g.outer = { s.g.outer with log := t.g.log } ∧ t.m.reqs.take s.m.reqs.length = s.m.reqs ∧
            (let new := t.m.reqs.drop s.m.reqs.length
             new.map (fun r => (r.lane, r.half, r.space, r.key, r.ms, r.size, r.val)) = ts.flatMap (fun x =>
               let v := data u x.1
               match x.2 with
               | .ok q key _ ms =>
                 if sp.size = 8 ∧ sp.strength = .weak ∧ kind ≠ .atomic then
                   [(x.1, 0, q, key, ms, 4, v &&& 0xFFFFFFFF#64), (x.1, 1, q, key + 4, ms, 4, v >>> 32)]
                 else [(x.1, 0, q, key, ms, sp.size, v)]
               | .pair lo hi => [(x.1, 0, .vm, lo.1, lo.2.2, 4, v &&& 0xFFFFFFFF#64), (x.1, 1, .vm, hi.1, hi.2.2, 4, v >>> 32)]
               | _ => []) ∧
             ∀ r ∈ new, r.kind = kind ∧ r.gid = s.g.gid ∧ r.log = u.seq ∧ r.accepted = false ∧ r.performed = false) ∧
            (m = 0#32 → t.g.log = s.g.log) ∧
            (m ≠ 0#32 → (∃ e, t.g.log = s.g.log ++ [e] ∧ e.seq = u.seq ∧ e.i = i ∧ e.mode = s.md ∧ e.pend = m ∧ e.flight = m ∧ e.dst = where_ ∧
                ∀ l, l < 32 → m.getLsbD l = true → Store.get e.addr l = addr (u.w / 8) u l ∧ Store.get e.val l = data u l) ∧
              ∀ q ∈ where_.places, ∃ w ∈ t.g.owed, w.id = u.seq ∧ w.place = q ∧ (q < 1024 → w.lanes = m)) ∧
            ∀ w ∈ s.g.owed, w ∈ t.g.owed
  let dat := fun (r : Reg) (u : State) (l : Nat) => if u.w = 64 then u.rd64 r l else BitVec.ofNat 64 ((u.rd r l).toNat % 2 ^ u.w)
  let nil := fun (_ : State) (_ : Nat) => 0#64
  claims (.ld d b o n) (some d) .load (global b) nil ∧ claims (.st d b o n) none .store (global b) (dat d) ∧
  claims (.ldStr d b o n) (some d) .load (global b) nil ∧ claims (.stStr d b o n) none .store (global b) (dat d) ∧
  claims (.ldAcq d b o n) (some d) .load (global b) nil ∧ claims (.stRel d b o n) none .store (global b) (dat d) ∧
  claims (.ldh d b o n) (some d) .load (global b) nil ∧
  claims (.lds d b o n) (some d) .load (local_ b) nil ∧ claims (.sts d b o n) none .store (local_ b) (dat d) ∧
  claims (.ldc d b o n) (some d) .load (local_ b) nil ∧ claims (.stc d b o n) none .store (local_ b) (dat d) ∧
  claims (.ldx d b o n) (some d) .load (local_ b) nil ∧ claims (.stx d b o n) none .store (local_ b) (dat d) ∧
  claims (.ldl d b o n) (some d) .load (local_ b) nil ∧ claims (.stl d b o n) none .store (local_ b) (dat d) ∧
  claims (.amo d a b n p) (some d) .atomic (plain a) (dat b) ∧ claims (.amos d a b n p) (some d) .atomic (plain a) (dat b) ∧
  claims (.red a b n p) none .atomic (plain a) (dat b) ∧ claims (.cas d a b n) (some d) .atomic (plain a)
    (fun u l => if b = 63#6 then 0#64 else if u.w = 64 then u.rd64 (b + 2#6) l else (u.rd (b + 1#6) l).setWidth 64)

/-- R153, R154, R160, R161, R205: the first two checks of a lane: a misaligned address, then an offset outside its space; and where the lanes of the
scratchpad, of the chip scratchpad and of global memory go.

R205, R206: the pending lanes of a logged access of the scratchpad whose checks pass become requests, in ascending lane order, with their places,
values and sizes (an 8-byte access two halves of 4 bytes, R180); where the lowest lane fails alone, the group traps as R205 claims. -/
def Obligations.AccessesStart : Prop :=
  (∀ (s : State) (g : Group) (i : Instr) (p : AccSpec) (l : Nat) (a : W64), 0 < p.size →
    (a.toNat % p.size ≠ 0 → s.target g i p l a = (s, .bad 1 0x05 a 0)) ∧
    (a.toNat % p.size = 0 → p.fam = .slice → pktSlice (s.packetOf g) ≤ a.toNat → s.target g i p l a = (s, .bad 2 0x09 a 0)) ∧
    (a.toNat % p.size = 0 → p.fam = .scratch → s.scratchPlace g a.toNat = none → s.target g i p l a = (s, .bad 2 0x09 a 0)) ∧
    (∀ t, s.teamOf g = some t → a.toNat % p.size = 0 → p.fam = .scratch → a.toNat < t.size → a.toNat < 0x40000 →
      (p.kind ≠ .store ∨ s.armedIn g.tid a.toNat p.size = none) →
        s.target g i p l a = (s, .ok .scratch (0x40000 * g.core + t.base + a.toNat) a false)) ∧
    (∀ t k, s.teamOf g = some t → a.toNat % p.size = 0 → p.fam = .scratch → a.toNat < t.size → a.toNat < 0x40000 → p.kind = .store →
      s.armedIn g.tid a.toNat p.size = some k → s.target g i p l a = (s, .bad 6 0x11 (BitVec.ofNat 64 k) 0)) ∧
    (a.toNat % p.size = 0 → p.fam = .chip →
      let w := s.chipWin g.ctx (g.core / 64)
      s.target g i p l a = (s, if a.toNat < w.2 then .ok .chip (0x2000000 * (g.core / 64) + w.1 + a.toNat) a false else .bad 2 0x09 a 0)) ∧
    (a.toNat % p.size = 0 → p.fam = .global → canonical a = false → s.target g i p l a = (s, .bad 3 0x09 a 0)) ∧
    (a.toNat % p.size = 0 → p.fam = .global → s.target g i p l a = s.globalTarget g i p.acc (g.helpers.getLsbD l) a)) ∧
  (∀ (s : State) (e : LogEntry) (p : AccSpec) (place : Nat → Nat),
    s.g.entryOf e.seq = some e → accSpec e.i e.mode = some p → p.fam = .scratch → e.flight = 0#32 →
    ((∀ l ∈ lanesOf e.pend, (s.target s.g e.i p l (Store.get e.addr l)).2 = .ok .scratch (place l) (Store.get e.addr l) false) →
      let t := s.launchLog e.seq
      let new := t.m.reqs.drop s.m.reqs.length
      t.m.reqs.take s.m.reqs.length = s.m.reqs ∧ t.onchip = s.onchip ∧ t.m.mem = s.m.mem ∧ t.g.vregs = s.g.vregs ∧ t.g.uregs = s.g.uregs ∧
      new.map (fun r => (r.lane, r.key, r.size, r.val, r.half)) = (lanesOf e.pend).flatMap (fun l =>
        if p.size = 8 then [(l, place l, 4, Store.get e.val l &&& 0xFFFFFFFF#64, 0), (l, place l + 4, 4, Store.get e.val l >>> 32, 1)]
        else [(l, place l, p.size, Store.get e.val l, 0)]) ∧
      (∀ r ∈ new, r.kind = p.kind ∧ r.space = .scratch ∧ r.gid = s.g.gid ∧ r.log = e.seq ∧ r.accepted = false ∧ r.performed = false) ∧
      (t.g.entryOf e.seq).map (·.flight) = some e.pend) ∧
    (∀ c v, s.g.helpers = 0#32 → lanesOf e.pend = [c] → (s.target s.g e.i p c (Store.get e.addr c)).2 = .bad 1 0x05 v 0 →
      s.launchLog e.seq = s.report { cause := 0x05, async := false, val := v, ins := encode e.i, fmask := laneBit c, wdet := 0,
                                     logged := some e.id, entry := e.entry }))

/-- R182, R183: a write of a word or less, or of an aligned 8-byte place word by word, at a home whose line no staging cache has: the bytes of each word
whose representative it replaces take the value, and every other byte reads as before. At a home of the base die each write replaces. A write narrower than a word
replaces by the record of its whole word (the model's choice: log 71); one to the checkpoint store has no effect (R421, log 105).

R157, R182, R206, R388: WRITE_PERFORM of a store to an on-chip memory: once its home accepts it and nothing of its lanes is to come first, its bytes are written
and every other byte of every on-chip memory is as it was, and so is DRAM; the request is gone, and with it leave those of the same store that name its word. A store
to DRAM performs at its home in the same way when its turn at its line has come (the order of arrival: R388). A stale request is dropped and counted (R360), but not
while a sleeping stack holds it (R298). A store that meets a slot armed since its issue is not performed: its group traps with 0x11 and the slot's number (R213; the
model stops each word by itself: log 97). -/
def Obligations.WritesPerform : Prop :=
  (∀ (s : State) (c : BitVec 12) (w : Writer) (ms : Bool) (pa n v a : Nat),
    (1 ≤ n ∧ pa % 4 + n ≤ 4) ∨ (n = 8 ∧ pa % 8 = 0) → (AtHome s ms pa → (s.performWrite c w ms pa n v).m.homeByte a =
        if pa ≤ a ∧ a < pa + n ∧ (ms = true ∨ s.replaces w (a / 4) = true) then BitVec.ofNat 8 (v / 256 ^ (a - pa)) else s.m.homeByte a) ∧
      (inStore pa = true → s.m.dirOf (lineOf pa) = none → s.performWrite c w ms pa n v = s)) ∧
  (∀ (s : State) (rid : Nat) (r : Req),
    let taken := r.accepted = true ∨ (s.liveTag r.ctx r.inc = true ∧ s.reqWaits r = false ∧ s.armedHit r = none ∧ (r.space = .vm → s.stackHeld r.key = false))
    let shares := fun (q : Req) => q.kind = .store ∧ q.space = r.space ∧ q.gid = r.gid ∧ q.log = r.log ∧ q.key / 4 = r.key / 4
    s.m.reqs.find? (fun q => decide (q.rid = rid)) = some r → (∀ q ∈ s.m.reqs, q.rid = rid → q = r) → r.kind = .store →
    (r.space ≠ .vm → taken → s.placeReady r = true → s.reqBlocked r = false →
      ∃ t, exec (.writePerform rid) s = .next t ∧ t.m.mem = s.m.mem ∧ (∀ q ∈ t.m.reqs, q.rid ≠ rid) ∧ ∀ q ∈ s.m.reqs, shares q → ∀ x ∈ t.m.reqs, x.rid ≠ q.rid) ∧
    (r.space ≠ .vm → taken → s.placeReady r = true → s.reqBlocked r = false → (∀ q ∈ s.m.reqs, shares q → q = r) →
      ∃ t, exec (.writePerform rid) s = .next t ∧
        ∀ p a, p ≠ .vm → t.onchip.byte p a =
          if p = r.space ∧ r.key ≤ a ∧ a < r.key + r.size then BitVec.ofNat 8 (r.val.toNat / 256 ^ (a - r.key)) else s.onchip.byte p a) ∧
    (r.space = .vm → taken → s.placeReady r = true → s.reqBlocked r = false →
      (if r.accepted = true then s.turnOf r else s.lineTurn (lineOf r.key) 0) = true →
      (1 ≤ r.size ∧ r.key % 4 + r.size ≤ 4) ∨ (r.size = 8 ∧ r.key % 8 = 0) → AtHome s r.ms r.key →
      ∃ t, exec (.writePerform rid) s = .next t ∧ t.onchip = s.onchip ∧ (∀ q ∈ t.m.reqs, q.rid ≠ rid) ∧
        ∀ a, t.m.homeByte a = if r.key ≤ a ∧ a < r.key + r.size ∧ (r.ms = true ∨ s.replaces r.writer (a / 4) = true)
          then BitVec.ofNat 8 (r.val.toNat / 256 ^ (a - r.key)) else s.m.homeByte a) ∧
    (r.accepted = false → s.liveTag r.ctx r.inc = false → (r.space = .vm → s.stackHeld r.key = false) →
      ∃ t, exec (.writePerform rid) s = .next t ∧ t.dev.dropc = s.dev.dropc + 1 ∧ (∀ q ∈ t.m.reqs, q.rid ≠ rid) ∧ t.onchip = s.onchip ∧ t.m.mem = s.m.mem) ∧
    (r.accepted = false → r.space = .vm → s.stackHeld r.key = true → exec (.writePerform rid) s = .next s.met) ∧
    (∀ x g e, (∀ q ∈ s.m.reqs, shares q → q = r) → s.armedHit r = some x → r.accepted = false → s.liveTag r.ctx r.inc = true → s.reqWaits r = false → s.find r.gid = some g →
      g.entryOf r.log = some e → g.trap = none →
      ∃ t u, exec (.writePerform rid) s = .next t ∧ t.onchip = s.onchip ∧ t.m.mem = s.m.mem ∧ t.find r.gid = some u ∧
        u.trap.map (fun y => (y.cause, y.val, y.fmask)) = some (0x11, BitVec.ofNat 64 x.slot, laneBit r.lane)))

/-- R194, R206, R216, R217: ATOMIC_PERFORM of an atomic that may perform: the representative takes the operator's result of the old value and the operand,
but for a CAS whose compare fails; every other byte is as it was; the old value is kept for the response, and a RED, which has none, leaves. The lane of a RED is
complete when it performs, or when its home accepts it to wait there. The operators on integers of 32 and 64 bits, on f32 and on f64.

R32, R157, R187, R188, R206, R360: LOAD_RESPONSE of a load that no own store is before, of an on-chip memory or of a line that no agent holds: its register takes the
bytes at the home, extended as its element type claims, and with it leave the loads that the same pass serves; a response of an atomic gives the old value. -/
def Obligations.LoadsAndAtomicsPerform : Prop :=
  (∀ (s : State) (rid : Nat) (r : Req),
    let old := s.m.homeRead r.key r.size
    let new := homeAmo r.elt r.op old r.val.toNat r.cmp.toNat
    let fails := r.op = 7#3 ∧ old ≠ r.cmp.toNat
    (s.m.reqs.find? (fun q => decide (q.rid = rid)) = some r → r.kind = .atomic → r.space = .vm → r.performed = false → s.liveTag r.ctx r.inc = true →
      s.reqWaits r = false → s.stackHeld r.key = false → (∃ g e, s.find r.gid = some g ∧ g.entryOf r.log = some e) →
      let red := ∃ g e a b n o, s.find r.gid = some g ∧ g.entryOf r.log = some e ∧ e.i = .red a b n o
      (s.placeReady r = true → s.turnOf r = true → s.m.poisoned r.key r.size = false → AtHome s r.ms r.key →
        (∀ x, s.m.l2Line (lineOf r.key) = some x → x.count = 0) → (r.size = 4 ∧ r.key % 4 = 0) ∨ (r.size = 8 ∧ r.key % 8 = 0) →
        ∃ t, exec (.atomicPerform rid) s = .next t ∧ t.onchip = s.onchip ∧
          (¬red → (t.m.reqs.find? (fun q => decide (q.rid = rid))).map (fun q => (q.performed, q.val)) = some (true, BitVec.ofNat 64 old)) ∧
          (red → ∀ q ∈ t.m.reqs, q.rid ≠ rid) ∧
          ∀ a, t.m.homeByte a = if r.key ≤ a ∧ a < r.key + r.size ∧ ¬fails then BitVec.ofNat 8 (new / 256 ^ (a - r.key)) else s.m.homeByte a) ∧
      (red → s.placeReady r = false ∨ s.turnOf r = false → r.lane < 32 → (∀ q ∈ s.m.reqs, q.gid = r.gid → q.log = r.log → q.lane = r.lane → q.rid = rid) →
        ∃ t, exec (.atomicPerform rid) s = .next t ∧ t.onchip = s.onchip ∧ t.m.mem = s.m.mem ∧
          (t.m.reqs.find? (fun q => decide (q.rid = rid))).map (fun q => (q.accepted, q.performed)) = some (true, false) ∧
          (r.accepted = false → ∀ h x, t.find r.gid = some h → x ∈ h.log → x.seq = r.log → x.pend.getLsbD r.lane = false)) ∧
      (red → s.placeReady r = true → s.turnOf r = true → r.lane < 32 → r.accepted = false → s.m.poisoned r.key r.size = false → s.m.dirOf (lineOf r.key) = none →
        (∀ q ∈ s.m.reqs, q.gid = r.gid → q.log = r.log → q.lane = r.lane → q.rid = rid) →
        ∃ t, exec (.atomicPerform rid) s = .next t ∧ ∀ h x, t.find r.gid = some h → x ∈ h.log → x.seq = r.log → x.pend.getLsbD r.lane = false)) ∧
    (∀ (x y c : BitVec 64), let f := fun (e : Nat) (o : BitVec 3) => homeAmo e o x.toNat y.toNat c.toNat
      (∀ e, e = 3 ∨ e = 7 → f e 0 = (x + y).toNat ∧ f e 3 = (x &&& y).toNat ∧ f e 4 = (x ||| y).toNat ∧ f e 5 = (x ^^^ y).toNat ∧ f e 6 = y.toNat ∧
        f e 7 = if x = c then y.toNat else x.toNat) ∧
      f 3 1 = (if x.sle y then x else y).toNat ∧ f 3 2 = (if x.sle y then y else x).toNat ∧
      f 7 1 = (if x ≤ y then x else y).toNat ∧ f 7 2 = (if x ≤ y then y else x).toNat) ∧
    (∀ (e : Nat) (F : FFmt) (x y c : Nat), e = 10 ∧ F = f32 ∨ e = 11 ∧ F = f64 →
      homeAmo e 0 x y c = F.rnd { rm := 0, sat := false, flush := false } false (FVal.add false (F.val x) (F.val y)) ∧
      homeAmo e 3 x y c = x &&& y ∧ homeAmo e 4 x y c = x ||| y ∧ homeAmo e 5 x y c = x ^^^ y ∧ homeAmo e 6 x y c = y ∧
      ∀ o : BitVec 3, o = 1#3 ∨ o = 2#3 → let m := homeAmo e o x y c
        ((F.val x).isNan = true → (F.val y).isNan = true → m = F.canonical) ∧ ((F.val x).isNan = true → (F.val y).isNan = false → m = y) ∧
        ((F.val x).isNan = false → (F.val y).isNan = true → m = x) ∧
        (∀ k, (F.val x).cmp (F.val y) = some k → (k < 0 → m = if o = 1#3 then x else y) ∧ (0 < k → m = if o = 1#3 then y else x))) ∧
    (∀ (x y c : BitVec 32), let f := fun (e : Nat) (o : BitVec 3) => homeAmo e o x.toNat y.toNat c.toNat
      (∀ e, e = 2 ∨ e = 6 → f e 0 = (x + y).toNat ∧ f e 3 = (x &&& y).toNat ∧ f e 4 = (x ||| y).toNat ∧ f e 5 = (x ^^^ y).toNat ∧ f e 6 = y.toNat ∧
        f e 7 = if x = c then y.toNat else x.toNat) ∧
      f 2 1 = (if x.sle y then x else y).toNat ∧ f 2 2 = (if x.sle y then y else x).toNat ∧
      f 6 1 = (if x ≤ y then x else y).toNat ∧ f 6 2 = (if x ≤ y then y else x).toNat)) ∧
  (∀ (s : State) (rid : Nat) (r : Req) (e : LogEntry) (p : Nat) (src : LoadSource),
    s.m.reqs.find? (fun q => decide (q.rid = rid)) = some r → s.g.present = true → s.g.gid = r.gid → s.g.entryOf r.log = some e → e.dst = .one p →
    (∃ o ∈ s.g.owed, o.id = r.log ∧ o.place = p ∧ o.lanes.getLsbD r.lane = true) → r.lane < 32 → s.liveTag r.ctx r.inc = true →
    (r.kind = .load → s.reqWaits r = false → s.passOf r = [r] → s.ownStores r = [] → s.readable r = true →
      (r.space = .vm → r.waited = false ∧ r.ofPool = false ∧ s.m.dirOf (lineOf r.key) = none ∧ s.m.poisoned r.key r.size = false ∧
        s.met.wild r.ctx r.va r.key = false) →
      ∃ t, exec (.loadResponse rid .home) s = .next t ∧ t.onchip = s.onchip ∧ t.m.mem = s.m.mem ∧ (∀ q ∈ t.m.reqs, q.rid ≠ rid) ∧
        (let byte := fun (a : Nat) => if r.space = .vm then s.m.homeByte a else s.onchip.byte r.space a
         t.g.getPlace p r.lane = (loadExtend r.elt (BitVec.ofNat 64 (leOf byte r.key r.size))).setWidth 32) ∧
        (p < 1024 → ∀ q l, q ≠ p ∨ l ≠ r.lane → l < 32 → t.g.getPlace q l = s.g.getPlace q l)) ∧
    (r.kind = .load → r.space = .scratch → s.reqWaits r = false → (∀ q ∈ s.passOf r, s.ownStores q = [] ∧ s.readable q = true) →
      ∃ t, exec (.loadResponse rid .home) s = .next t ∧ t.onchip = s.onchip ∧ t.m.mem = s.m.mem ∧
        ∀ q ∈ s.m.reqs, q.kind = .load → q.space = .scratch → q.gid = r.gid → q.log = r.log → q.key / 4 = r.key / 4 → ∀ x ∈ t.m.reqs, x.rid ≠ q.rid) ∧
    (r.kind = .atomic → r.performed = true →
      ∃ t, exec (.loadResponse rid src) s = .next t ∧ t.onchip = s.onchip ∧ t.m.mem = s.m.mem ∧ (∀ q ∈ t.m.reqs, q.rid ≠ rid) ∧
        t.g.getPlace p r.lane = r.val.setWidth 32) ∧
    (∀ v : W64, loadExtend 0 v = (v.setWidth 8).signExtend 64 ∧ loadExtend 1 v = (v.setWidth 16).signExtend 64 ∧ ∀ k, 2 ≤ k → loadExtend k v = v))

/-- R204, R212: PREF is a hint: it changes no register, no predicate and no on-chip memory, never traps after decode and holds no log entry.

R195, R220: FENCE joins the fences of its group and does not hold its split; those that wait for nothing more are complete at once and set the stamps, no
register, predicate or memory changes. It holds back the later accesses of its lanes in the classes it names until those before it are complete: such a write
does not perform.

R186, R197, R200, R221–R223, R280: XFENCE, PFENCE and ICINV hold their split until what they wait for is over, and change no register. XFENCE then raises the
stamp of its target; one whose paths differ publishes every dirty staging-cache word of the group where its paths ask for it, drops the clean lines of its
cluster's staging cache towards cr, cw and ms, and leaves no dirty line of HBM in L2 towards the base die; one from a path to itself changes no memory. That it
publishes every dirty word of the group, of whichever command, and cleans every such line of L2 is the model's choice (log 41). PFENCE raises the stamps, and ICINV
discards the instruction-cache lines of the cores in reach. -/
def Obligations.PrefetchesAndFences : Prop :=
  (∀ (s : State) (v : BitVec 2) (b : Reg) (o : BitVec 9), s.issues (.pref v b o) = true →
    ∃ t, exec (.pref v b o) s = .next t ∧ KeepsRest s { t with m := s.m, fab := s.fab, ck := s.ck } ∧ KeepsGroup s t ∧ KeepsRegs s t [] ∧ KeepsPreds s t ∧ GoesOn s t ∧
      t.m.reqs = s.m.reqs) ∧
  (∀ (s : State) (c : BitVec 4) (n p : BitVec 6),
    (NamesGiven s → s.issues (.fence c n p) = true →
      let u := s.start (.fence c n p)
      let f : FenceRec := { seq := u.seq, lanes := u.act, pred := p, succ := n, scope := c.toNat }
      ∃ t, exec (.fence c n p) s = .next t ∧ KeepsRest s t ∧ KeepsRegs s t [] ∧ KeepsPreds s t ∧ GoesOn s t ∧
        t.g.outer = { s.g.outer with fences := t.g.fences, ostamp := t.g.ostamp, fstamp := t.g.fstamp } ∧
        (∀ x, x ∈ t.g.fences ↔ (x ∈ s.g.fences ∨ x = f) ∧ u.fenceWaits u.g x = true) ∧
        s.g.ostamp ≤ t.g.ostamp ∧ s.g.fstamp ≤ t.g.fstamp ∧
        (u.fenceWaits u.g f = false → s.dev.time ≤ t.g.ostamp ∧ (n.getLsbD 0 = true → 4 ≤ s.scopeOf s.g c.toNat → s.dev.time ≤ t.g.fstamp))) ∧
    (∀ g f rid r, s.m.reqs.find? (fun q => decide (q.rid = rid)) = some r → s.find r.gid = some g → f ∈ g.fences → f.seq < r.log →
      f.lanes &&& r.lanes ≠ 0#32 → r.kind = .store → f.succ.getLsbD 1 = true → r.accepted = false → s.liveTag r.ctx r.inc = true →
        exec (.writePerform rid) s = .next { s.wakeAll with fresh := s.fresh + 1 })) ∧
  (∀ (s : State) (c a b : BitVec 4) (k : BitVec 2),
    let rest := fun (t : State) => KeepsRegs s t [] ∧ KeepsPreds s t ∧ GoesOn s t
    let stamps := fun (t : State) => t.g.outer = { s.g.outer with ostamp := t.g.ostamp, fstamp := t.g.fstamp } ∧ s.dev.time ≤ t.g.ostamp ∧
      s.g.ostamp ≤ t.g.ostamp ∧ s.g.fstamp ≤ t.g.fstamp
    (let u := s.start (.xfence c a b)
     s.issues (.xfence c a b) = true → u.crossPending b.toNat a.toNat c.toNat = false →
        (publishes b.toNat a.toNat = true → (u.ownDirty u.g).all (u.lineReady s.g.gid) = true) →
      ∃ t, exec (.xfence c a b) s = .next t ∧ KeepsRest s { t with m := s.m, fab := s.fab, ck := s.ck } ∧ rest t ∧ stamps t ∧ (a = 0#4 → s.dev.time ≤ t.g.fstamp) ∧
        (a = b → KeepsRest s t) ∧
        (a ≠ b → b = 2#4 ∨ b = 5#4 ∨ a = 6#4 ∨ a = 7#4 → ∀ x ∈ t.m.keel, ∀ w ∈ x.dirty, w.gid ≠ s.g.gid) ∧
        (a ≠ b → a = 1#4 ∨ a = 2#4 ∨ a = 5#4 → ∀ x ∈ t.m.keel, x.cache = s.g.core / 4 → x.dirty ≠ []) ∧
        (a ≠ b → a = 6#4 ∨ a = 7#4 → ∀ x ∈ t.m.l2, tierOf (128 * x.line) = some .hbm → x.dirty = false)) ∧
    (let u := s.start (.pfence k)
     s.issues (.pfence k) = true → u.anyPending = false → (if k = 0#2 then s.g.onControl = true ∨ u.columnDirty = false else u.appendsPending = false) →
      ∃ t, exec (.pfence k) s = .next t ∧ KeepsRest s t ∧ rest t ∧ stamps t ∧ (k ≠ 0#2 → s.dev.time ≤ t.g.fstamp)) ∧
    (let u := s.start (.icinv c)
     s.issues (.icinv c) = true → u.writesPending u.g u.here u.act = false →
      ∃ t, exec (.icinv c) s = .next t ∧ KeepsRest s { t with m := s.m } ∧ KeepsGroup s t ∧ rest t ∧
        t.m = { s.m with icache := s.m.icache.filter fun x => !s.icReach c.toNat x.core } ∧ ∀ x ∈ t.m.icache, x.core ≠ s.g.core))

/-! ## Fences, tagged words and barriers (R167–R179, R195–R201, R220–R230) -/

/-- R167: what a tagged operation does on a word by its tag, and when it must wait.

R168–R170, R225, R226: the tagged instructions once no FENCE and no earlier access of the words holds them back (STFE: none of the split's earlier accesses), where
their lanes pass the checks and no other lane waits for their words. Without a lane that is no helper they have no effect. Where every word's tag lets its lane go on,
each lane does on its word what R167 says, once: LDFE and LDFE.e give the full word, FEQ its tag, LDFE.e and FESET.e empty it, STFE fills it with its data, FESET.f
fills its tag; no other byte or tag changes; a uniform destination takes the value of the lowest lane that is no helper (log 73's choice). Where the lowest lane's word
has the other tag, the split waits in the word's queue, or retry-parked with all 64 entries in use, with all its lanes pending in the operand log. -/
def Obligations.TaggedWords : Prop :=
  (∀ (s : State) (core word : Nat) (v : W32),
    let held := s.wordAt core word
    (s.full core word = true →
      s.tagApply .ldfe core word v = some (s, some held, false) ∧ s.tagApply .ldfeE core word v = some (s.setFull core word false, some held, true) ∧
      s.tagApply .stfe core word v = none ∧ s.tagApply .feq core word v = some (s, some 1#32, false) ∧
      s.tagApply .fesetE core word v = some (s.setFull core word false, none, true) ∧
      s.tagApply .fesetF core word v = some (s.setFull core word true, none, false)) ∧
    (s.full core word = false →
      s.tagApply .ldfe core word v = none ∧ s.tagApply .ldfeE core word v = none ∧ s.tagApply .feq core word v = some (s, some 0#32, false) ∧
      s.tagApply .fesetE core word v = some (s.setFull core word false, none, false) ∧
      s.tagApply .fesetF core word v = some (s.setFull core word true, none, true) ∧
      ∃ t, s.tagApply .stfe core word v = some (t, none, true) ∧ t.full core word = true ∧ t.wordAt core word = v ∧
        ∀ c w, (c, w) ≠ (core, word) → 0x40000 * c + 4 * w ≠ 0x40000 * core + 4 * word → t.wordAt c w = s.wordAt c w) ∧
    (∀ f, (s.setFull core word f).full core word = f)) ∧
  (∀ (s : State) (d a b : Reg), NamesGiven s → (∀ x ∈ s.g.log, x.entry ≠ s.entry ∨ tagOp x.i = none) →
    let core := s.g.core
    let claims := fun (i : Instr) (rd ra rb : Reg) (need after : Option Bool) (extra : State → Bool) (val : Bool → W32 → W32) =>
      s.issues i = true →
      let u := s.start i
      u.tagGo i ra = true → extra u = true →
      if u.work = 0#32 then ∃ t, exec i s = .next t ∧ OnlyWrote s t []
      else ∀ m, s.teamOf s.g = some m → m.base % 4 = 0 → m.base + m.size ≤ 0x40000 →
        let off := fun (l : Nat) => (u.rd ra l).toNat
        let word := fun (l : Nat) => (m.base + off l) / 4
        let lane := fun (l : Nat) => l < 32 ∧ u.work.getLsbD l = true
        (∀ l, lane l → off l % 4 = 0 ∧ off l < m.size ∧ s.queueOf core (word l) = [] ∧ (rb = 63#6 ∧ after = none ∨ i = .ldfeE rd ra ∨ s.armedIn s.g.tid (off l) 4 = none)) →
        ((∀ l q, lane l → need = some q → s.full core (word l) = q) → (need = none ∨ after = none ∨ ∀ l k, lane l → lane k → word l = word k → l = k) →
          ∃ t, exec i s = .next t ∧ KeepsRest s { t with onchip := s.onchip } ∧ KeepsPreds s t ∧ GoesOn s t ∧
            t.g.outer = { s.g.outer with ostamp := t.g.ostamp } ∧ s.g.ostamp ≤ t.g.ostamp ∧ KeepsRegs s t (u.places rd false) ∧
            WroteIn u t rd u.work (fun l => val (s.full core (word l)) (s.wordAt core (word l))) ∧
            t.onchip = { s.onchip with scratch := t.onchip.scratch, empty := t.onchip.empty } ∧
            (∀ l q, lane l → after = some q → t.full core (word l) = q) ∧
            (∀ c w, w < 0x10000 → after = none ∨ c ≠ core ∨ (∀ l, lane l → word l ≠ w) → t.full c w = s.full c w) ∧
            (rb ≠ 63#6 ∨ i = .stfe ra rb → ∀ l, lane l → t.wordAt core (word l) = u.rd rb l) ∧
            ∀ x, i ≠ .stfe ra rb ∨ (∀ l, lane l → x < 0x40000 * core + 4 * word l ∨ 0x40000 * core + 4 * word l + 4 ≤ x) →
              Store.get t.onchip.scratch x = Store.get s.onchip.scratch x) ∧
        (∀ l q, lowest u.work = some l → need = some q → s.full core (word l) ≠ q →
          ∃ t e, exec i s = .next t ∧ KeepsRest s { t with onchip := s.onchip } ∧ KeepsRegs s t [] ∧ KeepsPreds s t ∧ GoesOn s t ∧
            t.g.outer = { s.g.outer with log := s.g.log ++ [e] } ∧ e.seq = u.seq ∧ e.i = i ∧ e.pend = u.work ∧
            t.onchip = { s.onchip with waits := t.onchip.waits } ∧
            if (s.onchip.waits.filter fun x => decide (x.core = core)).length < 64 then
              t.queueOf core (word l) = [{ gid := s.g.gid, entry := s.entry, lane := l }] ∧ t.cur.wait = .queued
            else t.onchip.waits = s.onchip.waits ∧ ∃ n, t.cur.wait = .retryParked n)
    let same := fun (_ : Bool) (v : W32) => v
    claims (.ldfe d a) d a 63 (some true) none (fun _ => true) same ∧ claims (.ldfeE d a) d a 63 (some true) (some false) (fun _ => true) same ∧
    claims (.fesetE a) 63 a 63 none (some false) (fun _ => true) same ∧ claims (.fesetF a) 63 a 63 none (some true) (fun _ => true) same ∧
    claims (.feq d a) d a 63 none none (fun _ => true) (fun f _ => if f then 1#32 else 0#32) ∧
    claims (.stfe a b) 63 a b (some false) (some true) (fun u => !u.releaseWaits u.g u.here u.act 3) same)

/-- R175: the words of a slot of a resident team: armed with a quota; an arrival takes its bytes from the balance and counts one, and flips the phase when the quota has
arrived and nothing is outstanding; a retired slot's key is 0.

R175, R227–R229: the barrier instructions, once no FENCE and no earlier access of the slot holds them back (TBARR: none of the split's earlier accesses), act once, in
the lowest GUARD lane that is no helper, and not at all without one; a slot or an operand that R178 refuses traps. TBINIT arms the slot in the lowest free entry of the
armed table (which one is log 51's choice); TBARR gives the phase and arrives; TBRET retires; TBWAIT gives the result word of a slot whose phase differs or that is
faulted, and else its split joins the slot's waiters with its lanes pending in the operand log. A helper lane keeps its destination (the model's choice: log 72). -/
def Obligations.TransactionBarriers : Prop :=
  (∀ (s : State) (t : Team) (off quota k : Nat) (b : W32),
    t.swapped = false → off % 16 = 0 →
    (let u := s.arm t off quota k
     u.teamWord t off = BitVec.ofNat 32 (quota * 2 ^ 16) ∧ u.teamWord t (off + 4) = 0#32 ∧ u.teamWord t (off + 8) = 0#32 ∧
     u.teamWord t (off + 12) = BitVec.ofNat 32 (0xBA000000 + k * 2 ^ 16 + off / 16) ∧
     u.onchip.armed = s.onchip.armed ++ [{ core := t.core, index := k, tid := t.tid, slot := off, last := 0, posted := 0 }]) ∧
    (let u := s.arrive t off b
     let w0 := s.teamWord t off
     let w1 := s.teamWord t (off + 4)
     let flips := (w0 + 1#32).toNat % 2 ^ 16 = (w0 + 1#32).toNat / 2 ^ 16 % 2 ^ 15 ∧ w1 = b ∧ (s.teamWord t (off + 8)).getLsbD 31 = false
     if flips then u.teamWord t off = BitVec.ofNat 32 ((1 - (w0 + 1#32).toNat / 2 ^ 31) * 2 ^ 31 + (w0 + 1#32).toNat / 2 ^ 16 % 2 ^ 15 * 2 ^ 16) ∧
       u.teamWord t (off + 4) = 0#32 ∧ u.teamWord t (off + 8) = 0#32
     else u.teamWord t off = w0 + 1#32 ∧ u.teamWord t (off + 4) = w1 - b ∧ u.teamWord t (off + 8) = s.teamWord t (off + 8)) ∧
    (let u := s.retireBar t off
     u.teamWord t (off + 12) = 0#32 ∧ ∀ a ∈ u.onchip.armed, a.tid = t.tid → a.slot ≠ off)) ∧
  (∀ (s : State) (d a b : Reg), NamesGiven s →
    (∀ x ∈ s.g.log, x.entry ≠ s.entry ∨ ∀ d a b, x.i ≠ .tbwait d a b) →
    let byteFrame := fun (t : State) (m : Team) (off : Nat) => ∀ x, x < 0x40000 * m.core + m.base + off ∨ 0x40000 * m.core + m.base + off + 16 ≤ x →
      Store.get t.onchip.scratch x = Store.get s.onchip.scratch x
    let only := fun (t : State) (ps : List Nat) => KeepsRest s { t with onchip := s.onchip } ∧ KeepsRegs s t ps ∧ KeepsPreds s t ∧ GoesOn s t
    let word := fun (t : State) (m : Team) (off : Nat) => t.teamWord m off
    let acts := fun (i : Instr) (ra rb : Reg) (extra : State → Bool) (P : State → State → Team → Nat → W32 → Prop) => s.issues i = true →
      let u := s.start i
      u.barGo i ra = true → extra u = true →
      (u.issuer = none → ∃ t, exec i s = .next t ∧ OnlyWrote s t []) ∧
      (∀ l m, u.issuer = some l → s.teamOf s.g = some m → m.swapped = false →
        let off := (u.rd ra l).toNat
        match u.barCause i off (u.rd rb l) with
        | some c => exec i s = .next (u.raise i c (BitVec.ofNat 64 off))
        | none => ∃ t, exec i s = .next t ∧ P u t m off (u.rd rb l))
    acts (.tbinit a b) a b (fun _ => true) (fun _ t m off v => only t [] ∧ KeepsGroup s t ∧ byteFrame t m off ∧
      ∃ k, k < 64 ∧ (∀ x ∈ s.onchip.armed, x.core = s.g.core → x.index ≠ k) ∧
        (∀ j, j < k → ∃ x ∈ s.onchip.armed, x.core = s.g.core ∧ x.index = j) ∧
        word t m off = BitVec.ofNat 32 (v.toNat * 2 ^ 16) ∧ word t m (off + 4) = 0#32 ∧ word t m (off + 8) = 0#32 ∧
        word t m (off + 12) = BitVec.ofNat 32 (0xBA000000 + k * 2 ^ 16 + off / 16) ∧
        t.onchip = { s.onchip with scratch := t.onchip.scratch,
                                   armed := s.onchip.armed ++ [{ core := m.core, index := k, tid := m.tid, slot := off, last := 0, posted := 0 }] }) ∧
    acts (.tbarr d a b) a b (fun u => !u.releaseWaits u.g u.here u.act (u.scopeOf u.g 2)) (fun u t m off v =>
      let w0 := word s m off
      let n := (w0 + 1#32).toNat
      let flips := n % 2 ^ 16 = n / 2 ^ 16 % 2 ^ 15 ∧ word s m (off + 4) = v ∧ (word s m (off + 8)).getLsbD 31 = false
      t.cur.pc = s.cur.pc + 4#64 ∧ byteFrame t m off ∧ KeepsPreds s t ∧
      (if flips then word t m off = BitVec.ofNat 32 ((1 - n / 2 ^ 31) * 2 ^ 31 + n / 2 ^ 16 % 2 ^ 15 * 2 ^ 16) ∧ word t m (off + 4) = 0#32 ∧ word t m (off + 8) = 0#32
       else word t m off = w0 + 1#32 ∧ word t m (off + 4) = word s m (off + 4) - v ∧ word t m (off + 8) = word s m (off + 8)) ∧
      ((∀ w ∈ s.onchip.barWaits, w.tid ≠ m.tid ∨ w.slot ≠ off) → only t (u.places d false) ∧ KeepsGroup s t ∧
        t.onchip = { s.onchip with scratch := t.onchip.scratch, armed := t.onchip.armed } ∧
        WroteIn u t d u.work fun _ => BitVec.ofNat 32 (w0.toNat / 2 ^ 31 % 2)) ∧
      (flips → ∀ w ∈ t.onchip.barWaits, w.tid ≠ m.tid ∨ w.slot ≠ off)) ∧
    acts (.tbret a) a 63 (fun _ => true) (fun _ t m off _ => only t [] ∧ KeepsGroup s t ∧ byteFrame t m off ∧ word t m off = word s m off ∧
      word t m (off + 4) = word s m (off + 4) ∧ word t m (off + 8) = word s m (off + 8) ∧ word t m (off + 12) = 0#32 ∧
      t.onchip = { s.onchip with scratch := t.onchip.scratch,
                                 armed := s.onchip.armed.filter fun x => !(decide (x.tid = m.tid) && decide (x.slot = off)) }) ∧
    acts (.tbwait d a b) a b (fun _ => true) (fun u t m off v =>
      match s.testBar m off (v.toNat % 2) with
      | some (w, _) => only t (u.places d false) ∧ t.onchip = s.onchip ∧ t.g.outer = { s.g.outer with ostamp := t.g.ostamp } ∧ WroteIn u t d u.work fun _ => w
      | none => only t [] ∧ t.cur.wait = .queued ∧
        t.onchip = { s.onchip with barWaits := s.onchip.barWaits ++ [{ tid := m.tid, slot := off, gid := s.g.gid, entry := s.entry }] } ∧
        ∃ e, t.g.outer = { s.g.outer with log := s.g.log ++ [e] } ∧ e.seq = u.seq ∧ e.i = .tbwait d a b ∧ e.pend = u.work ∧ e.dst = u.g.dst d false ∧
          (Store.get e.addr 0).toNat = off ∧ (Store.get e.val 0).toNat = v.toNat % 2) ∧
    (∀ t off parity, let w0 := (s.teamWord t off).toNat
      let w2 := (s.teamWord t (off + 8)).toNat
      let last := match s.onchip.armed.find? (fun x => decide (x.tid = t.tid) && decide (x.slot = off)) with | some x => x.last.toNat | none => 0
      let fault := w2 / 2 ^ 31 % 2
      let flip := if w0 / 2 ^ 31 % 2 = parity then 0 else 1
      if fault = 0 ∧ flip = 0 then s.testBar t off parity = none
      else s.testBar t off parity = some (BitVec.ofNat 32 (fault * 2 ^ 31 + flip * 2 ^ 30 + fault * (w2 / 2 ^ 24 % 2 ^ 6 * 2 ^ 24) +
        if flip = 1 then last else w2 % 2 ^ 24), decide (flip = 1))))

/-! ## Engines (R232–R247) -/

/-- R232, R234–R236: an engine instruction of a group that is not its team's producer traps with copy-rights; without an issuing lane d takes a status
word of no bytes; a misaligned or invalid block, or a barrier that cannot be bound, traps; else the command takes the lowest free tether slot (log 51's choice) with
the registers of the block that its form reads as they stand in the issuing lane (the row index and the key in every participating lane), and owes d. -/
def Obligations.EngineInstructionsIssue : Prop := ∀ (s : State) (d a b : Reg) (l : BitVec 4) (n k : Nat),
  let claims := fun (i : Instr) => s.issues i = true →
    let u := s.start i
    let f := (cmdForm i).getD .linIn
    (s.g.gidx.toNat ≠ pktProducer (s.packetOf s.g) → exec i s = .next (u.raise i 0x0A ((encode i).setWidth 64))) ∧
    (s.isProducer = true → s.issuer = none → ∃ t, exec i s = .next t ∧ OnlyWrote s t (u.places d false) ∧ Wrote u t d fun _ => 0x80000000#32) ∧
    (∀ c v, s.isProducer = true → s.issuer = some n → u.engTrap f a b n = some (c, v) → exec i s = .next (u.raise i c v)) ∧
    (s.isProducer = true → s.issuer = some n → u.engTrap f a b n = none → s.freeTether s.g.core = some k →
      ∃ t c, exec i s = .next t ∧ KeepsRest s { t with eng := s.eng } ∧ KeepsGroup s t ∧ KeepsRegs s t [] ∧ KeepsPreds s t ∧ GoesOn s t ∧
        t.eng = { s.eng with cmds := s.eng.cmds ++ [c] } ∧ t.g.owed = (u.g.owe u.seq (u.g.dst d false) u.grd).owed ∧
        c.core = s.g.core ∧ c.k = k ∧ c.i = i ∧ c.seq = u.seq ∧ c.gid = s.g.gid ∧ c.ctx = s.g.ctx ∧ c.inc = s.g.inc ∧ c.st = .queued ∧
        c.grd = u.grd ∧ c.dst = u.g.dst d false ∧ c.delivered = 0 ∧ c.bar = (if b = 63#6 then none else some (u.rd b n).toNat) ∧
        ∀ r ∈ blockRegs f, ∀ m, m < 32 → (if perLane f r then u.work.getLsbD m = true else m = n) → c.reg r m = u.rd (a + BitVec.ofNat 6 r) m)
  claims (.cpyTile d a b l) ∧ claims (.cpyLin d a b l) ∧ claims (.cpyMem d a b l) ∧ claims (.cpyoTile d a b l) ∧ claims (.cpyoLin d a b l) ∧
  claims (.gath d a b l) ∧ claims (.scat d a b l) ∧ claims (.walkExact d a b l) ∧ claims (.walkFloor d a b l)

/-- R241, R243, R244: the byte count of a linear copy is a nonzero multiple of 16 of at most 2²⁴, else fault 0x02; the status word of a command; a convolution map is
refused by CPYO.tile, and a map of another rank than 2 by GATH and SCAT, with fault 0x01.

R236, R243–R245: the events of a command's life: it starts in tether order, running with its byte count or ending with the code its checks give; a unit that lands
advances the prefix by 16 bytes, the last one ends the command; a restartable fault holds it with its code and address, where the context has a fault ring, and else
ends it; at its end the status word is written to the lanes it still owes and its slot is empty. That units land as a prefix in steps of 16 bytes is log 11's choice; an
event that cannot happen changes nothing (log 7). -/
def Obligations.EngineCommands : Prop :=
  (∀ (c : Command) (t : TMap),
    let count := if c.form = .mem then (c.reg 4 c.lane).toNat else (c.reg 2 c.lane).toNat
    (c.form = .linIn ∨ c.form = .linOut ∨ c.form = .mem →
      c.size t = if count ≠ 0 ∧ count % 16 = 0 ∧ count ≤ 2 ^ 24 then .inl count else .inr 0x02) ∧
    (c.form = .tileOut → t.conv = true → c.size t = .inr 0x01) ∧
    (c.form = .gath ∨ c.form = .scat → t.rank ≠ 2 ∨ t.conv = true → c.size t = .inr 0x01) ∧
    (c.form = .gath ∨ c.form = .scat → t.rank = 2 → t.conv = false → t.rowBytes % 16 = 0 → c.size t = .inl ((lanesOf c.part).length * t.rowBytes)) ∧
    c.status.getLsbD 31 = true ∧ c.status.getLsbD 30 = decide (c.code ≠ 0) ∧
    (c.status.extractLsb' 24 6).toNat = (if c.code ≠ 0 then c.code % 64 else 0) ∧ (c.status.extractLsb' 0 24).toNat = c.delivered / 64 % 2 ^ 24) ∧
  (∀ (s : State) (core k n : Nat) (c : Command),
    let v := s.met
    let kept := fun (t : State) => t.g.vregs = s.g.vregs ∧ t.g.uregs = s.g.uregs ∧ t.g.preds = s.g.preds
    s.cmd core k = some c →
    (v.cmdStarts c = true → ∃ t, exec (.engineCommandStart core k) s = .next t ∧ (c.total ≠ 0 ∨ c.mapped = false → kept t) ∧
      (c.total ≠ 0 → t.cmd core k = some { c with st := .running, since := s.dev.time } ∧ t.m = s.m ∧ t.onchip = s.onchip) ∧
      (∀ m, c.total = 0 → (if c.mapped then (v.readMapBytes c).2 = (.ok, m) else m = []) →
        match v.startCheck { c with tmap := m, st := .running, since := s.dev.time, deferred := none } with
        | .inl x => t.cmd core k = some { c with tmap := m, st := .running, since := s.dev.time, deferred := none, total := x }
        | .inr e => (t.cmd core k).map (fun x => (x.st, x.code, x.delivered)) = some (.ending, e, c.delivered))) ∧
    (s.powered c = true → c.st = .running → c.total ≠ 0 → ∃ t, exec (.engineDelivery core k n) s = .next t ∧
      ((v.nextUnit c).2 = .ok → min n (c.total / 16) = 1 → (t.cmd core k).map (fun x => (x.delivered, x.st)) =
        some (c.delivered + 16, if c.total ≤ c.delivered + 16 then .ending else .running)) ∧
      (∀ code va, (v.nextUnit c).2 = .fault code va false → 0 < min n (c.total / 16) → (t.cmd core k).map (fun x => (x.delivered, x.st, x.code, x.addr)) =
        some (c.delivered, .ending, code, va))) ∧
    (∀ w code va x, s.powered c = true → c.st = .running → v.nextHit c = (w, .fault code va true) → s.ctx c.ctx = some x →
      ∃ t, exec (.engineRestartableFault core k) s = .next t ∧ kept t ∧
        (t.cmd core k).map (fun y => (y.st, y.code, y.addr, y.delivered)) = some (if x.ring ≠ 0 then .held else .ending, code, va, c.delivered)) ∧
    (c.st = .ending → ∃ t, exec (.engineCommandEnd core k) s = .next t ∧ t.cmd core k = none ∧
      (c.code = 0 ∨ c.bar = none → s.g.present = true → s.g.gid = c.gid → ∀ p, c.dst = .one p → p < 1024 → t.m = s.m ∧ t.onchip = s.onchip ∧
        (∀ l, l < 32 → t.g.getPlace p l =
          if c.grd.getLsbD l = true ∧ (∃ o ∈ s.g.owed, o.id = c.seq ∧ o.place = p ∧ o.lanes.getLsbD l = true) then c.status else s.g.getPlace p l) ∧
        ∀ q l, l < 32 → q ≠ p → t.g.getPlace q l = s.g.getPlace q l)) ∧
    (c.st ≠ .running → exec (.engineDelivery core k n) s = .next v ∧ exec (.engineRestartableFault core k) s = .next v) ∧
    (c.st ≠ .ending → exec (.engineCommandEnd core k) s = .next v))

/-! ## The matrix unit (R248–R275) -/

/-- R250–R258: OBRES gives the team a zeroed reservation of the size its layout asks for, with the next generation of its handle, or one of two words
where a table or the buffer is full; a word it cannot take traps; OBREL frees a reservation once nothing names it. -/
def Obligations.Reservations : Prop := ∀ (s : State) (d a b : Reg) (l : Nat) (t : Team),
  (∀ i ∈ [.obres d a b, .obrel a], s.issues i = true → s.issuer = none → ∃ t, exec i s = .next t ∧ OnlyWrote s t []) ∧
  (s.issues (.obres d a b) = true → s.issuer = some l → s.teamOf s.g = some t →
    let u := s.start (.obres d a b)
    let f := (u.rd a l).toNat
    let klen := (u.rd b l).toNat
    match obresTrap f klen with
    | some (c, v) => exec (.obres d a b) s = .next (u.raise (.obres d a b) c (BitVec.ofNat 64 v))
    | none =>
      ∃ v w, exec (.obres d a b) s = .next v ∧ KeepsRest s { v with onchip := s.onchip, teams := s.teams } ∧ KeepsGroup s v ∧ KeepsPreds s v ∧ GoesOn s v ∧
        KeepsRegs s v (u.places d false) ∧ Wrote u v d (fun _ => w) ∧
        let mine := s.onchip.reservs.filter fun r => decide (r.tid = t.tid)
        if 8 ≤ mine.length ∨ 32 ≤ (s.onchip.reservs.filter fun r => decide (r.core = t.core)).length then
          w = 0x01000000#32 ∧ v.onchip = s.onchip ∧ v.teams = s.teams
        else
          match s.freeOp t.core (layoutOf f klen).size with
          | none => w = 0x02000000#32 ∧ v.onchip = s.onchip ∧ v.teams = s.teams
          | some off =>
            ∃ x, v.onchip = { s.onchip with reservs := s.onchip.reservs ++ [x], opbuf := v.onchip.opbuf, opmark := v.onchip.opmark } ∧
              x.core = t.core ∧ x.tid = t.tid ∧ x.off = off ∧
              x.size = (layoutOf f klen).size ∧ x.klen = klen ∧ x.fmt = BitVec.ofNat 32 f ∧ x.idx < 8 ∧ (∀ y ∈ mine, y.idx ≠ x.idx) ∧
              x.gen = ((Store.get t.gens x.idx).toNat + 1) % 16 ∧ w = BitVec.ofNat 32 (2 ^ 31 + x.gen * 8 + x.idx) ∧
              ∀ j, let inside := 0x40000 * t.core + off ≤ j ∧ j < 0x40000 * t.core + off + x.size
                Store.get v.onchip.opbuf j = (if inside then 0#8 else Store.get s.onchip.opbuf j) ∧
                Store.get v.onchip.opmark j = if inside then 0#1 else Store.get s.onchip.opmark j) ∧
  (s.issues (.obrel a) = true → s.issuer = some l →
    let u := s.start (.obrel a)
    let h := (u.rd a l).toNat
    (∀ c v, u.handleTrap (u.rd a l) = some (c, v) → exec (.obrel a) s = .next (u.raise (.obrel a) c v)) ∧
    (u.handleTrap (u.rd a l) = none → u.handleBusy s.g.tid h = false →
      ∃ t, exec (.obrel a) s = .next t ∧ KeepsRest s { t with onchip := s.onchip } ∧ KeepsGroup s t ∧ KeepsRegs s t [] ∧ KeepsPreds s t ∧ GoesOn s t ∧
        t.reserv s.g.tid h = none ∧
        t.onchip = { s.onchip with reservs := s.onchip.reservs.filter fun r => !(decide (r.tid = s.g.tid) && decide (r.idx = h % 8) && decide (r.gen = h / 8 % 16)) }))

/-- R262–R266, R269–R271: a queued matrix instruction without an issuing lane has no effect, traps where a check of its operands fails, and else joins its group's queue
of at most 16 operations, once no write is owed to the registers of its fragments (R35); MMA and MMAS set or empty the keep latch (R261) and MLOOP empties it; ACCRD
holds its split and owes eight registers. -/
def Obligations.MatrixInstructionsQueue : Prop := ∀ (s : State) (t : BitVec 4) (d a b : Reg) (l : BitVec 4) (k : BitVec 1) (n : Nat),
  let claims := fun (i : Instr) (trap : State → Option (Nat × W64)) (frag : State → List Nat) (good : State → State → MOp → Prop) => s.issues i = true →
    let u := s.start i
    (s.issuer = none → ∃ t, exec i s = .next t ∧ OnlyWrote s t []) ∧
    (s.issuer = some n → s.g.mqueue.length < 16 →
      match trap u with
      | some (c, v) => exec i s = .next (u.raise i c v)
      | none => u.regsFree (frag u) = true → ∃ v o, exec i s = .next v ∧ KeepsRest s v ∧ KeepsRegs s v [] ∧ KeepsPreds s v ∧ GoesOn s v ∧
          v.g.outer = { s.g.outer with mqueue := s.g.mqueue ++ [o], latch := v.g.latch } ∧
          o.seq = u.seq ∧ o.grd = u.grd ∧ o.lanes = s.act ∧ o.done = 0 ∧ o.rows = 0#16 ∧ o.batch = none ∧ good u v o)
  let mul := fun (sparse keep : Bool) (u v : State) (o : MOp) => o.kind = .step ∧ o.tile = t.toNat ∧ o.sparse = sparse ∧
    o.handle = (u.rd b n).toNat % 128 ∧ o.slab = (u.rd b n).toNat / 2 ^ 16 ∧ o.images.length = 1 ∧ v.g.latch.isSome = keep ∧
    (∀ r, u.reserv s.g.tid o.handle = some r → s.g.latch = none → o.images = [u.image a.toNat (r.span.1 + r.span.2)]) ∧
    (∀ x, v.g.latch = some x → x.a = a.toNat ∧ o.images = [x.image])
  let bw := fun (u : State) => (u.rd64 b n).setWidth 32
  let lw := fun (u : State) => (u.rd64 b n >>> 32).setWidth 32
  let same := fun (v : State) => v.g.latch = s.g.latch
  claims (.mma t a b l k) (fun u => u.mulTrap false t.toNat a.toNat (u.rd b n) 0) (fun u => u.fragRegs false a.toNat (u.rd b n) 0)
    (mul false (decide (k = 1#1))) ∧
  claims (.mmas t a b l k) (fun u => u.mulTrap true t.toNat a.toNat (u.rd b n) 0) (fun u => u.fragRegs false a.toNat (u.rd b n) 0)
    (mul true (decide (k = 1#1))) ∧
  claims (.mloop t a b l k) (fun u => u.mulTrap (decide (k = 1#1)) t.toNat a.toNat (bw u) (lw u))
    (fun u => u.fragRegs true a.toNat (bw u) (lw u)) (fun u v o => o.kind = .step ∧ o.tile = t.toNat ∧
    o.sparse = decide (k = 1#1) ∧ o.handle = (bw u).toNat % 128 ∧ o.slab = (bw u).toNat / 2 ^ 16 ∧ o.inc = (lw u).toNat / 2 ^ 16 % 256 ∧
    o.images.length = (lw u).toNat % 256 + 1 ∧ v.g.latch = none) ∧
  claims (.accz t) (fun u => u.tileTrap t.toNat) (fun _ => []) (fun _ v o => o.kind = .accz ∧ o.tile = t.toNat ∧ same v) ∧
  claims (.accwr a b) (fun u => u.selTrap (u.rd b n)) (fun _ => []) (fun u v o => o.kind = .accwr ∧ o.tile = (u.rd b n).toNat % 16 ∧ o.word = u.rd b n ∧
    o.images = [u.image a.toNat 8] ∧ same v) ∧
  claims (.accst a b) (fun u => u.accstTrap (u.rd64 a n) (bw u) (lw u)) (fun _ => []) (fun u v o => o.kind = .accst ∧ o.tile = (bw u).toNat % 16 ∧ o.word = bw u ∧
    o.addr = u.rd64 a n ∧ o.stride = lw u ∧ same v) ∧
  claims (.accrd d b) (fun u => u.selTrap (u.rd b n)) (fun _ => []) (fun u v o => o.kind = .accrd ∧ o.tile = (u.rd b n).toNat % 16 ∧ o.word = u.rd b n ∧
    o.dst = u.g.phys d.toNat ∧ same v ∧ (v.g.split s.entry).map (·.wait) = some .queued)

/-- R267, R268: MBATCH gives the batch number modulo 16 and closes the operations since the last one into a batch; MWAIT takes a number, holds its split while that
batch or an earlier one is open, and gives its result word; neither acts without an issuing lane.

R273: MCOMP gives lanes 0 to 15 of d the two kept elements of each quad of lanes of a and lanes 16 to 31 the index word; of the two kept elements of a quad none ranks
below one that is not kept. Under a 64-bit type it is an illegal instruction, also without an issuing lane (log 100's choice); which batch a number outside the last
eight names is log 99's. -/
def Obligations.MatrixBatchesAndCompression : Prop :=
  (∀ (s : State) (d a : Reg) (l : Nat),
    (∀ i ∈ [.mbatch d, .mwait d a], s.issues i = true → s.issuer = none → ∃ t, exec i s = .next t ∧ OnlyWrote s t []) ∧
    (s.issues (.mbatch d) = true → s.issuer = some l → s.g.openBatches < 8 ∨ s.g.unbatched = 0 →
      ∃ t, exec (.mbatch d) s = .next t ∧ KeepsRest s t ∧ KeepsRegs s t ((s.start (.mbatch d)).places d false) ∧ KeepsPreds s t ∧ GoesOn s t ∧
        Wrote (s.start (.mbatch d)) t d (fun _ => BitVec.ofNat 32 (s.g.bc % 16)) ∧ t.g.bc = s.g.bc + 1 ∧ t.g.unbatched = 0 ∧
        t.g.outer = { s.g.outer with mqueue := t.g.mqueue, batches := t.g.batches, bc := t.g.bc, mpend := 0 } ∧
        (s.g.unbatched ≠ 0 → t.g.batches = s.g.batches ++ [{ n := s.g.bc, left := s.g.unbatched, fault := s.g.mpend }])) ∧
    (s.issues (.mwait d a) = true → s.issuer = some l →
      let u := s.start (.mwait d a)
      let w := u.rd a l
      s.g.batchBusy w.toNat = false →
      if w.toNat / 16 ≠ 0 then exec (.mwait d a) s = .next (u.raise (.mwait d a) 0x02 (w.setWidth 64))
      else ∃ t, exec (.mwait d a) s = .next t ∧ KeepsRest s t ∧ KeepsRegs s t (u.places d false) ∧ KeepsPreds s t ∧ GoesOn s t ∧
        Wrote u t d (fun _ => (s.g.batchResult w.toNat).2) ∧ t.g.outer = { s.g.outer with batches := (s.g.batchResult w.toNat).1.batches })) ∧
  (∀ (s : State) (d a : Reg) (l : BitVec 4), s.issues (.mcomp d a l) = true →
    let u := s.start (.mcomp d a l)
    (u.w = 64 → exec (.mcomp d a l) s = .next (u.raise (.mcomp d a l) 0x01 ((encode (.mcomp d a l)).setWidth 64))) ∧
    (u.w ≠ 64 → s.issuer = none → ∃ t, exec (.mcomp d a l) s = .next t ∧ OnlyWrote s t []) ∧
    (∀ n, u.w ≠ 64 → s.issuer = some n → ∃ t, exec (.mcomp d a l) s = .next t ∧ OnlyWrote s t (u.places d false) ∧
      Wrote u t d fun k => if k < 16 then u.rd a (4 * (k / 2) + if k % 2 = 0 then (u.quadPick a (k / 2)).1 else (u.quadPick a (k / 2)).2)
        else BitVec.ofNat 32 (u.compIdx a)) ∧
    (∀ (f : Nat → Nat), let p := pickTwo fun i => .fin false (f i) 0
      p.1 < p.2 ∧ p.2 < 4 ∧ ∀ i j, (i = p.1 ∨ i = p.2) → j < 4 → j ≠ p.1 → j ≠ p.2 → f j ≤ f i))

/-- R263, R264, R269, R271, R272, R274: the unit of a core runs the head of the queue of the group it serves: a K-step puts the step's result into each element of the
tile and leaves every other accumulator; ACCZ clears a tile; the last step of an operation takes it from the queue. A row of an ACCST that is free to land in an on-chip
space writes its converted bytes there but for the pieces that a higher row has written, and nothing else; with its last row the operation leaves the queue. A terminal
fault discards the queue, a restartable one holds it with its code and address. A K-step that reads poisoned data of the operand buffer is not applied: it rolls its
context back, and on a repeat ends the queue (R433; what carries poison there is log 93).

R64, R66: one K-step of an element: a NaN among the accumulator or the products, or infinities of both signs, gives the canonical NaN; an infinity of one sign gives it;
integers add modulo 2³². -/
def Obligations.MatrixSteps : Prop :=
  (∀ (s : State) (core : Nat) (o : MOp) (rest : List MOp),
    s.unitGroup core = some s.g → s.g.mqueue = o :: rest → (∀ g ∈ s.others, g.gid ≠ s.g.gid) →
    (∀ r img, o.kind = .step → s.reserv s.g.tid o.handle = some r → o.images[o.done]? = some img → s.stepPoisoned r (o.slab + o.done * o.inc) = true →
      ∃ t, exec (.matrixKstep core) s = .next t ∧
        ((s.ctx s.g.ctx).map (·.poisoned) = some true → t.m.mem = s.m.mem ∧ t.g.mqueue = [] ∧ t.g.mheld = 0 ∧ t.g.acc = s.g.acc ∧ t.onchip = s.onchip) ∧
        ((s.ctx s.g.ctx).map (fun x => x.live && !x.poisoned) = some true → (t.ctx s.g.ctx).map (fun x => x.poisoned && x.rolling) = some true)) ∧
    (∀ r img, o.kind = .step → s.reserv s.g.tid o.handle = some r → o.images[o.done]? = some img → s.stepPoisoned r (o.slab + o.done * o.inc) = false →
      ∃ t, exec (.matrixKstep core) s = .next t ∧
        (∀ k, Store.get t.g.acc k = if k / 1024 = o.tile then s.stepElt r img (o.slab + o.done * o.inc) (k % 1024 / 64) (k % 64) (Store.get s.g.acc k)
          else Store.get s.g.acc k) ∧
        t.g.mqueue = (if o.done + 1 < o.images.length then { o with done := o.done + 1 } :: rest else rest) ∧
        t.g.vregs = s.g.vregs ∧ t.g.uregs = s.g.uregs ∧ t.onchip = s.onchip ∧ t.m.mem = s.m.mem) ∧
    (o.kind = .accz → ∃ t, exec (.matrixKstep core) s = .next t ∧
      (∀ k, Store.get t.g.acc k = if k / 1024 = o.tile then 0#32 else Store.get s.g.acc k) ∧ t.g.mqueue = rest ∧ t.g.vregs = s.g.vregs) ∧
    (o.kind = .accst → ∀ r sp key, r < 16 → o.rows.getLsbD r = false →
      s.met.rowPieces s.g o r = (s.met, (List.range (rowBytes o.word / 16)).map fun p => .chip sp (key + 16 * p)) →
      ∃ t, exec (.accstRowLand core (BitVec.ofNat 4 r)) s = .next t ∧ t.m.mem = s.m.mem ∧ t.g.vregs = s.g.vregs ∧ t.g.uregs = s.g.uregs ∧ t.g.acc = s.g.acc ∧
        (∀ q a, q ≠ .vm → t.onchip.byte q a = if q = sp ∧ key ≤ a ∧ a < key + rowBytes o.word ∧ coveredAbove o r ((a - key) / 16) = false
          then BitVec.ofNat 8 (accstRow s.g o r / 256 ^ (a - key)) else s.onchip.byte q a) ∧
        t.g.mqueue = if o.rows ||| (1#16 <<< r) = 0xFFFF#16 then rest else { o with rows := o.rows ||| (1#16 <<< r) } :: rest) ∧
    (∀ v code va, o.kind = .accst → s.met.storeFault s.met.g o = (v, some (code, va, false)) →
      ∃ t, exec (.matrixOpFault core) s = .next t ∧ t.g.mqueue = [] ∧ t.g.mheld = 0 ∧ t.g.acc = s.g.acc ∧ t.g.vregs = s.g.vregs ∧ t.g.uregs = s.g.uregs ∧
        t.onchip = s.onchip) ∧
    (∀ v code va x, o.kind = .accst → s.met.storeFault s.met.g o = (v, some (code, va, true)) → s.ctx s.g.ctx = some x → x.ring ≠ 0 →
      ∃ t, exec (.matrixOpFault core) s = .next t ∧ t.g.mqueue = o :: rest ∧ t.g.mheld = code ∧ t.g.maddr = va ∧ t.g.acc = s.g.acc ∧ t.g.vregs = s.g.vregs ∧
        t.g.uregs = s.g.uregs ∧ t.onchip = s.onchip)) ∧
  ((∀ (c : W32) (ab : List (FVal × FVal)), ((f32.val c.toNat).isNan = true ∨ ∃ p ∈ ab, (FVal.mul p.1 p.2).isNan = true) → kstep c ab = 0x7FC00000#32) ∧
    (∀ (c : W32) (ab : List (FVal × FVal)) (n : Bool), (f32.val c.toNat).isNan = false → (∀ p ∈ ab, (FVal.mul p.1 p.2).isNan = false) →
      let vs := f32.val c.toNat :: ab.map fun p => FVal.mul p.1 p.2
      (.inf n ∈ vs → .inf (!n) ∈ vs → kstep c ab = 0x7FC00000#32) ∧
      (.inf n ∈ vs → .inf (!n) ∉ vs → kstep c ab = if n then 0xFF800000#32 else 0x7F800000#32)) ∧
    (∀ (c : W32) (ab : List (Int × Int)), kstepInt c ab = BitVec.ofInt 32 (c.toInt + (ab.map fun p => p.1 * p.2).sum)))

/-! ## Work in the memory stacks (R276–R298) -/

/-- R281–R284: IRED whose lanes pass their checks: each lane that is no helper gives the base die a command with its destination lines, the table lines added to
each, and its counter, and nothing else of the program changes; without such a lane it has no effect. The base die applies a command one destination line at a
time: each element takes the sum of itself and the table's elements; when every line has performed it adds 1 to the counter, whatever became of its context. The
integers add modulo 2³², the floating-point formats add in FP32 and are rounded once. A stale command with lines to perform is dropped and counted (R305, R360), but
not while a sleeping stack holds it (R298). Of several words at fault the model's choice of TVAL is that of log 101. -/
def Obligations.IndexedReduction : Prop := ∀ (s : State) (a : Reg) (l : BitVec 4) (f : BitVec 3) (cid line : Nat) (c : IredCmd), NamesGiven s →
  let i := Instr.ired a l f
  let u := s.start i
  let e := u.iredEntry i a f
  let found := (lanesOf u.work).foldl (fun (r : State × List (Option (Nat × List Nat))) m =>
    match r.1.iredLane u.g e m with
    | (w, .ok pas) => (w, r.2 ++ [some (m, pas)])
    | (w, _) => (w, r.2 ++ [none])) (u, [])
  (s.issues i = true → u.work = 0#32 → ∃ t, exec i s = .next t ∧ OnlyWrote s t []) ∧
  (s.issues i = true → u.work ≠ 0#32 → u.iredWaits e = false → found.2.all Option.isSome = true →
    ∃ t new, exec i s = .next t ∧ KeepsRest s { t with m := s.m, fab := s.fab, ck := s.ck, eng := s.eng } ∧ KeepsGroup s t ∧ KeepsRegs s t [] ∧ KeepsPreds s t ∧
      GoesOn s t ∧ t.eng = { s.eng with ired := s.eng.ired ++ new } ∧ (∀ x ∈ new, x.gid = s.g.gid ∧ x.ctx = s.g.ctx ∧ x.inc = s.g.inc ∧ x.fmt = f) ∧
      new.map (fun x => (x.lines, x.counter)) = (found.2.filterMap id).map fun q =>
        let ctl := (u.rd (a + 6#6) q.1).toNat
        let len := ctl % 2 ^ 12
        ((List.range len).map fun k => (q.2.getD k 0, (List.range (ctl / 2 ^ 12 % 16)).map fun j => q.2.getD (len + 1 + j * len + k) 0), q.2.getD len 0)) ∧
  (∀ (d : W32) (ts : List W32), iredSum 3 d.toNat (ts.map fun t => t.toNat) = ((ts.foldl (· + ·) d : W32)).toNat) ∧
  (s.eng.ired.find? (fun x => decide (x.cid = cid)) = some c →
    (s.liveTag c.ctx c.inc = false → c.lines ≠ [] → (∀ p ∈ c.lines, s.stackHeld p.1 = false) →
      ∃ t, exec (.iredCommand cid line) s = .next t ∧ t.dev.dropc = s.dev.dropc + 1 ∧ (∀ x ∈ t.eng.ired, x.cid ≠ cid) ∧ t.m.mem = s.m.mem) ∧
    (s.liveTag c.ctx c.inc = false → (∃ p ∈ c.lines, s.stackHeld p.1 = true) → exec (.iredCommand cid line) s = .next s.met) ∧
    (c.lines = [] → s.met.homeFree cid c.ctx c.counter = true → Bare s c.counter → c.counter % 4 = 0 →
      ∃ t, exec (.iredCommand cid line) s = .next t ∧ (∀ x ∈ t.eng.ired, x.cid ≠ cid) ∧ t.onchip = s.onchip ∧
        Store.getLE t.m.mem c.counter 4 = (Store.getLE s.m.mem c.counter 4 + 1) % 2 ^ 32 ∧
        ∀ x, x < c.counter ∨ c.counter + 4 ≤ x → Store.get t.m.mem x = Store.get s.m.mem x) ∧
    (∀ ts, s.liveTag c.ctx c.inc = true → c.lines.find? (fun x => decide (x.1 = line)) = some (line, ts) → 2 ≤ c.lines.length → line % 64 = 0 →
      s.met.iredReady c (line, ts) = true →
      (∀ x ∈ line :: ts, s.m.bankPoisoned x 64 = false ∧ s.m.dirOf (lineOf x) = none) → Bare s line →
      ∃ t, exec (.iredCommand cid line) s = .next t ∧ t.onchip = s.onchip ∧
        t.eng.ired.find? (fun x => decide (x.cid = cid)) = some { c with lines := c.lines.erase (line, ts), begun := true } ∧
        (let n := (iredElt c.fmt).1
         ∀ k, k < 64 / n → Store.getLE t.m.mem (line + n * k) n =
           iredSum c.fmt (Store.getLE s.m.mem (line + n * k) n) (ts.map fun x => Store.getLE s.m.mem (x + n * k) n)) ∧
        ∀ x, x < line ∨ line + 64 ≤ x → Store.get t.m.mem x = Store.get s.m.mem x))

/-- R287, R289, R293: NBRUN whose checks pass queues a sequence at the pseudo-channel of its page and gives its ticket, the group's ticket count goes on,
and the last four tickets are kept; a check that fails traps; NBWAIT, once its sequences have finished, and NBQ give the ticket's word.

R288, R290, R291, R294: what a micro-operation leaves in the accumulators: LOAD the row, MUL and MAC a product with a scalar, each rounded once to bf16, ADD
another accumulator, ZERO zeros. An event of a pseudo-channel runs the first sequence queued there: a row that is read enters its accumulators, STORE writes
the row's places, and where no request is pending at the boundary no other byte changes; that of a killed context stops with code 0x09. A due refresh waits for
the next row boundary of a running sequence, and is performed at once where none runs. Of several words at fault the model's choice of TVAL is that of log 101. -/
def Obligations.NearBank : Prop :=
  (∀ (s : State) (d a : Reg) (l : BitVec 4) (n : Nat),
    let i := Instr.nbrun d a l
    let u := s.start i
    (∀ j ∈ [i, .nbwait d a, .nbq d a], s.issues j = true → s.issuer = none → ∃ t, exec j s = .next t ∧ OnlyWrote s t []) ∧
    (s.issues i = true → u.nbGo a = true → s.issuer = some n →
      match u.nbCheck (u.nbOps a n) with
      | (v, .trap c x w) => exec i s = .next (v.raiseWalk i c x w)
      | (v, .over) => exec i s = .next v
      | (_, .wait) => False
      | (v, .page pa ms) => ∃ t q, exec i s = .next t ∧ t.eng = { v.eng with nb := v.eng.nb ++ [q] } ∧ q.pc = pcOf pa ∧ q.page = pa ∧ q.ms = ms ∧ q.gid = s.g.gid ∧
          q.ticket = s.g.nextTicket.toNat ∧ q.uops = (u.nbOps a n).us ∧ q.steps = (u.nbOps a n).steps ∧ q.t = 0 ∧ q.acc = [] ∧
          Wrote u t d (fun _ => s.g.nextTicket.setWidth 32) ∧ KeepsRegs s t (u.places d false) ∧ KeepsPreds s t ∧ GoesOn s t ∧
          t.m = v.m ∧ t.onchip = s.onchip ∧ t.g.nextTicket = s.g.nextTicket + 1#4 ∧ t.g.tickets.length ≤ 4) ∧
    (∀ j ∈ [.nbwait d a, .nbq d a], s.issues j = true → s.issuer = some n →
      let v := s.start j
      let x := v.rd a n
      (j = .nbwait d a → v.ticketBusy x.toNat = false) →
      if x.toNat / 16 ≠ 0 then exec j s = .next (v.raise j 0x02 (x.setWidth 64))
      else ∃ t, exec j s = .next t ∧ OnlyWrote s t (v.places d false) ∧ Wrote v t d fun _ =>
        match s.g.tickets.find? (fun k => decide (k.n = x.toNat)) with
        | none => 0x80000000#32
        | some k => BitVec.ofNat 32 ((if k.done then 2 ^ 31 else 0) + (if k.code ≠ 0 then 2 ^ 30 + k.code % 64 * 2 ^ 24 else 0) +
            (match s.eng.nb.find? (fun q => decide (q.sid = k.sid)) with | some q => q.t | none => k.steps) % 512))) ∧
  ((∀ (q : NbSeq) (u : W32) (row : Nat → Nat → BitVec 16) (b p : Nat), b < 16 → p < 512 →
      let k := u.toNat / 2 ^ 26 % 4
      let j := u.toNat / 2 ^ 24 % 4
      let at_ := fun (k : Nat) => Store.get q.acc (512 * (4 * b + k) + p)
      let x := if j % 2 = 1 then q.x1 else q.x0
      let once := fun (v : FVal) => BitVec.ofNat 16 (bf16.rnd rne false v)
      Store.get (q.accAfter u row) (512 * (4 * b + k) + p) = (match u.toNat / 2 ^ 28 with
        | 1 => row b p
        | 3 => once (FVal.add false (bf16.val (at_ k).toNat) (FVal.mul (bf16.val x.toNat) (bf16.val (row b p).toNat)))
        | 4 => once (FVal.mul (bf16.val x.toNat) (bf16.val (row b p).toNat))
        | 5 => once (FVal.add false (bf16.val (at_ k).toNat) (bf16.val (at_ j).toNat))
        | 6 => 0#16
        | _ => at_ k) ∧
      ∀ m, m ≠ k → m < 4 → Store.get (q.accAfter u row) (512 * (4 * b + m) + p) = at_ m) ∧
    (∀ (s : State) (pc : Nat) (q : NbSeq),
      let place := fun (slot b p : Nat) => q.page + 16384 * slot + 1024 * (p / 32) + 64 * b + 2 * (p % 32)
      (s.eng.nb.find? (fun x => decide (x.pc = pc)) = some q →
        (s.liveTag q.ctx q.inc = false → ∃ t, exec (.nbRowOperation pc) s = .next t ∧ (∀ x ∈ t.eng.nb, x.sid ≠ q.sid) ∧ t.m.mem = s.m.mem ∧
          (s.g.present = true → s.g.gid = q.gid → ∀ k ∈ t.g.tickets, k.sid = q.sid → k.done = true ∧ k.code = 0x09 ∧ k.steps = q.t)) ∧
        (∀ x, s.liveTag q.ctx q.inc = true → s.stackHeld q.page = false → q.uops[q.idx]? = some x → s.met.pendingAt q.pc = [] →
          let op := x.toNat / 2 ^ 28
          let slot := x.toNat % 2 ^ 8 + q.t * q.winc
          let last := q.steps ≤ q.nextOp.t
          (op = 1 ∨ op = 3 ∨ op = 4 → s.m.bankPoisoned (q.page + 16384 * slot) 16384 = false →
            ∃ t, exec (.nbRowOperation pc) s = .next t ∧ t.m.mem = s.m.mem ∧
              if last then ∀ y ∈ t.eng.nb, y.sid ≠ q.sid
              else ∃ y ∈ t.eng.nb, y.sid = q.sid ∧ (y.t, y.idx) = (q.nextOp.t, q.nextOp.idx) ∧
                y.acc = q.accAfter x fun b p => BitVec.ofNat 16 (Store.getLE s.m.mem (place slot b p) 2)) ∧
          (op = 2 → s.met.rowHeld q slot = [] → inStore (q.page + 16384 * slot) = false → ∃ t, exec (.nbRowOperation pc) s = .next t ∧
            (∀ b p, b < 16 → p < 512 → Store.getLE t.m.mem (place slot b p) 2 = (Store.get q.acc (512 * (4 * b + x.toNat / 2 ^ 26 % 4) + p)).toNat) ∧
            (∀ y, y < q.page + 16384 * slot ∨ q.page + 16384 * (slot + 1) ≤ y → Store.get t.m.mem y = Store.get s.m.mem y) ∧
            if last then ∀ y ∈ t.eng.nb, y.sid ≠ q.sid
            else ∃ y ∈ t.eng.nb, y.sid = q.sid ∧ (y.t, y.idx) = (q.nextOp.t, q.nextOp.idx) ∧ y.acc = q.acc)) ∧
        (∃ t, exec (.refreshDue pc) s = .next t ∧ pc ∈ t.eng.refresh ∧ (∀ x, x ∈ t.eng.refresh ↔ x ∈ s.eng.refresh ∨ x = pc) ∧ t.m = s.m ∧ t.eng.nb = s.eng.nb)) ∧
      (s.eng.nb.find? (fun x => decide (x.pc = pc)) = none → ∃ t, exec (.refreshDue pc) s = .next t ∧ t.eng = s.eng ∧ t.m = s.m ∧ t.onchip = s.onchip)))

/-- R295, R296, R395, R396: LAND opens a landing of its region with no unit landed, or says that none is free, closes one once its units have landed and its region can
be written, or gives its status; a check that fails traps; a close or query without a landing gives a value that the spec leaves open (log 18). A packet for an open
landing is added and its units counted, a malformed one is rejected, one whose landing is not open is held up to 1 ms, and one of a stale binding is dropped and
counted. The region of a buffered landing whose close waits is written once, each element rounded once. The address that a fault of a later unit of the region gives is
log 101's choice. -/
def Obligations.Landings : Prop := ∀ (s : State) (d a b : Reg) (n ep k : Nat) (h : BitVec 128) (data : List (BitVec 8)),
  let i := Instr.land d a b
  let u := s.start i
  let v := s.met
  let count := h.toNat / 2 ^ 96 % 2 ^ 16
  let first := h.toNat / 2 ^ 64 % 2 ^ 16
  (s.issues i = true → s.issuer = none → ∃ t, exec i s = .next t ∧ OnlyWrote s t []) ∧
  (s.issues i = true → s.issuer = some n → u.landGo a b = true →
    let o := u.landOps a b n
    match u.landCheck o with
    | (w, .trap c x y) => exec i s = .next (w.raiseWalk i c x y)
    | (w, .over) => exec i s = .next w
    | (_, .wait) => False
    | (w, .units ps) =>
      let pas := ps.map (·.1)
      let writes := fun (t : State) (r : W32) => Wrote u t d (fun _ => r) ∧ KeepsRegs s t (u.places d false) ∧ KeepsPreds s t ∧ GoesOn s t
      (o.op = 0 →
        let mine := s.eng.landings.filter fun x => decide (x.stack = stackAt (pas.headD 0))
        let buffered := fun (f : Nat) => 1 ≤ f ∧ f ≤ 4
        let room := fun (f n : Nat) => if buffered f then n * (64 / landBytes f) * 4 else 0
        if 16 ≤ mine.length ∨ 2 ^ 20 < (mine.map fun y => room y.fmt y.pas.length).sum + room o.fmt pas.length then
          ∃ t, exec i s = .next t ∧ writes t 0x01000000#32 ∧ t.eng.landings = s.eng.landings
        else s.eng.held = [] → (buffered o.fmt → ∀ pa ∈ pas, w.m.bankPoisoned pa 64 = false ∧ w.m.dirOf (lineOf pa) = none) →
          ∃ t, exec i s = .next t ∧ writes t 0x80000000#32 ∧
            ∃ x, t.eng.landings = s.eng.landings ++ [x] ∧ x.ctx = s.g.ctx ∧ x.inc = s.g.inc ∧ x.va = o.va ∧ x.pas = pas ∧
            x.fmt = o.fmt ∧ x.expected = o.expected.toNat ∧ x.landed = 0 ∧ x.closing = none ∧ x.written = false ∧
            (buffered o.fmt → ∀ p q, p < pas.length → q < 64 / landBytes o.fmt → Store.get x.buffer (p * (64 / landBytes o.fmt) + q) = BitVec.ofNat 32
              (f32.rnd rne false (landVal o.fmt (Store.getLE w.m.mem (pas.getD p 0 + landBytes o.fmt * q) (landBytes o.fmt)))))) ∧
      (∀ x, o.op = 2 → s.landing s.g.ctx o.va = some x → ∃ t, exec i s = .next t ∧
        writes t (BitVec.ofNat 32 ((if x.expected ≤ x.landed then 2 ^ 31 else 0) + min x.landed 0xFFFFFF)) ∧ KeepsGroup s t ∧
        KeepsRest s { t with m := s.m, fab := s.fab, ck := s.ck }) ∧
      (o.op ≠ 0 → s.landing s.g.ctx o.va = none → ∃ t, exec i s = .next t ∧ KeepsRegs s t (u.places d false) ∧ KeepsPreds s t ∧ GoesOn s t) ∧
      (∀ x, o.op = 1 → s.landing s.g.ctx o.va = some x → ∃ t, exec i s = .next t ∧ writes t (BitVec.ofNat 32 (2 ^ 31 + min x.landed 0xFFFFFF)) ∧
        ∀ y ∈ t.eng.landings, y.k ≠ x.k)) ∧
  (∀ c j, s.fab.endpoints.find? (fun e => decide (e.1 = ep)) = some (ep, c, j) →
    let ok := hdrBad h = false ∧ count ≠ 0 ∧ count ≤ 64 ∧ data.length = 64 * count
    (s.liveTag c j = false → exec (.landingPacket ep h data) s = .next { v with dev := { v.dev with dropc := v.dev.dropc + 1 } }) ∧
    (s.liveTag c j = true → ¬ok → ∃ t, exec (.landingPacket ep h data) s = .next t ∧ t.eng = s.eng ∧ t.m.mem = s.m.mem ∧ t.dev = s.dev ∧ t.g.vregs = s.g.vregs) ∧
    (∀ x, s.liveTag c j = true → ok → s.openLanding c (h.setWidth 64) = some x → h.toNat / 2 ^ 112 % 16 = x.fmt → first + count ≤ x.pas.length →
      v.landReady (v.seq + 1) x first count = true → (∀ p ∈ x.pas, s.m.bankPoisoned p 64 = false ∧ Bare s p) →
      ∃ t, exec (.landingPacket ep h data) s = .next t ∧ t.eng.held = s.eng.held ∧
        ∃ y ∈ t.eng.landings, y.k = x.k ∧ y.va = x.va ∧ y.landed = x.landed + count) ∧
    (s.liveTag c j = true → ok → s.openLanding c (h.setWidth 64) = none → ∃ t p, exec (.landingPacket ep h data) s = .next t ∧
      t.eng.held = s.eng.held ++ [p] ∧ p.ctx = c ∧ p.inc = j ∧ p.hdr = h ∧ p.data = data ∧ p.since = s.dev.time ∧ t.m = s.m)) ∧
  (∀ p, s.eng.held.find? (fun p => decide (p.k = k)) = some p → p.since.toNat + 1000000 ≤ s.dev.time.toNat → s.liveTag p.ctx p.inc = true →
    s.openLanding p.ctx (p.hdr.setWidth 64) = none →
    ∃ t, exec (.landingPacketHoldExpiry k) s = .next t ∧ t.m.mem = s.m.mem ∧ ∀ q ∈ t.eng.held, q.k ≠ k) ∧
  (∀ x, s.eng.landings.find? (fun x => decide (x.k = k)) = some x → x.closing ≠ none → x.written = false → v.landDone x = true →
    ∃ t, exec (.landingCloseComplete k) s = .next t ∧ (∃ y ∈ t.eng.landings, y.k = k ∧ y.written = true ∧ y.landed = x.landed) ∧
      (¬(1 ≤ x.fmt ∧ x.fmt ≤ 4) → t.m.mem = s.m.mem) ∧
      (1 ≤ x.fmt → x.fmt ≤ 4 → x.pas.Nodup → (∀ pa ∈ x.pas, pa % 64 = 0 ∧ Bare s pa) →
        (∀ p q, p < x.pas.length → q < 64 / landBytes x.fmt → Store.getLE t.m.mem (x.pas.getD p 0 + landBytes x.fmt * q) (landBytes x.fmt) =
          landRound x.fmt (Store.get x.buffer (p * (64 / landBytes x.fmt) + q)).toNat) ∧
        ∀ y, (∀ pa ∈ x.pas, y < pa ∨ pa + 64 ≤ y) → Store.get t.m.mem y = Store.get s.m.mem y))

/-! ## Launches (R306–R317) -/

/-- R309, R311: LAUNCH in its issuing lane, once what the split made before it is complete: a misaligned packet address traps, and so does a packet that fails its
checks; else d takes the result word: too big for any core, an unknown dependence, an unpublished weight set, no free slot, or a handle of the lowest free slot
and its next sequence number, and then the launch waits there with its packet. Nothing without an issuing lane. That of the split's earlier work it waits for the accesses
of the group path alone is log 102's choice. -/
def Obligations.LaunchAllocates : Prop := ∀ (s : State) (d a : Reg) (l : BitVec 4) (n : Nat),
  let i := Instr.launch d a l
  (s.issues i = true → s.issuer = none → ∃ t, exec i s = .next t ∧ OnlyWrote s t []) ∧
  (s.issues i = true → s.issuer = some n →
    let u := s.start i
    let addr := u.rd64 a n
    (addr.toNat % 128 ≠ 0 → exec i s = .next (u.raise i 0x05 addr)) ∧
    (∀ v pa ms, addr.toNat % 128 = 0 → u.homeProbe addr = (v, .ok pa ms) → v.m.poisoned pa 128 = false → u.launchGo a = true →
      let p := v.m.homeLine (lineOf pa)
      match pktTrap p addr with
      | some (c, x) => exec i s = .next (v.raise i c x)
      | none =>
        ∃ t r, exec i s = .next t ∧ KeepsRest s { t with m := s.m, fab := s.fab, ck := s.ck, launches := s.launches } ∧ KeepsGroup s t ∧
          KeepsRegs s t (u.places d false) ∧ KeepsPreds s t ∧ GoesOn s t ∧ Wrote u t d (fun _ => r) ∧
          if pktTooBig p = true then r = 0x02000000#32 ∧ t.launches = s.launches
          else if ∃ h ∈ pktDeps p, s.handle h = .unknown then r = 0x03000000#32 ∧ t.launches = s.launches
          else if s.wsetOk p = false then r = 0x04000000#32 ∧ t.launches = s.launches
          else
            match s.freeSlot with
            | none => r = 0x01000000#32 ∧ t.launches = s.launches
            | some k =>
              let old := match s.slot k with | some x => x.sequ | none => 0#16
              let q := if old = 0xFFFF#16 then 1#16 else old + 1#16
              (∀ j, j < k → s.slotFree j = false) ∧ s.slotFree k = true ∧ r = BitVec.ofNat 32 (2 ^ 31 + q.toNat * 2 ^ 8 + k) ∧
              ∃ x, t.launches = (s.launches.filter fun y => decide (y.slot ≠ k)) ++ [x] ∧ x.slot = k ∧ x.sequ = q ∧ x.st = .waiting ∧ x.packet = p ∧
                x.ctx = s.g.ctx ∧ x.inc = s.g.inc))

/-- R198, R312, R316, R317: LQUERY gives the status word at once; LWAIT gives that of a launch that has ended, as an acquire (log 79), and else is logged and waits;
ITER gives the team's next segment, at most to the end of its tile and of its range, and moves the cursor there; outside persistent mode ITER and FIXUP are illegal, and
a tile past the last traps; FIXUP adds 1 to its tile's counter at the home and gives the count with the number of teams of the tile.

R308, R310, R378: a waiting launch of a Live pair whose dependences have all ended without fault is queued, bound to the current generation of its weight set; one with
a dependence that ended with fault ends with fault; a running launch whose teams have all ended ends, with fault where a group was ended by system software (log 78);
here where no access of the launch is outstanding and it has no completion word. A launch that is not running does not complete. That ITER and FIXUP without an issuing
lane have no effect is log 43's choice, that an unknown handle counts as ended log 47's. -/
def Obligations.LaunchesRunAndEnd : Prop :=
  (∀ (s : State) (d a : Reg) (l : BitVec 4) (n : Nat) (t : Team), NamesGiven s →
    let p := s.packetOf s.g
    (∀ i ∈ [.lwait d a l, .lquery d a l, .fixup d a], s.issues i = true → s.issuer = none → ∃ t, exec i s = .next t ∧ OnlyWrote s t []) ∧
    (s.issues (.lquery d a l) = true → s.issuer = some n →
      let u := s.start (.lquery d a l)
      ∃ t, exec (.lquery d a l) s = .next t ∧ OnlyWrote s t (u.places d false) ∧ Wrote u t d fun _ => s.launchStatus (u.rd a n)) ∧
    (s.issues (.lwait d a l) = true → s.issuer = some n → s.settleLwaits = s →
      let u := s.start (.lwait d a l)
      let w := s.launchStatus (u.rd a n)
      if w.getLsbD 31 = true then ∃ t, exec (.lwait d a l) s = .next t ∧ KeepsRest s t ∧ KeepsRegs s t (u.places d false) ∧ KeepsPreds s t ∧ GoesOn s t ∧
        Wrote u t d (fun _ => w) ∧ t.g.outer = { s.g.outer with ostamp := t.g.ostamp, fstamp := t.g.fstamp } ∧ s.dev.time ≤ t.g.fstamp
      else ∃ t e, exec (.lwait d a l) s = .next t ∧ KeepsRest s t ∧ KeepsRegs s t [] ∧ KeepsPreds s t ∧ GoesOn s t ∧
        t.g.outer = { s.g.outer with log := s.g.log ++ [e] } ∧ e.seq = u.seq ∧ e.i = .lwait d a l ∧ e.pend = u.grd ∧ e.dst = u.g.dst d false ∧
        Store.get e.val 0 = (u.rd a n).setWidth 64 ∧ ∀ w ∈ s.g.owed, w ∈ t.g.owed) ∧
    (∀ h, s.launchStatus h = match s.handle h with
      | .unknown => 0x88000000#32
      | .retired => 0xB8000000#32
      | .current x => BitVec.ofNat 32 ((if x.st = .ended then 2 ^ 31 + (if x.fault then 2 ^ 30 else 0) else 0) +
          (match x.st with | .waiting => 0 | .queued => 1 | .running => 2 | .ended => 3) * 2 ^ 28 + min x.left 0xFFFFFF)) ∧
    (s.issues (.iter d) = true → pktIters p = 0 → exec (.iter d) s = .next ((s.start (.iter d)).raise (.iter d) 0x01 ((encode (.iter d)).setWidth 64))) ∧
    (s.issues (.iter d) = true → pktIters p ≠ 0 → s.issuer = none → ∃ t, exec (.iter d) s = .next t ∧ OnlyWrote s t []) ∧
    (s.issues (.iter d) = true → pktIters p ≠ 0 → s.issuer = some n → s.teamOf s.g = some t →
      let r := segment p t.tidx t.cursor
      ∃ v, exec (.iter d) s = .next v ∧ KeepsRest s { v with teams := s.teams } ∧ KeepsGroup s v ∧
        KeepsRegs s v ((s.start (.iter d)).places d true) ∧ KeepsPreds s v ∧ GoesOn s v ∧ Wrote64 (s.start (.iter d)) v d (fun _ => r.2.1 ++ r.1) ∧
        v.teams = s.teams.map fun x => if x.tid = t.tid then { x with cursor := r.2.2 } else x) ∧
    (∀ (q : Store 8) (k c : Nat), 0 < pktPerTile q → let stop := (k + 1) * pktIters q / pktTeams q
      (stop ≤ c → segment q k c = (0#32, 0#32, c)) ∧
      (c < stop → stop ≤ pktIters q → let e := (segment q k c).2.2
        c < e ∧ e ≤ stop ∧ e ≤ (c / pktPerTile q + 1) * pktPerTile q ∧ (e = stop ∨ e = (c / pktPerTile q + 1) * pktPerTile q) ∧
        (segment q k c).1 = BitVec.ofNat 32 (c / pktPerTile q))) ∧
    (s.issues (.fixup d a) = true → s.issuer = some n →
      let u := s.start (.fixup d a)
      let j := u.rd a n
      if pktIters p = 0 then exec (.fixup d a) s = .next (u.raise (.fixup d a) 0x01 ((encode (.fixup d a)).setWidth 64))
      else if (pktIters p + pktPerTile p - 1) / pktPerTile p ≤ j.toNat then exec (.fixup d a) s = .next (u.raise (.fixup d a) 0x09 (j.setWidth 64))
      else ∀ v q pa va ms, u.globalTarget u.g (.amo 63 63 63 0 0) .atomic false (pktFixup p + 4#64 * j.setWidth 64) = (v, .ok q pa va ms) → u.fixupGo a = true →
        v.m.poisoned pa 4 = false → AtHome v ms pa → pa % 4 = 0 →
        let k := contributors p j.toNat
        let c := (v.m.homeRead pa 4 + 1) % 2 ^ 32
        ∃ t, exec (.fixup d a) s = .next t ∧ KeepsRest s { t with m := s.m, fab := s.fab, ck := s.ck } ∧ KeepsRegs s t (u.places d false) ∧ KeepsPreds s t ∧
          GoesOn s t ∧ Wrote u t d (fun _ => BitVec.ofNat 32 ((if c = k then 2 ^ 31 else 0) + k % 2 ^ 15 * 2 ^ 16 + c % 2 ^ 16)) ∧ t.m.homeRead pa 4 = c ∧
          (∀ x, x < pa ∨ pa + 4 ≤ x → t.m.homeByte x = v.m.homeByte x) ∧
          t.g.outer = { s.g.outer with ostamp := t.g.ostamp, fstamp := t.g.fstamp } ∧ s.dev.time ≤ t.g.fstamp)) ∧
  (∀ (s : State) (k : Nat) (l : Launch), s.slot k = some l → s.liveTag l.ctx l.inc = true →
    let quiet := s.met.launchQuiet l = true ∧ pktDone l.packet = 0#64
    (l.st = .waiting → (pktDeps l.packet).any s.depFault = true → quiet → ∃ t, exec (.launchDependencesMet k) s = .next t ∧
      (t.slot k).map (fun x => (x.st, x.fault, x.sequ)) = some (.ended, true, l.sequ) ∧ t.onchip = s.onchip) ∧
    (l.st = .waiting → (pktDeps l.packet).any s.depFault = false → (pktDeps l.packet).all s.depMet = true → ∃ t, exec (.launchDependencesMet k) s = .next t ∧
      (t.slot k).map (fun x => (x.st, x.wgen, x.packet)) =
        some (.queued, (match s.wset (pktWset l.packet) with | some w => w.cur | none => 0), l.packet) ∧ t.m = s.m ∧ t.onchip = s.onchip) ∧
    (l.st = .running → l.left = 0 → quiet → ∃ t, exec (.launchCompletion k) s = .next t ∧
      (t.slot k).map (fun x => (x.st, x.fault, x.sequ)) = some (.ended, l.fault, l.sequ) ∧ t.onchip = s.onchip) ∧
    (l.st ≠ .running → exec (.launchCompletion k) s = .next s.met))

/-! ## Placement (R123, R307, R308, R314–R322, R366) -/

/-- R127, R307, R308, R343: a group at its start: lanes, helpers, arguments and entry address as the packet says, MODE 0x20 with the packet's precise bit, level SYS in
context 0 and APP elsewhere, one accumulator tile on a compute core and none on a control core, and no memory order behind it.

R310, R314, R315: the next gang of a launch of compute cores is placed when no launch before it could be and every eviction made for it is complete: each of its teams
on a core of its own, the cores in one cluster and each with room, its groups resident there at the packet's entry address. A control launch's team goes to the control
core with the fewest groups. The launch then runs. A gang that a rollback brought back is placed before new teams and counts no new one (log 61's choice, from R427 and
R452). -/
def Obligations.StartAndPlacement : Prop :=
  (∀ (l : Launch) (gid tid tidx gidx core slot order : Nat),
    let p := l.packet
    let g := startGroup l gid tid tidx gidx core slot order
    let short := !pktControl p && decide (tidx + 1 = pktTeams p) && decide (gidx + 1 = pktSize p) && decide (pktLast p ≠ 0)
    let q := 4 * ((pktLast p + 3) / 4)
    (∀ k, k < 32 → g.helper.getLsbD k = (short && decide (pktLast p ≤ k) && decide (k < q))) ∧
    (∃ x, g.split 0 = some x ∧ x.pc = pktEntry p ∧ x.rp = none ∧ x.wait = .none ∧
      ∀ k, k < 32 → x.mask.getLsbD k = (if pktControl p then decide (k = 0) else if short then decide (k < q) else true)) ∧
    (∀ e, e ≠ 0 → g.split e = none) ∧ g.parked = [] ∧
    (∀ k, k < 32 → g.getPlace 1024 k = (pktArgs p).setWidth 32 ∧ g.getPlace 1025 k = (pktArgs p >>> 32).setWidth 32 ∧
      (∀ r, r < 1024 ∨ 1026 ≤ r → g.getPlace r k = 0#32)) ∧
    g.level = (if l.ctx = 0#12 then 1 else 0) ∧ g.ctx = l.ctx ∧ g.inc = l.inc ∧ g.nregs = pktRegs p ∧ g.bank = 0 ∧
    g.ntiles = (if pktControl p then 0 else 1) ∧ g.ostamp = 0#64 ∧ g.fstamp = 0#64 ∧ g.mode = (0x20#32 ||| if pktPrecise p then 0x4000#32 else 0)) ∧
  (∀ (s : State) (ls : Nat) (l : Launch) (cs : List Nat) (k : Nat),
    let v := s.met
    let p := l.packet
    let placed := fun (t : State) (cs : List Nat) => t.m = s.m ∧
      (t.slot ls).map (fun x => (x.st, x.placed, x.victims, x.vcores)) = some (.running, l.placed + pktGang p, [], []) ∧
      ∀ j c, j < pktGang p → cs[j]? = some c → ∃ x ∈ t.teams, s.seq < x.tid ∧ x.ls = ls ∧ x.ctx = l.ctx ∧ x.tidx = l.placed + j ∧ x.core = c ∧ x.size = pktScratch p ∧
        x.xregs = pktXregs p ∧ x.xtiles = pktXtiles p ∧ ∀ i, i < pktSize p → i < 32 → ∃ g ∈ t.groups, g.place = .resident ∧ g.tid = x.tid ∧ g.core = c ∧ g.gidx.toNat = i ∧
          g.ctx = l.ctx ∧ g.inc = l.inc ∧ (g.split 0).map (·.pc) = some (pktEntry p)
    (v.slot ls = some l → pktControl p = false → v.wantsPlace l = true → v.evicting l = false → v.isNext l = true → v.gangCores l = some cs →
      (v.unplaced l = [] → ∃ t, exec (.gangPlacement ls) s = .next t ∧ placed t cs) ∧
      (v.unplaced l ≠ [] → ∃ t, exec (.gangPlacement ls) s = .next t ∧ (t.slot ls).map (fun x => (x.st, x.placed)) = some (.running, l.placed))) ∧
    (v.gangCores l = some cs → cs.Nodup ∧ (∃ j, j < 64 ∧ ∀ c ∈ cs, c / 4 = j) ∧ cs.length = (v.nextGang l).length ∧
      ∀ q ∈ cs.zip (v.gangNeeds l), v.fits q.1 l.slot q.2 = true) ∧
    (v.slot ls = some l → pktControl p = true → v.wantsPlace l = true → pktGang p = 1 → v.unplaced l = [] →
      (v.launches.any fun x => v.wantsPlace x && pktControl x.packet && x.before l) = false → v.controlCore = some k →
      ∃ t, exec (.controlCorePlacement ls) s = .next t ∧ placed t [k]) ∧
    (v.controlCore = some k → 256 ≤ k ∧ k < 288 ∧ (v.users k []).length < 16 ∧ ∀ j, 256 ≤ j → j < 288 → (v.users k []).length ≤ (v.users j []).length))

/-- R119, R123, R319, R320, R322: groups of the chosen cores are asked to yield for a launch that no cluster fits, each with a deadline of YGRACE ticks; a deadline
that has come forces the eviction; a group whose images fit leaves its core with its registers kept, one whose images do not fit runs on (log 80); an
evicted group resumes on its core before those behind it; a group that is over is removed, and with the last of a team the team, which its launch counts. -/
def Obligations.Evictions : Prop := ∀ (s : State) (ls gid : Nat) (l : Launch) (g : Group) (t : Team) (vs cs : List Nat),
  let v := s.met
  (v.slot ls = some l → pktControl l.packet = false → v.wantsPlace l = true → v.evicting l = false → v.isNext l = true → v.gangCores l = none →
    v.preemptPlan l = some (vs, cs) → (∀ x ∈ vs, ∃ h ∈ v.groups, h.gid = x ∧ h.place = .resident ∧ h.core ∈ cs) ∧
    ∃ u, exec (.preemption ls) s = .next u ∧ u.m = s.m ∧ (u.slot ls).map (fun x => (x.victims, x.vcores)) = some (vs, cs) ∧
      (∀ h ∈ u.groups, h.gid ∈ vs → h.place = .resident → h.yreq.getLsbD 63 = true) ∧
      (∀ x h, v.find x = some h → x ∉ vs → u.find x = some h) ∧
      (∀ x h, v.find x = some h → x ∈ vs → h.place = .resident → h.yreq.getLsbD 63 = false →
        u.find x = some { h with yreq := BitVec.ofNat 64 (2 ^ 63 + (s.dev.time.toNat + s.dev.ygrace.toNat) % 2 ^ 48) })) ∧
  (v.find gid = some g → g.place = .resident → v.expired g.yreq = true →
    ∃ u, exec (.yreqExpiry gid) s = .next u ∧ u.find gid = some { g with forced := true } ∧ u.m = s.m) ∧
  (v.find gid = some g → g.forced = true → g.place = .resident → g.core < 256 → v.evictable g = true → v.teamHeld g = false →
    (v.canLeave g = true → ∃ u h, exec (.groupEviction gid) s = .next u ∧ u.find gid = some h ∧ h.place = .evicted ∧ h.yreq = 0#64 ∧ h.forced = false ∧
      h.core = g.core ∧ h.vregs = g.vregs ∧ h.uregs = g.uregs ∧ h.preds = g.preds ∧ h.acc = g.acc ∧ u.m.mem = s.m.mem) ∧
    (v.canLeave g = false → ∃ u, exec (.groupEviction gid) s = .next u ∧ u.find gid = some { g with yreq := 0, forced := false } ∧ u.m = s.m)) ∧
  (∀ w, v.find gid = some g → v.isOnly g → v.teamOf g = some t → v.resumes g = true →
    (∀ h ∈ v.groups, h.present = true → h.core = g.core → h.ahead g = true → v.resumes h = false) →
    (if t.swapped then v.swapIn t.tid g.core (if t.size = 0 then 0 else (firstFit 0 0x40000 (v.scratchRuns g.core []) t.size).getD 0) else some v) = some w →
    g.log = [] → ∃ u h, exec (.groupResume gid) s = .next u ∧ u.find gid = some h ∧ h.place = .resident ∧ h.core = g.core ∧ h.splits = g.splits ∧
      h.vregs = g.vregs ∧ h.uregs = g.uregs ∧ h.preds = g.preds ∧ h.acc = g.acc ∧ (∀ x ∈ v.users g.core [], x.gid ≠ gid → x.slot ≠ h.slot)) ∧
  (v.find gid = some g → v.groupOver g = true → ∃ u, exec (.groupEnd gid) s = .next u ∧ u.find gid = none ∧ u.m.mem = s.m.mem ∧
    ((∀ h ∈ v.groups, h.present = true → h.tid = g.tid → h.gid = gid) → u.team g.tid = none ∧
      ∀ x, v.slot g.lslot.toNat = some x → x.st = .running → (u.slot g.lslot.toNat).map (·.ended) = some (x.ended + 1)))

/-- R366, R410–R413, R415, R438, R440, R15, R447: DRAIN closes a core, asks the groups that can leave to leave by TIME + YGRACE, and once none is left that could gives
how many left and whether any remains; or it opens the core again. A lapse whose groups have drained stops them where they are and commits, a torn one leaves its
record open; caches go in both. A resume goes on exactly, the core's counters as committed, or falls back where the record is open: every context that holds an image on
the core is rolled back. A trip point lowers the clock, then gates a tile. That DRAIN without an issuing lane has no effect is log 43's choice, that it acts again with
the word it began to hold with log 109's, that a group whose image has no room stays log 52's, and that the clock is restored at 100 °C or below log 58's. -/
def Obligations.DrainsAndLapses : Prop := ∀ (s : State) (d a : Reg) (core : Nat) (ok : Bool) (kept : BitVec 64) (temps : BitVec 32) (q : BitVec 2) (x : Quarter),
  let v := s.met
  let off := fun (t : State) => (t.coreRec core).lapsed = true ∧ (t.coreRec core).epoch = (s.coreRec core).epoch + 1#32 ∧
    (t.coreRec core).commitAt = s.dev.time ∧ (∀ g ∈ t.groups, g.place = .resident → g.core ≠ core) ∧ (∀ y ∈ t.m.l1, y.core ≠ core) ∧
    (∀ y ∈ t.m.icache, y.core ≠ core) ∧ (∀ y ∈ t.m.tlb, y.core ≠ core) ∧ (∀ y ∈ t.onchip.colbuf, y.core ≠ core) ∧ t.m.mem = s.m.mem ∧
    ∀ g, v.find g.gid = some g → v.isOnly g → g.place = .resident → g.core = core → (∀ e y b u, g.split e = some y → y.wait ≠ .sealing b u) → ∃ h, t.find g.gid = some h ∧ h.place = .lapsed ∧ h.core = core ∧
      h.vregs = g.vregs ∧ h.uregs = g.uregs ∧ h.preds = g.preds ∧ h.acc = g.acc
  let shut := fun (t : State) => off t ∧ (t.coreRec core).opened = false ∧
    ∀ k, k < 8 → Store.get (t.coreRec core).counts k = Store.get s.dev.evcnt (8 * core + k)
  let gates := fun (k : Nat) => core < 256 ∧ quarterOf core = k ∧ v.lapsed core = false ∧ v.charged core = true ∧ v.lapseReady core = true
  ActsOnce (.drain d a) s (fun u => u.drainGo a) (fun u t n =>
    let w := u.drainWord a n
    match u.drainTrap w with
    | some c => t = u.raise (.drain d a) c (w.setWidth 64)
    | none =>
      let k := w.toNat % 1024
      let r := t.coreRec k
      KeepsRegs u t (u.places d false) ∧ KeepsPreds u t ∧ GoesOn u t ∧ t.m = u.m ∧ t.onchip = u.onchip ∧
      if w.getLsbD 31 = true then Wrote u t d (fun _ => 0x80000000#32) ∧ r.closed = false ∧ r.drainer = none
      else if u.shutCore k = true ∧ u.draining k = false then Wrote u t d (fun _ => 0x80000000#32) ∧ r = u.coreRec k
      else Wrote u t d (fun _ => BitVec.ofNat 32 (2 ^ 31 + (if u.resident k = [] then 0 else 2 ^ 30) +
          (if u.draining k then (u.coreRec k).drained % 2 ^ 16 else 0))) ∧ r.drainer = none ∧ (u.draining k = false → r.closed = true)) ∧
  (∀ n, s.issues (.drain d a) = true → s.issuer = some n → let u := s.start (.drain d a)
    let k := (u.drainWord a n).toNat % 1024
    u.drainGo a = false → ∃ t y, exec (.drain d a) s = .next t ∧ t.g.split s.entry = some y ∧ y.pc = s.cur.pc ∧ y.wait = .holding true ∧ KeepsRegs s t [] ∧ t.m = s.m ∧
      (t.coreRec k).drainer = some (s.g.gid, s.entry, s.g.bank) ∧ (u.draining k = false → (t.coreRec k).closed = true ∧ (t.coreRec k).drained = 0) ∧
      ∀ g ∈ s.resident k, s.canLeave g = true → s.isOnly g → g.yreq.getLsbD 63 = false → t.find g.gid = some { g with
        yreq := BitVec.ofNat 64 (2 ^ 63 + (s.dev.time.toNat + s.dev.ygrace.toNat) % 2 ^ 48) }) ∧
  (core < 256 → v.lapsed core = false → v.charged core = true → v.lapseReady core = true →
    (v.fw.halted = false → ∃ t, exec (.announcedLapse core) s = .next t ∧ shut t) ∧
    ∃ t, exec (.unannouncedLapse core true kept) s = .next t ∧ shut t) ∧
  (core < 256 → v.lapsed core = false → ok = false ∨ v.charged core = false →
    ∃ t, exec (.unannouncedLapse core ok kept) s = .next t ∧ off t ∧ (t.coreRec core).opened = true) ∧
  ((v.coreRec core).lapsed = true → v.fw.halted = false → (∀ z ∈ v.quarters, core ∉ z.gated) →
    ((v.coreRec core).opened = true → ∃ t, exec (.tileResume core) s = .next t ∧ (t.coreRec core).lapsed = false ∧ (t.coreRec core).resumedAt = some s.dev.time ∧
      (∀ i ∈ t.ck.images, i.core ≠ core) ∧ (∀ k, k < 8 → Store.get t.dev.evcnt (8 * core + k) = 0#64) ∧
      ∀ i ∈ v.ck.images, i.core = core → ∀ c y, (if i.team then (v.team i.owner).map (·.ctx) else (v.find i.owner).map (·.ctx)) = some c → v.ctx c = some y → y.live = true →
        (t.ctx c).map (fun z => (z.live, z.rolling, z.cur)) = some (false, true, y.cur + 1#8) ∧ ∀ h ∈ t.groups, h.present = true → h.ctx ≠ c) ∧
    ((v.coreRec core).opened = false → (∀ g ∈ v.groups, g.place = .lapsed → g.core = core → g.log = [] ∧ v.isOnly g) →
      ∃ t, exec (.tileResume core) s = .next t ∧ (t.coreRec core).lapsed = false ∧ (t.coreRec core).resumedAt = some s.dev.time ∧ t.m = s.m ∧
        (Store.wf s.dev.evcnt = true → Store.wf (s.coreRec core).counts = true → ∀ k, k < 8 → Store.get t.dev.evcnt (8 * core + k) = Store.get (s.coreRec core).counts k) ∧
        ∀ g ∈ v.groups, g.place = .lapsed → g.core = core → t.find g.gid = some { g with place := .resident })) ∧
  (s.fw.runs = true → ∃ t, exec (.thermalForecastUpdate temps) s = .next t ∧ t.dev.thfc = (s.dev.time.setWidth 32 ++ temps : BitVec 64)) ∧
  (s.quarters[q.toNat]? = some x → ∀ temp,
    (temp ≤ 100 → temp < x.trip → ∃ t, exec (.junctionTrip q temp core) s = .next t ∧
      t.quarters[q.toNat]? = some { x with lowered := false, gated := [] }) ∧
    (100 < temp → temp < x.gate → x.trip ≤ temp → ∃ t, exec (.junctionTrip q temp core) s = .next t ∧ t.quarters[q.toNat]? = some { x with lowered := true }) ∧
    (x.gate ≤ temp → x.trip ≤ temp → gates q.toNat → ∃ t, exec (.junctionTrip q temp core) s = .next t ∧ shut t ∧
      t.quarters[q.toNat]? = some { x with lowered := true, gated := x.gated ++ [core] }) ∧
    (x.lowered = true → gates q.toNat → ∃ t, exec (.quarterPowerLimit q core) s = .next t ∧ shut t) ∧
    (x.lowered = false → ∃ t, exec (.quarterPowerLimit q core) s = .next t ∧ t.quarters[q.toNat]? = some { x with lowered := true } ∧ t.ck = s.ck))

/-! ## Splits, allotments and moves (R121, R132, R133, R140–R151, R351, R357) -/

/-- R121, R132, R133, R163, R169, R345, R351, R357, R445, R447: TIME advances by 1 with each tick; writes of lease lengths, of MCSEL and of counters by other
cores take effect; a split held for 65,536 ticks is released; two splits with equal PCs that nothing holds merge into the lower one; a yield ends when its
writes are done; of the retry-parked splits of a core the oldest tries again; a waiting trap entry is made when the group is quiet; the reports of
one control core are delivered as one, naming the latest record. -/
def Obligations.SplitEvents : Prop := ∀ (s : State) (gid e lo hi ctl : Nat) (g : Group) (x y : Split),
  let v := s.met
  (∃ t, exec .timeTick s = .next t ∧ t.dev.time = s.dev.time + 1#64) ∧
  (∀ (q : BitVec 2) (x : BitVec 32), x.toNat < 2 ^ 16 → ∃ t, exec (.l2leaseWrite q x) s = .next t ∧ t = { v with dev := { v.dev with lease := t.dev.lease } } ∧
    ∀ k, Store.get t.dev.lease k = if k = q.toNat then x else Store.get s.dev.lease k) ∧
  (∀ x : BitVec 32, x.toNat ≤ 143 → exec (.mcselWrite x) s = .next { v with dev := { v.dev with mcsel := x } }) ∧
  (∀ (k : BitVec 3) (x : BitVec 64), ∃ t, exec (.evcntWrite ctl k x) s = .next t ∧ t = { v with dev := { v.dev with evcnt := t.dev.evcnt } } ∧
    ∀ j, Store.get t.dev.evcnt j = if j = 8 * ctl + k.toNat then x else Store.get s.dev.evcnt j) ∧
  (v.find gid = some g →
    (g.split e = some x → g.held e = true → 65536 ≤ x.hold →
      ∃ t h z, exec (.splitHoldTimeout gid e) s = .next t ∧ t.find gid = some h ∧ h.split e = some z ∧ z = { x with rp := none, hold := 0 }) ∧
    (g.split lo = some x → g.split hi = some y → lo < hi → hi < 4 → x.pc = y.pc → x.wait.merges = true → y.wait.merges = true →
      g.atClose lo = false → g.atClose hi = false →
      ∃ t h z, exec (.splitMerge gid lo hi) s = .next t ∧ t.find gid = some h ∧ h.split lo = some z ∧ z.pc = x.pc ∧ z.mask = x.mask ||| y.mask) ∧
    (∀ p c n, g.split e = some x → x.wait = .yield p c n → g.owes p n = false →
      ∃ t h z, exec (.yieldWake gid e) s = .next t ∧ t.find gid = some h ∧ h.split e = some z ∧ z.pc = c ∧ z.mask = x.mask ∧ z.wait = .none) ∧
    (∀ n, g.split e = some x → e < 4 → x.wait = .retryParked n → g.place = .resident → v.isOnly g → (∀ p ∈ v.parkedOn g.core, n ≤ p.1) →
      exec (.waitTableRetry gid e) s = .next (v.runTagged gid e))) ∧
  (∀ r, s.g.place = .resident → s.met.quiet = true → s.g.trap = some r → exec (.trapEntry s.g.gid) s = .next (v.trapEntry r)) ∧
  (let w := v.writeRecords ctl
   ∀ h r, w.reportGroup ctl = some h → (w.reports.filter fun r => decide (r.ctl = ctl)).getLast? = some r → h.bank < 2 → h.trap = none → w.isOnly h →
    ∃ t tr, exec (.faultReportDelivery ctl) s = .next t ∧ (∀ z, z ∈ t.reports ↔ z ∈ w.reports ∧ z.ctl ≠ ctl) ∧
      tr.cause = r.cause ∧ tr.async = true ∧ tr.val = r.record ∧
      ((∃ k, t.find h.gid = some k ∧ k.trap = some tr) ∨ ({ w with reports := t.reports } : State).inGroup h.gid (fun s => s.trapEntry tr) = t))

/-- R140–R144: XACQ takes registers or tiles from its team's pool, which read zero, and XREL gives them back, each with the units then held as its result;
XACQ joins its team's queue where it must wait, and the head of the queue is granted whole. -/
def Obligations.Allotments : Prop := ∀ (s : State) (d a : Reg) (k : BitVec 6),
  let tiles := decide (k = 1#6)
  let claims := fun (i : Instr) (trap : Option (Nat × Option W64)) (regs ntiles : Nat) (kept : Nat) =>
    let u := s.start i
    (∀ c, trap = some c → exec i s = .next (u.raise i c.1 (c.2.getD (wordVal i)))) ∧
    (trap = none → ∃ t, exec i s = .next t ∧ KeepsPreds s t ∧ GoesOn s t ∧ t.g.nregs = regs ∧ t.g.ntiles = ntiles ∧ t.m = s.m ∧ t.onchip = s.onchip ∧
      Wrote u t d (fun _ => BitVec.ofNat 32 (if tiles then ntiles - 1 else (regs - s.g.base) / 32)) ∧
      ∀ p l, l < 32 → p ∉ u.places d false → (p < kept ∨ 1024 ≤ p → t.g.getPlace p l = s.g.getPlace p l) ∧ (kept ≤ p → p < regs → t.g.getPlace p l = 0#32))
  let xa := s.start (.xacq d a k)
  let xr := s.start (.xrel d a k)
  let n := (xa.value a).toNat
  let r := (xr.value a).toNat
  (s.issues (.xacq d a k) = true → xa.xacqGo a tiles = true → claims (.xacq d a k) (xa.xacqTrap tiles n)
    (if tiles then s.g.nregs else s.g.nregs + 32 * n) (if tiles then s.g.ntiles + n else s.g.ntiles) s.g.nregs) ∧
  (s.issues (.xacq d a k) = true → xa.xacqGo a tiles = false → ∃ t w, exec (.xacq d a k) s = .next t ∧ w.gid = s.g.gid ∧ w.d = d ∧
    w.n = ((s.view (.xacq d a k)).value a).toNat ∧ (t.g.split s.entry).map (fun x => (x.pc, x.mask, x.wait)) = some (s.cur.pc, s.cur.mask, .queued) ∧
    KeepsRegs s t [] ∧ t.m = s.m ∧ ∀ x, s.teamOf s.g = some x → t.teamOf t.g =
      some (if tiles then { x with queueT := x.queueT ++ [w] } else { x with queueR := x.queueR ++ [w] })) ∧
  (s.issues (.xrel d a k) = true → (xr.xrelTrap tiles r).isSome || xr.unitsIdle tiles r → claims (.xrel d a k) (xr.xrelTrap tiles r)
    (if tiles then s.g.nregs else s.g.nregs - 32 * r) (if tiles then s.g.ntiles - r else s.g.ntiles) (if tiles then s.g.nregs else s.g.nregs - 32 * r)) ∧
  (∀ tid t w ws g, let v := s.met
    v.team tid = some t → (if tiles then t.queueT else t.queueR) = w :: ws → v.find w.gid = some g → v.isOnly g → g.place = .resident → g.trap = none →
    v.lapsed g.core = false → g.tid = tid → v.unitsFree g tiles w.n = true → ∃ u h, exec (.xacqGrant tid tiles) s = .next u ∧ u.find w.gid = some h ∧
      h.nregs = (if tiles then g.nregs else g.nregs + 32 * w.n) ∧ h.ntiles = (if tiles then g.ntiles + w.n else g.ntiles) ∧ u.m = s.m ∧
      u.team tid = some (if tiles then { t with queueT := ws, xtiles := t.xtiles - w.n } else { t with queueR := ws, xregs := t.xregs - w.n }))

/-- R145, R147, R148, R150: GMIG looks its home up and notes the move it will make: to the lowest of the nearest cores that has room, or to none where that is its own,
none has room or there is no such home (R146 gives the checks of its issue, among them the translation's fault); at the close of its window the group departs where the
core has room, or stays with its reason in d; in flight it arrives on the core once its image fits there, or stays where the tile it heads for has lapsed. That a noted move which finds no room,
or whose tile lapses, ends with reason 2 is log 48's choice. -/
def Obligations.GroupMoves : Prop := ∀ (s : State) (d a : Reg) (l : BitVec 4) (gid : Nat) (g : Group) (m : GMove),
  let i := Instr.gmig d a l
  let u := s.start i
  let v := s.met
  let word := fun (h : Group) (w : Nat) => h.gmove = none ∧ h.latch = none ∧ ∀ p k, k < 32 → m.dst = .one p → m.grd.getLsbD k = true →
    (∃ o ∈ g.owed, o.id = m.id ∧ o.place = p ∧ o.lanes.getLsbD k = true) → h.getPlace p k = BitVec.ofNat 32 w
  (s.issues i = true → u.gmigGo a = true → match u.gmigTrap with
    | some c => exec i s = .next (u.raise i c (wordVal i))
    | none => match u.gmigXlate a with
      | (w, .fault c x) => exec i s = .next (w.raiseWalk i (if c = 0x10 then 0x10 else 0x06) (u.value64 a) x)
      | (w, .over) => exec i s = .next w
      | (_, .wait) => False
      | (w, .ok pa _) => ∃ t m, exec i s = .next t ∧ KeepsRest s { t with m := s.m, fab := s.fab, ck := s.ck } ∧ KeepsRegs s t [] ∧ KeepsPreds s t ∧ GoesOn s t ∧
          t.g.gmove = some m ∧ m.id = u.seq ∧ m.dest = (w.lookup pa).1 ∧ m.reason = (w.lookup pa).2 ∧ m.dst = u.g.dst d false ∧ m.grd = u.grd) ∧
  (∀ pa, (∀ k, k ∈ nearestCores pa ↔ k < 256 ∧ ∀ j, j < 256 → Config.distance k pa ≤ Config.distance j pa) ∧
    (tierOf pa = none ∨ tierOf pa = some .pool → s.lookup pa = (none, 3)) ∧
    (tierOf pa ≠ none → tierOf pa ≠ some .pool → let room := fun (k : Nat) => s.roomFor s.g k = true
      (∀ k ∈ nearestCores pa, k ≠ s.g.core → room k → (∀ j ∈ nearestCores pa, j < k → j ≠ s.g.core ∧ ¬room j) → s.lookup pa = (some k, 0)) ∧
      (s.g.core ∈ nearestCores pa → (∀ j ∈ nearestCores pa, j < s.g.core → ¬room j) → s.lookup pa = (none, 1)) ∧
      ((∀ j ∈ nearestCores pa, j ≠ s.g.core ∧ ¬room j) → s.lookup pa = (none, 2)))) ∧
  (v.find gid = some g → g.gmove = some m →
    (g.place = .resident → v.moveReady g m = true →
      (m.dest = none → ∃ t h, exec (.gondola gid) s = .next t ∧ t.find gid = some h ∧ h.place = .resident ∧ h.core = g.core ∧
        word h (m.reason % 4 * 2 ^ 29 + g.core % 1024)) ∧
      (∀ k, m.dest = some k → v.roomFor g k = true → ∃ t, exec (.gondola gid) s = .next t ∧ t.find gid = some { g with place := .moving k }) ∧
      (∀ k, m.dest = some k → v.roomFor g k = false → ∃ t h, exec (.gondola gid) s = .next t ∧ t.find gid = some h ∧ h.place = .resident ∧ h.core = g.core ∧
        word h (2 ^ 30 + g.core % 1024))) ∧
    (∀ k, g.place = .moving k → v.lapsed g.core = false → (v.lapsed k = true ∨ v.imageRoom k g.frames = true) →
      ∃ t h, exec (.gondola gid) s = .next t ∧ t.find gid = some h ∧ h.place = .resident ∧
      (v.lapsed k = false → h.core = k ∧ word h (2 ^ 31 + k % 1024) ∧ s.dev.time ≤ h.fstamp ∧
        ∀ x, v.team g.tid = some x → t.team g.tid = some { x with migrated := true }) ∧
      (v.lapsed k = true → h.core = g.core ∧ word h (2 ^ 30 + g.core % 1024))) ∧
    (∀ k, g.place = .moving k → v.lapsed k = false → v.imageRoom k g.frames = false → exec (.gondola gid) s = .next v))

/-! ## Coherence, parking and the memory's own events (R163, R183, R298, R333–R336, R387–R392, R419, R432–R435) -/

/-- R163, R183, R387–R389, R391, R392, R435: the directory's events, where what they recall can perform. A fill makes an agent a sharer and leaves a former owner
one; a request for ownership leaves no other copy; a write at the home leaves the entry Invalid and no copy; a write-back leaves the owner a clean sharer
or nothing; a sharer's notice takes it off the list; the gleaner writes an old dirty line back and keeps it clean; an entry error leaves a fresh entry
and is counted. A BISnp takes the copies that can go and, once the leases have expired, answers; until then it waits at the line and no new lease is granted. A pool
write is complete with its completion, which counts as an orphan where its pair is no longer current (R360), a copy ends with its lease, and a line leaves its home
slice once its race windows are over, a dirty one by way of memory. -/
def Obligations.CoherenceEvents : Prop := ∀ (s : State) (agent line cache core rid : Nat) (evict : Bool),
  let v := s.met
  let entry := fun (t : State) => t.m.dirEntry line
  (agent < 96 → v.fillWaits 0 agent line = false → (32 ≤ agent → v.stackHeld (128 * line) = false ∧ v.m.keelLine (agent - 32) line = none ∧
      (v.m.keel.filter fun k => decide (k.cache = agent - 32)).length < 16384) →
    ∃ t, exec (.dirReadFill agent line) s = .next t ∧ ((entry v).owner = some agent ∨ agent ∈ (entry t).sharers) ∧
      (∀ a, (entry v).owner = some a → a ≠ agent → (entry t).owner = none ∧ a ∈ (entry t).sharers) ∧ (∀ a ∈ (entry v).sharers, a ∈ (entry t).sharers) ∧
      (32 ≤ agent → ∃ k, t.m.keelLine (agent - 32) line = some k ∧ k.dirty = [] ∧
        ((entry v).owner = none → ∀ j, j < 128 → Store.get k.data j = s.m.homeByte (128 * line + j)))) ∧
  (32 ≤ agent → agent < 96 → v.fillWaits 0 agent line = false → v.stackHeld (128 * line) = false →
    (v.m.keel.filter fun k => decide (k.cache = agent - 32)).length < 16384 →
    ∃ t, exec (.dirOwnershipRequest agent line) s = .next t ∧ entry t = { line := line, owner := some agent, sharers := [] } ∧
      (t.m.keelLine (agent - 32) line).isSome = true ∧ ∀ k ∈ t.m.keel, k.line = line → k.cache = agent - 32) ∧
  (v.lineTurn line 0 = true → v.ownerHeld line = false → ∃ t, exec (.dirWriteAtHome line) s = .next t ∧ t.m.dirOf line = none ∧
    (v.m.dirOf line ≠ none → ∀ k ∈ t.m.keel, k.line ≠ line) ∧ ∀ k ∈ v.m.keel, k.line ≠ line → k ∈ t.m.keel) ∧
  (v.canWriteBack agent line = true → ∃ t, exec (.dirWriteback agent line evict) s = .next t ∧
    entry t = { line := line, owner := none, sharers := if evict then [] else [agent] } ∧
    ∀ k, t.m.keelLine (agent - 32) line = some k → evict = false ∧ k.dirty = []) ∧
  (agent ∈ (entry v).sharers → ∃ t, exec (.dirCleanEvictNotice agent line) s = .next t ∧
    (entry t).sharers = (entry v).sharers.filter (fun a => decide (a ≠ agent)) ∧ (entry t).owner = (entry v).owner ∧
    (32 ≤ agent → t.m.keelLine (agent - 32) line = none) ∧ t.m.mem = s.m.mem) ∧
  (∀ k, v.m.keelLine cache line = some k → v.gleans k = true →
    (v.canWriteBack (agentOf cache) line = true → ∃ t, exec (.gleaner cache line) s = .next t ∧
      entry t = { line := line, owner := none, sharers := [agentOf cache] } ∧ ∃ x, t.m.keelLine cache line = some x ∧ x.dirty = []) ∧
    (v.canWriteBack (agentOf cache) line = false → ∃ t, exec (.gleaner cache line) s = .next t ∧ t.m = { s.m with waiting := t.m.waiting })) ∧
  (let held := v.m.keel.filter fun k => decide (k.line = line) && !k.dirty.isEmpty
   (∀ k ∈ held, ∀ d ∈ k.dirty, v.homeReady d.ctx (4 * d.word) = true) → ∃ t, exec (.directoryEntryError line) s = .next t ∧ entry t = { line := line, owner := none, sharers := [] } ∧
    (∀ k ∈ t.m.keel, k.line ≠ line) ∧ Store.get t.dev.errs 0x426 = Store.get s.dev.errs 0x426 + 1#64 ∧
    (2 ≤ held.length → ∀ j, j < 4 → t.m.poisoned (128 * line + 32 * j) 32 = true)) ∧
  (tierOf (128 * line) = some .pool →
    (v.ownerClear line = true → v.leaseOver line = true → ∃ t, exec (.bisnp line) s = .next t ∧ (∀ x ∈ t.m.l1, x.line ≠ line) ∧ t.m.dirOf line = none ∧
      (∀ k ∈ t.m.keel, v.m.dirOf line ≠ none → k.line ≠ line) ∧ (∀ w ∈ t.m.waiting, w.who ≠ snoopName line) ∧
      (v.snooped line = false → ∃ z ∈ t.fab.snoops, z.line = line ∧ z.port = poolPort (128 * line) ∧ z.answered = some s.dev.time)) ∧
    (v.ownerClear line = true → v.leaseOver line = false → ∃ t, exec (.bisnp line) s = .next t ∧ t.m.l1 = s.m.l1 ∧ t.m.dirOf line = none ∧
      ∃ w ∈ t.m.waiting, w.line = line ∧ w.who = snoopName line)) ∧
  (∀ p, (v.fab.poolWrites.find? fun p => decide (p.rid = rid)) = some p → ((v.fab.poolWrites.takeWhile fun q => decide (q.rid ≠ rid)).any p.meets) = false →
    ∃ t, exec (.poolWriteCompletion rid) s = .next t ∧ t.m = s.m ∧ t.fab.poolWrites = (s.fab.poolWrites.filter fun q => decide (q.rid ≠ rid)) ∧
      t.dev.orph = if s.liveTag p.ctx p.inc then s.dev.orph else s.dev.orph + 1) ∧
  (∃ t, exec (.leaseExpiry core line) s = .next t ∧ ∀ x, x ∈ t.m.l1 ↔ x ∈ s.m.l1 ∧ (x.core = core → x.line = line → s.dev.time < x.expiry)) ∧
  (v.windowsShut line = true → v.stackHeld (128 * line) = false → ∃ t, exec (.l2LineEviction line) s = .next t ∧ t.m.l2Line line = none ∧
    ∀ y, s.m.l2Line line = some y → Store.wf y.data = true → (∀ q ∈ y.data, q.1 < 128) → ∀ a, Store.get t.m.mem a =
      if y.dirty = true ∧ 128 * line ≤ a ∧ a < 128 * line + 128 then Store.get y.data (a - 128 * line) else Store.get s.m.mem a)

/-- R298, R333, R335, R336, R419, R432, R434: a load of a page that is being relocated parks its group, with its lane pending; a parked group wakes when what it waits
for is over, and traps with parking escalation once it has been parked for 100,000,000 ticks: FMASK holds the lanes that wait, TVAL the address of the lowest one (R336,
R352), or that of the slice word at which a CALL, RET or TRET parked; one that a sleeping stack has held up for more than 2 ms
parks with reason 2, from that point on; column writes drain oldest first; a memory error poisons its sector or is counted, and a channel retrains. -/
def Obligations.ParkingAndErrors : Prop := ∀ (s : State) (gid rid core stack pa ch sector : Nat) (g : Group) (p : Parking),
  let v := s.met
  (∀ r, (v.m.reqs.find? fun r => decide (r.rid = rid)) = some r → r.kind = .load → v.liveTag r.ctx r.inc = true → v.deferred r = true →
    v.reqWaits r = false → v.find r.gid = some g → v.isOnly g → ∃ t h q, exec (.flashDefer rid) s = .next t ∧ t.find r.gid = some h ∧ h.parking = some q ∧
      (g.parking = none → q = { reason := 1, start := s.dev.time, pend := laneBit r.lane, xfer := none } ∧
        h.parkc.toNat = 2 ^ 60 + min 2047 (g.parkc.toNat / 2 ^ 48 % 2 ^ 11 + 1) * 2 ^ 48 + s.dev.time.toNat % 2 ^ 48) ∧
      (∀ p, g.parking = some p → q = { p with pend := p.pend ||| laneBit r.lane }) ∧
      (∀ x ∈ t.m.reqs, x.gid = r.gid → x.log = r.log → x.lane = r.lane → x.accepted = true ∨ x.performed = true) ∧
      (∀ x ∈ h.log, x.seq = r.log → r.lane < 32 → x.flight.getLsbD r.lane = false) ∧ h.log.map (fun x => (x.seq, x.pend)) = g.log.map fun x => (x.seq, x.pend)) ∧
  (v.find gid = some g → v.isOnly g → g.parking = some p → g.place = .resident →
    (v.stillParked g p = false → s.dev.time.toNat < p.start.toNat + 100000000 → g.log = [] →
      ∃ t, exec (.parkingWake gid) s = .next t ∧ t.find gid = some { g with parking := none }) ∧
    (v.stillParked g p = true → s.dev.time.toNat < p.start.toNat + 100000000 → exec (.parkingWake gid) s = .next v) ∧
    (s.dev.time.toNat < p.start.toNat + 100000000 → exec (.parkingEscalation gid) s = .next v) ∧
    (p.start.toNat + 100000000 ≤ s.dev.time.toNat → ∀ i, i = .parkingWake gid ∨ i = .parkingEscalation gid →
      exec i s = .next (v.inGroup gid fun s => s.escalate p))) ∧
  (∃ (r : TrapReport) (u : State), s.escalate p = u.report r ∧ r.cause = 0x13 ∧ r.async = false ∧ u.g.parking = none ∧ u.g.parkc.getLsbD 59 = true ∧
    (∀ x ∈ u.m.reqs, x.gid = s.g.gid → x.accepted = true ∨ x.performed = true) ∧
    u.g.log.map (fun e => (e.seq, e.id, e.i, e.entry, e.pend, e.addr)) = s.g.log.map (fun e => (e.seq, e.id, e.i, e.entry, e.pend, e.addr)) ∧
    let waits := fun (e : LogEntry) (l : Nat) => e ∈ u.g.log ∧ (accSpec e.i e.mode).isSome = true ∧ l < 32 ∧ e.pend.getLsbD l = true ∧ e.flight.getLsbD l = false
    ((∃ e l, waits e l) → (∀ l, l < 32 → (r.fmask.getLsbD l = true ↔ ∃ e, waits e l)) ∧
      ∃ e l, waits e l ∧ (∀ y k, waits y k → l ≤ k) ∧ r.val = Store.get e.addr l ∧ r.ins = encode e.i ∧ r.logged = some e.id ∧ r.entry = e.entry) ∧
    ((∀ e l, ¬waits e l) → ∀ x, p.xfer = some x → r.val = x.va ∧ r.ins = x.ins ∧ r.fmask = p.pend ∧ r.entry = x.entry)) ∧
  (v.find gid = some g → v.isOnly g → g.parking = none → g.place = .resident →
    let held := (v.heldSince g).filter fun t => decide (t.toNat + 2000000 < s.dev.time.toNat)
    held ≠ [] → ∃ t h q first, exec (.thermalHoldPark gid) s = .next t ∧ t.find gid = some h ∧ h.parking = some q ∧ q.reason = 2 ∧
      first ∈ held ∧ (∀ x ∈ held, first ≤ x) ∧ q.start = first + 2000000#64 ∧ h.log = g.log) ∧
  (∃ t, exec (.thermalSelfRefresh stack) s = .next t ∧ (∀ k, k ∈ t.eng.selfRefresh ↔ k = stack ∨ k ∈ s.eng.selfRefresh) ∧ t.m = s.m) ∧
  (s.eng.held = [] → ∃ t, exec (.thermalSelfRefreshExit stack) s = .next t ∧ (∀ k, k ∈ t.eng.selfRefresh ↔ k ≠ stack ∧ k ∈ s.eng.selfRefresh) ∧ t.m = s.m) ∧
  (∀ y ys, v.lapsed core = false → s.onchip.colbuf.filter (fun y => decide (y.core = core)) = y :: ys → Store.wf y.data = true → (∀ q ∈ y.data, q.1 < 16) →
    ∃ t, exec (.columnBufferDrain core) s = .next t ∧ t.onchip.colbuf.filter (fun y => decide (y.core = core)) = ys ∧
      (∀ j, j < 16 → Store.get t.onchip.column (columnKey core (16 * y.unit) + j) = Store.get y.data j) ∧
      (∀ a, a < columnKey core (16 * y.unit) ∨ columnKey core (16 * y.unit) + 16 ≤ a → Store.get t.onchip.column a = Store.get s.onchip.column a) ∧ t.m = s.m) ∧
  (∃ t, exec (.memoryError pa false) s = .next t ∧ pa / 32 ∈ t.m.poison ∧ t.m.mem = s.m.mem) ∧
  (tierOf pa = some .hbm → ∃ t, exec (.memoryError pa true) s = .next t ∧ t.m.poison = s.m.poison ∧
    Store.get t.dev.errs 0x420 = Store.get s.dev.errs 0x420 + 1#64) ∧
  (ch < 128 → (s.channel ch).calAt.toNat + s.fab.calEvery.toNat ≤ s.dev.time.toNat →
    ∃ t, exec (.channelRecalibration ch) s = .next t ∧ (t.channel ch).calAt = s.dev.time) ∧
  (tierOf (32 * sector) = some .hbm → channelAt (32 * sector) = ch →
    (∃ t, exec (.channelRecovery ch sector true true) s = .next t ∧ (t.channel ch).failing = 0 ∧ t.m.poison = s.m.poison ∧
      Store.get t.dev.errs 0x424 = Store.get s.dev.errs 0x424 + 1#64) ∧
    (∃ t, exec (.channelRecovery ch sector true false) s = .next t ∧ (t.channel ch).failing = 0 ∧ sector ∈ t.m.poison) ∧
    (∀ c, ∃ t, exec (.channelRecovery ch sector false c) s = .next t ∧ (t.channel ch).failing = (s.channel ch).failing + 1 ∧
      (2 ≤ (s.channel ch).failing → ch ∈ t.m.dead)))

/-! ## Flash streams, weight sets and residency (R334, R337–R341, R371–R382) -/

/-- R371–R375: APPEND whose checks pass takes a log entry for its block (that it takes one is log 69's choice), and the storage processor accepts the block whole, at the
stream's accepted length, or not at all, which d then says (a first read of poison rolls the context back); APSEAL seals an Open stream at its accepted length, at once
where that is durable; APWAIT gives the durable length at once, or once what it found accepted is durable. A check that fails traps, and without an issuing lane nothing
happens (for APSEAL and APWAIT log 43's choice). -/
def Obligations.FlashStreams : Prop := ∀ (s : State) (d a b : Reg) (l : BitVec 4) (n rid : Nat) (x : Stream) (g : Group) (e : LogEntry), NamesGiven s →
  let i := Instr.append d a l
  let u := s.start i
  let v := s.met
  (∀ j ∈ [i, .apseal d a l, .apwait d a b l], s.issues j = true → s.issuer = none → ∃ t, exec j s = .next t ∧ OnlyWrote s t []) ∧
  (s.issues i = true → s.issuer = some n → u.appendGo a = true → match u.appendCheck a n with
    | (w, .trap c y z) => exec i s = .next (w.raiseWalk i c y z)
    | (w, .over) => exec i s = .next w
    | (_, .wait) => False
    | (_, .ok x _) => ∃ t, exec i s = .next t ∧ (((s.ctx s.g.ctx).map (·.poisoned) = some false ∧ (t.ctx s.g.ctx).map (·.poisoned) = some true ∧
        ((s.ctx s.g.ctx).map (·.live) = some true → (t.ctx s.g.ctx).map (·.rolling) = some true)) ∨
        ∃ e, KeepsRegs s t [] ∧ KeepsPreds s t ∧ GoesOn s t ∧ t.onchip = s.onchip ∧ t.fl = s.fl ∧ t.launches = s.launches ∧ t.teams = s.teams ∧
          t.g.log = s.g.log ++ [e] ∧ e.seq = u.seq ∧ e.i = i ∧ e.pend = u.grd ∧ e.flight = u.grd ∧ e.dst = u.g.dst d false ∧ e.aux = x.base ∧
          (Store.get e.addr 0).toNat = appendCount (u.blk a 4 n))) ∧
  ActsOnce (.apseal d a l) s (fun u => u.apsealGo a) (fun u t n => match u.nameStream (u.rd64 a n) with
    | .trap c w => t = u.raiseWalk (.apseal d a l) c (u.rd64 a n) w
    | .poison => t = u.poisonStop (.apseal d a l) (u.rd64 a n)
    | .stream x => (∀ e ∈ u.g.log, e.aux = x.base → e.flight = 0#32) → GoesOn u t ∧ KeepsPreds u t ∧
        (x.st ≠ .opened → Wrote u t d (fun _ => BitVec.ofNat 32 (0xC2000000 + x.sealv / 128)) ∧ KeepsRegs u t (u.places d false) ∧ t.fl = u.fl ∧ t.m = u.m) ∧
        (x.st = .opened → x.durable = x.accepted → Wrote u t d (fun _ => BitVec.ofNat 32 (2 ^ 31 + x.accepted / 128)) ∧ KeepsRegs u t (u.places d false) ∧
          (t.stream x.base).map (fun y => (y.st, y.sealv, y.durable)) = some (.sealed, x.accepted, x.durable)) ∧
        (x.st = .opened → x.durable ≠ x.accepted → KeepsRegs u t [] ∧ t.m = u.m ∧
          (t.stream x.base).map (fun y => (y.st, y.sealv, y.durable)) = some (.sealing, x.accepted, x.durable) ∧
          ∃ e, t.g.log = u.g.log ++ [e] ∧ e.seq = u.seq ∧ e.i = .apseal d a l ∧ e.pend = u.grd ∧ e.dst = u.g.dst d false)) ∧
  (s.settleApwaits = s → ActsOnce (.apwait d a b l) s (fun _ => true) fun u t n =>
    let w := u.rd b n
    if w.toNat / 2 ≠ 0 then t = u.raise (.apwait d a b l) 0x02 (w.setWidth 64)
    else match u.nameStream (u.rd64 a n) with
    | .trap c y => t = u.raiseWalk (.apwait d a b l) c (u.rd64 a n) y
    | .poison => t = u.poisonStop (.apwait d a b l) (u.rd64 a n)
    | .stream x => u.stream x.base = some x → x.accepted < 2 ^ 64 → GoesOn u t ∧ KeepsPreds u t ∧ t.fl = u.fl ∧ t.m = u.m ∧
      let word := BitVec.ofNat 32 ((if x.accepted ≤ x.durable ∨ x.st = .sealed then 2 ^ 31 else 0) + (if x.st = .opened then 0 else 2 ^ 30) + x.durable / 128 % 2 ^ 24)
      if w.getLsbD 0 = false ∨ x.accepted ≤ x.durable then Wrote u t d (fun _ => word) ∧ KeepsRegs u t (u.places d false) ∧ t.g.log = u.g.log
      else KeepsRegs u t [] ∧ ∃ e, t.g.log = u.g.log ++ [e] ∧ e.seq = u.seq ∧ e.i = .apwait d a b l ∧ e.pend = u.grd ∧ e.dst = u.g.dst d false ∧
        (Store.get e.val2 0).toNat = x.accepted) ∧
  ((v.groups.find? fun g => g.present && g.log.any fun x => decide (x.seq = rid)) = some g → v.isOnly g → g.entryOf rid = some e → e.i = i →
    e.flight ≠ 0#32 → Store.get e.val 1 ≠ 0#64 → g.appendsBefore e = false → s.stream e.aux = some x →
    let k := (Store.get e.addr 0).toNat
    let code := (Store.get e.val 0).toNat
    ∃ t, exec (.appendAccept rid) s = .next t ∧
      let answers := fun (w : Nat) => ∀ h, t.find g.gid = some h → (∀ z ∈ h.log, z.seq ≠ rid) ∧ ∀ p l, l < 32 → e.dst = .one p → e.pend.getLsbD l = true →
        (∃ o ∈ g.owed, o.id = rid ∧ o.place = p ∧ o.lanes.getLsbD l = true) → h.getPlace p l = BitVec.ofNat 32 w
      if code = 0 ∧ x.st = .opened ∧ x.accepted + k ≤ x.size then
        t.stream e.aux = some { x with accepted := x.accepted + k } ∧ answers (2 ^ 31 + x.accepted / 128) ∧
        (∀ j, j < k → Store.get t.m.mem (x.base + x.accepted + j) = byteOf (Store.get e.val2 (j / 8)).toNat (j % 8)) ∧
        ∀ y, y < x.base + x.accepted ∨ x.base + x.accepted + k ≤ y → Store.get t.m.mem y = Store.get s.m.mem y
      else t.fl = s.fl ∧ t.m = s.m ∧ answers (0xC0000000 + (if code ≠ 0 then code else if x.st ≠ .opened then 2 else 1) * 2 ^ 24))

/-- R334, R377–R382: WSGET pins the current generation of a weight set, up to four pins a group, or gives the one its launch is bound to; WSREL takes a pin away once
the split's loads are complete; WSSET creates, publishes or deletes a stream, or registers a leaf, and says what failed; a generation that is not current
and that nothing pins may be reclaimed; a sealed page is moved in two events, once no read of it is in flight. -/
def Obligations.WeightSets : Prop := ∀ (s : State) (d a b : Reg) (l : BitVec 4),
  let i := Instr.wsget d a l
  let j := Instr.wsrel a b l
  let k := Instr.wsset d a b l
  let v := s.met
  let quad := (List.range 4).map fun m => d + BitVec.ofNat 6 m
  let wroteFour := fun (u t : State) (f : Nat → W32) => KeepsRegs u t (quad.flatMap fun r => u.places r false) ∧ KeepsPreds u t ∧ GoesOn u t ∧
    ∀ m p, m < 4 → u.g.regPlace (d + BitVec.ofNat 6 m) = some p → (∀ r, r < 4 → r ≠ m → u.g.regPlace (d + BitVec.ofNat 6 r) ≠ some p) →
      ∀ q, q < 32 → t.g.getPlace p q = afterWrite u.g p u.grd (fun _ => f m) q
  let found := fun (r : GenRec) (m : Nat) => match m with
    | 0 => BitVec.ofNat 32 (2 ^ 31 + r.gen)
    | 1 => BitVec.ofNat 32 r.pages
    | 2 => r.gbase.setWidth 32
    | _ => (r.gbase >>> 32).setWidth 32
  let failed := fun (f m : Nat) => if m = 0 then BitVec.ofNat 32 (f * 2 ^ 24) else 0#32
  ActsOnce i s (fun _ => true) (fun u t n =>
    let w := u.rd a n
    let h := w.toNat % 64
    if w.toNat / 64 % 2 ^ 25 ≠ 0 then t = u.raise i 0x02 (w.setWidth 64)
    else if w.getLsbD 31 = true then t.fl = u.fl ∧ t.m = u.m ∧ t.g.pins = u.g.pins ∧
      match (u.launchOf u.g).filter (fun x => decide (pktWset x.packet = h) && decide (x.wgen ≠ 0)), u.wset h with
      | some x, some ws => wroteFour u t (match ws.rec_ x.wgen with | some r => found r | none => failed 2)
      | _, _ => wroteFour u t (failed 2)
    else match (u.wset h).bind fun ws => ws.rec_ ws.cur with
      | none => wroteFour u t (failed (if h = 0 then 2 else 1)) ∧ t.fl = u.fl ∧ t.m = u.m ∧ t.g.pins = u.g.pins
      | some r =>
        if 4 ≤ u.g.pins.length ∨ 65535 ≤ r.gpins then t = u.raise i 0x17 (BitVec.ofNat 64 h)
        else wroteFour u t (found r) ∧ t.m = u.m ∧ t.g.pins = u.g.pins ++ [{ ws := h, gen := r.gen }] ∧
          ((t.wset h).bind fun ws => ws.rec_ r.gen) = some { r with gpins := r.gpins + 1 }) ∧
  ActsOnce j s (fun u => u.issuer.isNone || !u.readsPending u.g u.here u.act) (fun u t n =>
    let w := (u.rd a n).toNat
    let y := (u.rd b n).toNat
    let p : Pin := { ws := w, gen := y }
    if 64 ≤ w then t = u.raise j 0x02 (BitVec.ofNat 64 w)
    else if 2 ^ 16 ≤ y then t = u.raise j 0x02 (BitVec.ofNat 64 y)
    else if p ∉ u.g.pins then t = u.raise j 0x17 (BitVec.ofNat 64 (2 ^ 31 + w))
    else KeepsRegs u t [] ∧ KeepsPreds u t ∧ GoesOn u t ∧ t.m = u.m ∧ t.g.pins = u.g.pins.erase p ∧
      ∀ r, ((u.wset w).bind fun ws => ws.rec_ y) = some r → (((t.wset w).bind fun ws => ws.rec_ y).map (·.gpins)) = some (r.gpins - 1)) ∧
  ActsOnce k s (fun u => match u.issuer with
      | none => true
      | some n => wssetBad (u.rd a n) || decide ((u.rd a n).toNat / 2 ^ 28 ≠ 1) || !u.releaseWaits u.g u.here u.act 6) (fun u t n =>
    let w := (u.rd a n).toNat
    let op := w / 2 ^ 28
    if 4 < op ∨ w / 64 % 2 ^ 22 ≠ 0 ∨ (op = 1 ∧ w % 64 = 0) ∨ (op ≠ 1 ∧ w % 64 ≠ 0) then t = u.raise k 0x02 (BitVec.ofNat 64 w)
    else if op = 1 ∧ (u.stream (u.rd64 b n).toNat).any (fun x => u.publishPoison x (u.rd64 (b + 2) n)) = true then t = u.poisonStop k (u.rd64 (b + 2) n)
    else
      let x := (u.rd64 b n).toNat
      let y := u.rd64 (b + 2) n
      let r := match op with
        | 0 => u.wsCreate (u.blk b 0 n).toNat ((u.blk b 1 n).setWidth 12)
        | 1 => u.wsPublish (w % 64) x y
        | 2 => u.wsDelete x
        | 3 => u.wsRegister true x y.toNat
        | _ => u.wsRegister false x y.toNat
      t.fl = r.1.fl ∧ t.m = u.m ∧ wroteFour u t fun m => match m with
        | 0 => BitVec.ofNat 32 (if r.2.1 = 0 then 2 ^ 31 + r.2.2.1 else r.2.1 * 2 ^ 24)
        | 1 => 0#32
        | 2 => BitVec.ofNat 32 r.2.2.2
        | _ => BitVec.ofNat 32 (r.2.2.2 / 2 ^ 32)) ∧
  (∀ size c t f x base, s.wsCreate size c = (t, f, x, base) → (f ≠ 0 → t = s) ∧
    (size = 0 ∨ 512 < size → f = 1) ∧ (4096 ≤ s.fl.streams.length → f ≠ 0) ∧
    (f = 0 → ∃ y, t.fl.streams = s.fl.streams ++ [y] ∧ y.base = base ∧ y.size = size * 0x200000 ∧ y.owner = c ∧ y.st = .opened ∧ y.accepted = 0 ∧ y.durable = 0 ∧
      0x40000000000 ≤ base ∧ base + y.size ≤ 0x80000000000 ∧ ∀ z ∈ s.fl.streams, base + y.size ≤ z.base ∨ z.base + z.size ≤ base)) ∧
  (∀ h base gbase t f gen z, s.wsPublish h base gbase = (t, f, gen, z) → 0 < h → h < 64 → (f ≠ 0 → t = s) ∧
    ((∀ x, s.stream base = some x → x.st ≠ .sealed) → f = 6) ∧
    (f = 0 → ∃ x ws r, s.stream base = some x ∧ x.st = .sealed ∧ t.wset h = some ws ∧ ws.cur = gen ∧ ws.recs.length ≤ 4 ∧ r ∈ ws.recs ∧ r.gen = gen ∧
      r.stream = base ∧ r.gbase = gbase ∧ r.gpins = 0 ∧ r.lpins = 0 ∧ 0 < gen ∧ gen < 65536 ∧ ∀ y, s.wset h = some y → gen = y.cur % 65535 + 1)) ∧
  (∀ base t f x z, s.wsDelete base = (t, f, x, z) → (f ≠ 0 → t = s) ∧ (s.stream base = none → f = 6) ∧
    ((∃ w ∈ s.fl.sets, ∃ r ∈ w.recs, r.stream = base) → f ≠ 0) ∧ (f = 0 → t.stream base = none ∧ t.m = s.m)) ∧
  (∀ add leaf base t f x z, s.wsRegister add leaf base = (t, f, x, z) → (f ≠ 0 → t = s) ∧ t = { s with fl := { s.fl with registry := t.fl.registry } } ∧
    ((∀ x, s.stream base = some x → x.st ≠ .sealed) → f = 6) ∧
    (f = 0 → add = false → ∀ q ∈ t.fl.registry, q ∈ s.fl.registry) ∧ (f = 0 → add = true → ∃ q ∈ t.fl.registry, q.leaf = leaf ∧ q.level = s.leafLevel leaf)) ∧
  (∀ ws gen, ∃ t, exec (.generationReclaim ws gen) s = .next t ∧ t.fl.sets = s.fl.sets.map fun w =>
    if w.ws = ws then { w with recs := w.recs.filter fun r => !(decide (r.gen = gen.toNat) && s.reclaims w r) } else w) ∧
  (∀ page dest x, v.streamAt (4096 * page) = some x → x.st = .sealed → v.pagePinned page = false → let old := v.fl.place page
    (old ∉ v.fl.relocating → ∃ t, exec (.flashRelocation page dest) s = .next t ∧ t.fl.relocating = v.fl.relocating ++ [old] ∧ t.m = s.m) ∧
    (old ∈ v.fl.relocating → v.pageQuiet old = true → tierOf (4096 * dest) = some .flash → v.streamAt (4096 * dest) = none → (∀ m ∈ v.fl.moved, m.2 ≠ dest) →
      (∀ r ∈ v.pageLeaves page, v.partReady (sealName (4096 * page)) r.leaf = true ∧ r.leaf % 8 = 0 ∧ tierOf r.leaf ≠ some .flash ∧ AtHome s false r.leaf) →
      tierOf (4096 * old) = some .flash → Memory.wf s.m.mem = true →
      ∃ t, exec (.flashRelocation page dest) s = .next t ∧ t.fl.place page = dest ∧ old ∉ t.fl.relocating ∧
        (∀ q, q < 128 → 128 * old + q ∈ t.m.poison) ∧ ∀ q, q < 4096 → Store.get t.m.mem (4096 * dest + q) = Store.get s.m.mem (4096 * old + q)))

/-- R337–R341: THSET creates or updates a residency handle, THCLR deletes one; the migration engine decides on a move that a handle's placement allows, begins its
switch phase, and rewrites every leaf at once where none has changed, to its new tier and place with the page's bytes there, or gives the move up for 1,000,000
ticks; a compressed page that is written takes an ordinary frame, its bytes there and Z clear. That THSET and THCLR without an issuing lane have no effect is log 43's
choice, that a poisoned table entry is consumed as a load's poison log 76's; which tensors ask to move where the part gives no watermark is log 89's, and that the pages
of a demoted leaf of level 2 or 3 are never compressed, and which others are, log 38's. -/
def Obligations.ResidencyHandles : Prop := ∀ (s : State) (d a b : Reg) (n : Nat) (c : BitVec 12) (idx : BitVec 8) (x : ResHandle) (m : Move),
  let i := Instr.thset d a b
  let j := Instr.thclr d a
  let u := s.start i
  let v := s.met
  (∀ k ∈ [i, j], s.issues k = true → s.issuer = none → ∃ t, exec k s = .next t ∧ OnlyWrote s t []) ∧
  (s.issues i = true → s.issuer = some n →
    let base := u.rd64 a n
    let ctl := if b = 63#6 then 0#32 else u.rd (b + 1#6) n
    let k := (u.rd b n).toNat
    if base.toNat % 4096 ≠ 0 then exec i s = .next (u.raise i 0x05 base)
    else if k = 0 ∨ ctl.toNat / 2 ^ 8 ≠ 0 ∨ ctl.toNat / 16 % 4 ≠ 0 ∨ ctl.toNat / 64 % 4 = 3 then exec i s = .next (u.raise i 0x02 (ctl.setWidth 64))
    else if canonical base = false ∨ canonical (base + BitVec.ofNat 64 (4096 * k - 1)) = false then exec i s = .next (u.raise i 0x09 base)
    else if u.thsetPoison base (u.rd b n) = true then exec i s = .next (u.poisonStop i base)
    else ∃ t, exec i s = .next t ∧ Wrote u t d (fun _ => (u.setHandle base (u.rd b n) ctl).2) ∧ KeepsRegs s t (u.places d false) ∧ KeepsPreds s t ∧
        GoesOn s t ∧ t.fl = (u.setHandle base (u.rd b n) ctl).1.fl ∧ t.m.mem = s.m.mem ∧ t.m.l2 = s.m.l2 ∧ t.m.tlb = s.m.tlb) ∧
  (∀ base k ctl, (∀ h ∈ s.fl.handles, h.gen < 256 ∧ h.idx < 256) → let r := s.setHandle base k ctl
    let mine := fun (h : ResHandle) => h ∈ s.fl.handles ∧ h.ctx = s.g.ctx ∧ h.live = true
    let made := fun (h : ResHandle) => h ∈ r.1.fl.handles ∧ h.ctx = s.g.ctx ∧ h.live = true ∧ h.base = base ∧ h.pages = k.toNat ∧ h.prio = ctl.toNat % 8 ∧
      h.placement = ctl.toNat / 64 % 4 ∧ h.compress = ctl.getLsbD 3 ∧ r.2 = BitVec.ofNat 32 (2 ^ 31 + 256 * h.gen + h.idx)
    (r.2.getLsbD 31 = false → r.1 = s) ∧ (r.2.getLsbD 31 = true → ∃ h, made h) ∧
    ((∃ h, mine h ∧ h.base = base ∧ h.pages = k.toNat) → ∃ h y, made h ∧ mine y ∧ y.base = base ∧ y.pages = k.toNat ∧ h.idx = y.idx ∧ h.gen = y.gen) ∧
    ((∀ h, mine h → h.base = base → h.pages ≠ k.toNat) →
      if s.pageFails s.g.ctx ownLeaf k.toNat base = true then r.2 = 0x02000000#32
      else if s.pageFails s.g.ctx movableLeaf k.toNat base = true then r.2 = 0x03000000#32
      else if (s.fl.handles.any fun h => decide (mine h ∧ base.toNat < h.base.toNat + 4096 * h.pages ∧ h.base.toNat < base.toNat + 4096 * k.toNat)) = true then r.2 = 0x04000000#32
      else if ((List.range 256).all fun q => s.fl.handles.any fun h => decide (mine h ∧ h.idx = q)) = true then r.2 = 0x01000000#32
      else ∃ h, made h ∧ h.gen = s.tensorGen s.g.ctx h.idx % 255 + 1 ∧ s.tensor s.g.ctx h.idx = none)) ∧
  (s.issues j = true → s.issuer = some n → let w := ((s.start j).rd a n).toNat
    (65536 ≤ w → exec j s = .next ((s.start j).raise j 0x02 (BitVec.ofNat 64 w))) ∧
    (w < 65536 → s.tensorOf w = none → ∃ t, exec j s = .next t ∧ OnlyWrote s t ((s.start j).places d false) ∧ Wrote (s.start j) t d fun _ => 0x01000000#32) ∧
    (w < 65536 → s.tensorOf w = some x → ∃ t, exec j s = .next t ∧ Wrote (s.start j) t d (fun _ => 0x80000000#32) ∧
      KeepsRegs s t ((s.start j).places d false) ∧ KeepsPreds s t ∧ GoesOn s t ∧ t.tensorOf w = none)) ∧
  (∀ up ls, v.tensor c idx.toNat = some x → v.mayMove c x.idx = true → v.wish x = some up → v.tensorLeaves x = some ls →
    ∃ t mv, exec (.migrationDecision c idx) s = .next t ∧ t.fl.moves = s.fl.moves ++ [mv] ∧ mv.ctx = c ∧ mv.idx = x.idx ∧ mv.toHbm = up ∧
      mv.since = s.dev.time ∧ mv.switching = none ∧ t.fl.decided = s.dev.time ∧ t.m = s.m) ∧
  (v.moveOf c idx.toNat = some m → (v.fl.handles.find? fun x => decide (x.ctx = c) && decide (x.idx = idx.toNat)) = some x →
    let gone := fun (t : State) => t.moveOf c idx.toNat = none ∧ (c, idx.toNat, s.dev.time + 1000000#64) ∈ t.fl.notBefore ∧ t.m.mem = s.m.mem ∧ t.m.l2 = s.m.l2
    (∃ t, exec (.tensorMoveAbandon c idx) s = .next t ∧ (v.mustAbandon m = true → gone t) ∧ (v.mustAbandon m = false → t = v)) ∧
    ∀ frame,
      (v.tensorLeaves x = none → ∃ t, exec (.tensorMoveSwitch c idx frame) s = .next t ∧ gone t) ∧
      ∀ ls, v.tensorLeaves x = some ls →
        (m.changed ls = true ∨ v.switchOver m = true → ∃ t, exec (.tensorMoveSwitch c idx frame) s = .next t ∧ gone t) ∧
        (m.changed ls = false → m.switching = none → ∃ t, exec (.tensorMoveSwitch c idx frame) s = .next t ∧ t.m = s.m ∧
          t.moveOf c idx.toNat = some { m with switching := some s.dev.time }) ∧
        (m.changed ls = false → v.switchOver m = false → m.switching ≠ none → v.switchReady m x ls (4096 * frame) = false →
          ∃ t, exec (.tensorMoveSwitch c idx frame) s = .next t ∧ t.fl = s.fl ∧ t.m.mem = s.m.mem ∧ t.m.l2 = s.m.l2) ∧
        (m.changed ls = false → v.switchOver m = false → m.switching ≠ none → v.switchReady m x ls (4096 * frame) = true →
          ∃ t, exec (.tensorMoveSwitch c idx frame) s = .next t ∧ t.moveOf c idx.toNat = none ∧
            t.fl = { v.fl with moves := t.fl.moves, zframes := t.fl.zframes } ∧ t.onchip = s.onchip ∧ t.g.vregs = s.g.vregs ∧ t.g.log = s.g.log ∧
            t = (((ls.filter fun p => decide (pteTier p.1.pte ≠ if m.toHbm then .hbm else .lpd)).foldl
              (fun y p => y.retarget x m.toHbm p (4096 * frame + 4096 * p.2)) v).endTensorMove c idx.toNat))) ∧
  (∀ up (l : Leaf) k dst, Memory.wf s.m.mem = true → (∀ y ∈ s.m.l2, ∀ q ∈ y.data, q.1 < 128) → AtHome s false l.slot → l.slot % 8 = 0 →
    let n := pageBytes l.level
    dst % 4096 = 0 → dst < 2 ^ 52 → (ptePa l.pte + n ≤ dst ∨ dst + n ≤ ptePa l.pte) → (l.slot + 8 ≤ dst ∨ dst + n ≤ l.slot) → (l.slot + 8 ≤ ptePa l.pte ∨ ptePa l.pte + n ≤ l.slot) →
    let t := s.retarget x up (l, k) dst
    let w := BitVec.ofNat 64 (t.m.homeRead l.slot 8)
    ptePa w = dst ∧ pteTier w = (if up then .hbm else .lpd) ∧ (w.getLsbD 56 = true → up = false ∧ x.compress = true ∧ l.level = 1) ∧
      w ||| 0x013FFFFFFFFFF000#64 = l.pte ||| 0x013FFFFFFFFFF000#64 ∧ (∀ e ∈ t.m.tlb, e ∈ s.m.tlb ∧ e.fromLeaf l.slot l.pte = false) ∧
      (∀ f ∈ t.fl.zframes, f.2 = l.slot → w.getLsbD 56 = true ∧ f.1 = dst / 4096) ∧
      (s.wildFrame l = false → ∀ q, q < n → s.m.l2Line (lineOf (ptePa l.pte + q)) = none → Store.get t.m.mem (dst + q) = Store.get s.m.mem (ptePa l.pte + q))) ∧
  (∀ leaf frame, let p := BitVec.ofNat 64 (v.m.homeRead leaf 8)
    let l : Leaf := { pte := p, level := 1, slot := leaf }
    p.getLsbD 0 = true → pteRule 1 p = 0 → p.getLsbD 56 = true → freshFrames false (4096 * frame) 1 [(l, 0)] = true → (∀ f ∈ v.fl.zframes, f.1 ≠ frame) →
    (v.leafFree (expandName leaf) l = false → ∃ t, exec (.compressedPageExpand leaf frame) s = .next t ∧ t.fl = s.fl ∧ t.m.mem = s.m.mem ∧ t.m.l2 = s.m.l2) ∧
    (v.leafFree (expandName leaf) l = true → ∃ t, exec (.compressedPageExpand leaf frame) s = .next t ∧ t.fl.moves = s.fl.moves ∧ (∀ f ∈ t.fl.zframes, f.2 ≠ leaf) ∧
      (Memory.wf s.m.mem = true → (∀ y ∈ s.m.l2, ∀ q ∈ y.data, q.1 < 128) → AtHome s false leaf → leaf % 8 = 0 →
        (leaf + 8 ≤ 4096 * frame ∨ 4096 * frame + 4096 ≤ leaf) → (leaf + 8 ≤ ptePa p ∨ ptePa p + 4096 ≤ leaf) →
        let w := BitVec.ofNat 64 (t.m.homeRead leaf 8)
        w.getLsbD 56 = false ∧ ptePa w = 4096 * frame ∧ w ||| 0x010FFFFFFFFFF000#64 = p ||| 0x010FFFFFFFFFF000#64 ∧
          (v.wildFrame l = false → ∀ q, q < 4096 → s.m.l2Line (lineOf (ptePa p + q)) = none →
            Store.get t.m.mem (4096 * frame + q) = Store.get s.m.mem (ptePa p + q)))))

/-! ## Checkpoints (R418, R422–R431) -/

/-- R418, R422, R426, R427, R429–R431: CKCLOSE closes the open interval of a Live context and gives its number, at once or with its outcome once it is known; SHSEAL
writes the images of its group and team and goes on; an interval closes by age and by its log's share; the oldest closed interval commits once its cores have
passed a scan; a rollback brings the context back Live in a new interval; the scan of a core passes after 8,000,000 ticks, or fails and closes the core,
which a spare replaces. -/
def Obligations.Checkpoints : Prop := ∀ (s : State) (d a b : Reg) (core : Nat) (c : BitVec 12) (x : Ctx) (iv : Interval),
  let i := Instr.ckclose d a b
  let j := Instr.shseal d
  let v := s.met
  let closes := fun (u t : State) (c : BitVec 12) (n : Nat) => (t.ctx c).map (·.opened) = some (n + 1) ∧
    ∃ w ∈ t.ck.intervals, w.c = c ∧ w.n = n ∧ w.st = .closed ∧ w.closedAt = u.dev.time ∧
      ∀ k, k ∈ w.cores ↔ (k, c) ∈ u.ck.ran
  ActsOnce i s (fun u => u.ckGo a b) (fun u t n =>
    let w := u.rd a n
    let f := u.rd b n
    if w.toNat / 2 ^ 12 ≠ 0 then t = u.raise i 0x02 (w.setWidth 64)
    else if f.toNat / 2 ≠ 0 then t = u.raise i 0x02 (f.setWidth 64)
    else match u.ctx (w.setWidth 12) with
      | some x =>
        if x.live = true then closes u t (w.setWidth 12) x.opened ∧
          (u.g.log = [] → (∀ g ∈ u.groupsOf (w.setWidth 12), g = u.g) → KeepsPreds u t ∧ GoesOn u t ∧
            if f.getLsbD 0 = true then KeepsRegs u t [] ∧ ∃ e ∈ t.g.log, e.seq = u.seq ∧ e.i = i ∧ e.pend = u.grd ∧ e.dst = u.g.dst d false ∧ e.aux = x.opened
            else KeepsRegs u t (u.places d false) ∧ Wrote u t d fun _ => BitVec.ofNat 32 (2 ^ 31 + x.opened % 2 ^ 24))
        else OnlyWrote u t (u.places d false) ∧ Wrote u t d fun _ => 0x01000000#32
      | none => OnlyWrote u t (u.places d false) ∧ Wrote u t d fun _ => 0x01000000#32) ∧
  (s.issues j = true → s.g.onControl = true → ∃ t, exec j s = .next t ∧ OnlyWrote s t ((s.start j).places d false) ∧
    Wrote (s.start j) t d fun _ => 0x80000000#32) ∧
  (s.issues j = true → s.g.onControl = false → (s.start j).drainedGroup (s.start j).g = true → s.g.log = [] →
    let w := (s.start j).stopGroup s.g.gid
    let dirty := fun owner team n => match w.imageOf owner team with | some y => w.dirtyFrames y n | none => 0
    let sealed := fun (t : State) (owner : Nat) (team : Bool) (ctx : BitVec 12) (inc : BitVec 8) => ∀ y, v.imageOf owner team = some y →
      (∀ o, y.newest = some o → o.sequ ≠ 0xFFFFFFFF#32) → ∃ z, t.imageOf owner team = some z ∧ (if team then z.snapT.isSome else z.snapG.isSome) = true ∧
        ∃ h, z.newest = some h ∧ h.reason = 3 ∧ h.ctx = ctx ∧ h.inc = inc ∧ h.team = team ∧ h.epoch = (s.coreRec s.g.core).epoch ∧
          h.sequ = match y.newest with | some o => o.sequ + 1#32 | none => 1#32
    let r := dirty s.g.gid false w.g.frames + (match w.teamOf w.g with | some q => dirty q.tid true q.frames | none => 0)
    ∃ t, exec j s = .next t ∧ KeepsRegs s t ((s.start j).places d false) ∧ KeepsPreds s t ∧ Wrote (s.start j) t d (fun _ => BitVec.ofNat 32 (2 ^ 31 + r)) ∧
      (t.g.split s.entry).map (fun y => (y.pc, y.mask)) = some (s.cur.pc + 4#64, s.cur.mask) ∧
      sealed t s.g.gid false s.g.ctx s.g.inc ∧ ∀ q, v.teamOf s.g = some q → sealed t q.tid true q.ctx (s.incOf q.ctx)) ∧
  (v.ctx c = some x → x.live = true → v.closeReady c = true →
    (x.openedAt.toNat + 2 ^ 28 ≤ v.dev.time.toNat → ∃ t, exec (.intervalAgeExpiry c) s = .next t ∧ closes v t c x.opened) ∧
    (v.dev.time.toNat < x.openedAt.toNat + 2 ^ 28 → exec (.intervalAgeExpiry c) s = .next v) ∧
    (v.shareReached x = true → ∃ t, exec (.logShareThreshold c) s = .next t ∧ closes v t c x.opened)) ∧
  (v.ctx c = some x → x.live = true → v.oldestClosed c = some iv → v.scansPassed iv = true → v.sealsAt c iv.n = [] →
    ∃ t, exec (.intervalCommit c) s = .next t ∧ (∀ w, w ∈ t.ck.intervals ↔ ∃ y ∈ s.ck.intervals, w = if y.c = c ∧ y.n = iv.n then { y with st := .committed } else y) ∧
      (∀ r, r ∈ t.ck.logs ↔ r ∈ s.ck.logs ∧ ¬(r.c = c ∧ r.n ≤ iv.n)) ∧ (t.ctx c).map (·.poisoned) = some false ∧
      (∀ y, s.stream y.base = some y → y.owner = c → (t.stream y.base).map (·.durable) = some (y.lengthAt iv.n)) ∧ t.m = s.m) ∧
  (v.ctx c = some x → x.rolling = true → v.tagGone c (x.cur - 1#8) = true → v.tagGone c x.cur = true → v.undoReady c = true → (∀ g ∈ (v.lastBound c).groups, g.present = true) →
    ∃ t, exec (.rollback c) s = .next t ∧ (t.ctx c).map (fun y => (y.live, y.rolling, y.cur, y.opened, y.openedAt)) = some (true, false, x.cur, x.opened + 1, s.dev.time) ∧
      (∀ r ∈ t.ck.logs, r.c ≠ c) ∧ (∀ w ∈ t.ck.intervals, w.c = c → w.st ≠ .closed) ∧
      ∀ g ∈ (v.lastBound c).groups, ∃ h ∈ t.groups, h.gid = g.gid ∧ h.inc = x.cur) ∧
  (∀ k, v.scanning = false → v.scannable = some k → ∃ t, exec .scanStart s = .next t ∧ (t.coreRec k).scan = some s.dev.time ∧ k ∉ t.ck.scanSkipped) ∧
  (v.scanning = true ∨ v.scannable = none → v.ck.scanTime ≤ v.dev.time → (v.coreRec v.ck.scanNext).failed = false →
    ∃ t, exec .scanStart s = .next t ∧ v.ck.scanNext ∈ t.ck.scanSkipped ∧ t.ck.scanNext = (v.ck.scanNext + 1) % 256 ∧ t.ck.scanTime = v.ck.scanTime + 8000000#64 ∧
      (v.ck.scanSkipped = [] → ∀ g ∈ v.resident v.ck.scanNext, v.canLeave g = true → ∀ h ∈ t.groups, h.gid = g.gid → h.place = .resident →
        h.yreq.getLsbD 63 = true)) ∧
  (∀ t0, (s.coreRec core).scan = some t0 →
    (t0.toNat + 8000000 ≤ s.dev.time.toNat → ∃ t, exec (.scanPass core) s = .next t ∧ (t.coreRec core).scan = none ∧ (t.coreRec core).passAt = some t0) ∧
    (s.dev.time.toNat < t0.toNat + 8000000 → exec (.scanPass core) s = .next v) ∧
    (∃ t, exec (.scanFail core) s = .next t ∧ (t.coreRec core).failed = true ∧ t.shutCore core = true ∧ (∀ y ∈ t.ck.images, y.core ≠ core) ∧
      ∀ k ∈ (s.coreRec core).ranSince, t.isLive k = false)) ∧
  (core < 256 → (s.coreRec core).failed = true → let q := quarterOf core
    Store.get s.ck.spares q ≠ 0 → Store.get s.ck.passed q ≠ 0 → (∀ y ∈ s.ctxs, y.rolling = false) →
    ∃ t, exec (.spareRepair core) s = .next t ∧ (t.coreRec core).failed = false ∧ Store.get t.ck.spares q = Store.get s.ck.spares q - 1 ∧
      Store.get t.ck.passed q = Store.get s.ck.passed q - 1 ∧ (∀ e ∈ t.m.l1, e.core ≠ core) ∧ (∀ e ∈ t.m.tlb, e.core ≠ core) ∧
      ∀ k, k < 0x800000 → Store.get t.onchip.column (columnKey core k) = 0#8)

/-! ## Deliveries, reset and attestation (R364, R395, R442, R444) -/

/-- R364, R395, R442: data from outside is written with the tag of its binding, its words on their way to their homes in order, and dropped and counted where the tag
is stale; a killed pair that an RCFENCE waits for becomes Unused once it has drained; a request of a killed pair to the pool is given up after 50 ms;
module reset leaves State.reset but for what is not volatile (log 33), with the checked image running, or in recovery. -/
def Obligations.DeviceEvents : Prop := ∀ (s : State) (ep rid : Nat) (va : BitVec 64) (data : List (BitVec 8)) (c : BitVec 12) (j : BitVec 8) (x : Ctx)
    (ok : Bool) (ver : BitVec 32),
  let v := s.met
  (∀ e ∈ [(s.fab.endpoints, Instr.ueDelivery ep va data), (s.fab.requesters, Instr.cxlIoWrite ep va data)], let i := e.2
    ((e.1.find? fun y => decide (y.1 = ep)) = none → exec i s = .next v) ∧
    ((e.1.find? fun y => decide (y.1 = ep)) = some (ep, c, j) → s.fab.deliveries = [] →
      let y : Delivery := { who := s.seq + 1, ctx := c, inc := j, va := va, data := data }
      let places := ({ v with seq := s.seq + 1 } : State).deliverTo y (wordPieces data.length va.toNat 0 data)
      (s.liveTag c j = false → ∃ t, exec i s = .next t ∧ t.dev = { s.dev with dropc := s.dev.dropc + 1 } ∧ t.m.mem = s.m.mem ∧ t.m.l2 = s.m.l2 ∧ t.m.reqs = s.m.reqs ∧
        t.fab = s.fab) ∧
      (s.liveTag c j = true → ∀ w ps, places = (w, .inl ps) →
        ∃ t new, exec i s = .next t ∧ t.m.reqs = s.m.reqs ++ new ∧ new.map (fun r => (r.va, r.key, r.size)) = ps.map (fun p => (p.1, p.2.1, p.2.2.2.length)) ∧
          (∀ r ∈ new, r.kind = .store ∧ r.ctx = c ∧ r.inc = j ∧ r.strength = .strong ∧ r.accepted = false ∧ s.seq < r.rid) ∧ t.dev.dropc = s.dev.dropc) ∧
      (s.liveTag c j = true → ∀ w, places = (w, .inr true) →
        ∃ t, exec i s = .next t ∧ t.fab.deliveries = [y] ∧ t.m.mem = w.m.mem))) ∧
  (s.ctx c = some x →
    (∃ t, exec (.endpointBinding false ep c) s = .next t ∧ (t.fab.endpoints.find? fun e => decide (e.1 = ep)) = some (ep, c, x.cur)) ∧
    (∃ t, exec (.endpointBinding true ep c) s = .next t ∧ (t.fab.requesters.find? fun e => decide (e.1 = ep)) = some (ep, c, x.cur))) ∧
  (v.ctx c = some x → v.drains c j = true → (∃ f ∈ x.fencers, f.inc = j) → NothingLeft s c j → ∃ t, exec (.rcfenceDrainEnd c j) s = .next t ∧ t.drains c j = false ∧
    t.ctx c = some { x with draining := x.draining.filter (fun k => decide (k ≠ j)), fencers := x.fencers.map fun f => if f.inc = j then { f with ended := true } else f }) ∧
  (∃ t, exec (.fabricCompletionTimeout rid) s = .next t ∧ (∀ p ∈ t.fab.poolWrites, p.rid = rid → s.liveTag p.ctx p.inc = false →
    s.dev.time.toNat < p.since.toNat + 50000000) ∧ ∀ p ∈ s.fab.poolWrites, p.rid ≠ rid ∨ s.liveTag p.ctx p.inc = true → p ∈ t.fab.poolWrites) ∧
  (∃ t, exec (.moduleReset ok ver) s = .next t ∧ t.g = State.reset.g ∧ t.others = [] ∧ t.dev = State.reset.dev ∧ t.launches = [] ∧
    t.m.mem = (s.m.mem.filter fun p => staysOver p.1) ∧ t.onchip.column = s.onchip.column ∧ t.onchip.scratch = [] ∧ t.fw.fused = s.fw.fused ∧
    (ok = true → s.fw.fused ≤ ver → t.fw.recovery = false ∧ t.fw.version = ver ∧ t.isLive 0#12 = true) ∧
    (ok = false ∨ ver < s.fw.fused → t.fw.recovery = true ∧ t.isLive 0#12 = false)) ∧
  (s.fw.recovery = true → s.fw.fused ≤ ver → ∃ t, exec (.recoveryImage true ver) s = .next t ∧ t.fw.recovery = false ∧ t.fw.version = ver ∧ t.isLive 0#12 = true)

/-- R443, R444: the responder negotiates version, capabilities and algorithms in this order (an order the model presumes, log 34), then answers for digests, for the
chain in slot 0, challenges and the five measurements (one, all, or none but their number: log 34), and holds a session between FINISH, which gives the ports the keys
of that session (log 34), and END_SESSION; it refuses every other request. -/
def Obligations.Attestation : Prop := ∀ (s : State) (a b c d : BitVec 8) (n : BitVec 64),
  let x := s.fw.spdm
  let claims := fun (i : Instr) (ok : Bool) (y : Spdm) =>
    ∃ t, exec i s = .next t ∧ t = { s.met with fw := { s.fw with spdm := t.fw.spdm } } ∧
      (ok = true → t.fw.spdm = { y with refused := false }) ∧ (ok = false → t.fw.spdm = { x with refused := true })
  (∃ t, exec .getVersion s = .next t ∧ t.fw.spdm.version = true ∧ t.fw.spdm.caps = false ∧ t.fw.spdm.algs = false ∧ t.fw.spdm.session = false ∧
    t.fw.spdm.refused = false) ∧
  claims .getCapabilities x.version { x with caps := true } ∧
  claims (.negotiateAlgorithms a b c d) (x.caps && a.getLsbD 7 && b.getLsbD 1 && c.getLsbD 4 && d.getLsbD 1) { x with algs := true } ∧
  claims .getDigests x.algs { x with digests := true } ∧
  claims (.getCertificate a) (x.algs && decide (a = 0#8)) { x with cert := true } ∧
  claims (.challenge a n) (x.algs && decide (a = 0#8)) { x with challenged := some n } ∧
  claims (.getMeasurements a) (x.algs && (decide (a.toNat ≤ 5) || decide (a = 0xFF#8)))
    (if a = 0#8 then { x with asked := true } else { x with measured := x.measured ++ if a = 0xFF#8 then [1, 2, 3, 4, 5] else [a.toNat] }) ∧
  claims (.keyExchange a) (x.algs && decide (a = 0#8)) { x with keyed := true } ∧
  (∃ t, exec .finish s = .next t ∧ t = { s.met with fw := { s.fw with spdm := t.fw.spdm }, fab := { s.fab with ide := t.fab.ide } } ∧
    (x.keyed = true → t.fw.spdm = { x with keyed := false, session := true, refused := false } ∧ t.fab.ide.isSome = true ∧ t.fab.ide ≠ s.fab.ide) ∧
    (x.keyed = false → t.fw.spdm = { x with refused := true } ∧ t.fab = s.fab)) ∧
  claims .endSession x.session { x with session := false }

/-! ## Encoding, steps and the whole machine -/

/-- R19–R22, R37, R39: every well-formed instruction is read back from its own word, and a word that decodes is the word of the instruction it gives, which is
well formed. -/
def Obligations.EncodeDecodeAgree : Prop :=
  (∀ i : Instr, i.wellFormed = true → decode (encode i) = .ok i) ∧ ∀ (w : W32) (i : Instr), decode w = .ok i → i.wellFormed = true ∧ encode i = w

/-- R20, R39: words of the spec's worked encodings, written field by field, and the instructions they stand for; majors 0x00 and 0x7F are unassigned. -/
def Obligations.DecodedWords : Prop :=
  decode 0b0000001_000011_000001_000010_0000000#32 = .ok (.add 3 1 2) ∧
  decode 0b0000010_111000_000101_1111111111111#32 = .ok (.addi 56 5 (-1)) ∧
  decode 0b1000000_001000_000010_000100000_0100#32 = .ok (.ld 8 2 32 4) ∧
  decode 0b0111100_000011_0000000000010101010#32 = .ok (.setm 3 0xAA) ∧
  decode 0b1010100_000000_000_0110_111111_111111#32 = .ok (.fence 6 0x3F 0x3F) ∧
  decode 0b0111000_000_1111111111111111111101#32 = .ok (.br (-3)) ∧
  decode 0b0111011_000000_000000_000000_0000100#32 = .ok .nop ∧
  (decode 0x00000000#32).toOption = none ∧ (decode 0xFE000000#32).toOption = none

/-- R37, R133: a step that issues a split (that of an issue input's slot which R138 puts first, or with no input and no event due the machine's own choice) focuses it,
ages the ready splits that wait, fetches the word at its PC, and runs what it decodes to: exec of that instruction, or the illegal instruction trap. The word
is the one in memory where the core holds no copy of the line. The dirty bits of the images see the step last (R410). -/
def Obligations.StepIssuesDecoded : Prop := ∀ (s : State) (gid e : Nat) (busy : List (Nat × Nat)) (rest : List Input),
  s.fw.stopped = false → s.mergeDue = none →
  ((∃ k j, s.inputs = .issue k j busy :: rest ∧ s.slotCycle k j busy = (gid, e)) ∨
    (s.inputs = [] ∧ rest = [] ∧ busy = [] ∧ s.fresh % 4 ≠ 3 ∧ s.auto = none ∧ s.readySplit = some (gid, e))) →
  let w := ({ s with inputs := rest } : State).aged gid e busy
  let u := w.focus gid e
  let last := match w.find gid with | some g => w.expired g.yreq | none => false
  let seen := fun (o : Host.Outcome State Fault Refusal) => match o with | .next t => .next (t.endCycle gid last).noteFrames | r => r
  u.g.gid = gid → (u.g.split e).isSome = true → u.mayIssue = true →
  (∀ v w i, u.fetch = (v, .word w) → decode w = .ok i → step s = seen (exec i v)) ∧
  (∀ v w r, u.fetch = (v, .word w) → decode w = .error r → step s = seen (.next (v.raiseWord w))) ∧
  (∀ v t, u.fetch = (v, .trap t) → step s = seen (.next (v.report t))) ∧
  (∀ v pa p i, u.translate u.g.asker .exec u.cur.pc = (v, .ok pa p) → v.fetchWaits pa = false →
    v.m.poisoned pa 4 = false → v.wild v.g.ctx v.cur.pc pa = false → v.m.iline v.g.core (lineOf pa) = none →
    decode (BitVec.ofNat 32 (v.m.homeRead pa 4)) = .ok i →
    step s = seen (exec i (v.fillIline v.g.core pa (pteMs p))) ∧ v.cur.pc = u.cur.pc ∧ v.g.vregs = u.g.vregs ∧ v.g.uregs = u.g.uregs ∧ v.onchip = s.onchip)

/-- No state is stuck: from every state a step answers a next state, never a fault or a refusal. -/
def Obligations.StepAlwaysContinues : Prop := ∀ s : State, Continues s

/-- R346: a stopped module waits for its reset: it takes no other input, and but for the tick of TIME nothing happens. -/
def Obligations.StoppedModuleWaits : Prop := ∀ (s : State) (x : Input) (rest : List Input), s.fw.stopped = true →
  (∀ ok ver, s.inputs = .event (.moduleReset ok ver) :: rest → ∃ t, exec (.moduleReset ok ver) { s with inputs := rest } = .next t ∧ step s = .next t.noteFrames) ∧
  ((∀ ok ver, x ≠ .event (.moduleReset ok ver)) → s.inputs = x :: rest → step s = .next { s with inputs := rest }.noteFrames) ∧
  (s.inputs = [] → ∃ t, exec .timeTick s = .next t ∧ step s = .next t.noteFrames ∧ t.dev.time = s.dev.time + 1#64)

/-- Every step keeps the memory (DRAM, flash and pool) in its canonical form: addresses strictly rising, no entry equal to what an unlisted byte reads as. -/
def Obligations.StepKeepsMemoryCanonical : Prop := ∀ s t : State, Memory.wf s.m.mem = true → step s = .next t → Memory.wf t.m.mem = true

/-- Every step keeps the on-chip memories (scratchpads, column memories, chip scratchpads, operand buffers) in their canonical form. -/
def Obligations.StepKeepsOnChipCanonical : Prop := ∀ s t : State, Canonical s → step s = .next t →
  Store.wf t.onchip.scratch = true ∧ Store.wf t.onchip.column = true ∧ Store.wf t.onchip.chip = true ∧ Store.wf t.onchip.opbuf = true

/-- The memories are in canonical form at reset, and from there on in every state a run comes to, a module reset included; and at reset every name is given. -/
def Obligations.ResetCanonical : Prop := Canonical State.reset ∧ NamesGiven State.reset ∧
  ∀ (s : State) (ok : Bool) (ver : BitVec 32), Canonical s → Canonical (s.restart.boot ok ver)

/-- R163, R309, R319, R345, R361, R436, R438: what module reset leaves: TIME 0, YGRACE 20,000, THFC 0, THLIM 95, no errors counted, every lease length 2,048, no
launch, no group, the pair (0, 0) Live and every other pair Unused (log 3), and no byte of memory listed, which reads 0 (log 2). -/
def Obligations.ResetState : Prop :=
  let s := State.reset
  s.dev.time = 0#64 ∧ s.dev.ygrace = 20000#32 ∧ s.dev.thfc = 0#64 ∧ s.dev.thlim = 95#32 ∧ (∀ k, Store.get s.dev.errs k = 0#64) ∧
  (∀ q, q < 4 → Store.get s.dev.lease q = 2048#32) ∧ s.launches = [] ∧ (∀ g ∈ s.groups, g.present = false) ∧
  (∀ c j, s.liveTag c j = decide (c = 0#12 ∧ j = 0#8)) ∧ (∀ a, Store.get s.m.mem a = 0#8) ∧ s.m.reqs = [] ∧ s.eng.cmds = [] ∧ s.reports = []

/-- The names of instructions and of groups are given in rising order, and every step keeps it so: no group, resident, evicted or kept in an image, logs an instruction
or owes a write under a name not yet given; every logged instruction has a lane pending; no two groups have one name, and a boundary image keeps groups of its context
under names that no group of another context has. The names are the model's (log 4). -/
def Obligations.StepKeepsNames : Prop := ∀ s t : State, NamesGiven s → step s = .next t → NamesGiven t
end

