-- ==== Sys2Proof/Laws/Encode.lean ====
section
/-!
SUPPORT. Sys2Proof/Laws/Encode.lean: what each field reads of a word built in one of the formats of R20.
-/

namespace Sys2Proof

variable (maj : BitVec 7) (d a b : Reg) (m : BitVec 7) (i : BitVec 13) (j : BitVec 19) (c : BitVec 3) (o : BitVec 22) (p : BitVec 9) (l : BitVec 4) (n : BitVec 12)

@[simp] theorem fMaj_wordRRR : fMaj (wordRRR maj d a b m) = maj := by
  ext k hk; simp only [fMaj, wordRRR, BitVec.getElem_extractLsb', BitVec.getLsbD_cast, BitVec.getLsbD_append]; grind

@[simp] theorem fD_wordRRR : fD (wordRRR maj d a b m) = d := by
  ext k hk; simp only [fD, wordRRR, BitVec.getElem_extractLsb', BitVec.getLsbD_cast, BitVec.getLsbD_append]; grind

@[simp] theorem fA_wordRRR : fA (wordRRR maj d a b m) = a := by
  ext k hk; simp only [fA, wordRRR, BitVec.getElem_extractLsb', BitVec.getLsbD_cast, BitVec.getLsbD_append]; grind

@[simp] theorem fB_wordRRR : fB (wordRRR maj d a b m) = b := by
  ext k hk; simp only [fB, wordRRR, BitVec.getElem_extractLsb', BitVec.getLsbD_cast, BitVec.getLsbD_append]; grind

@[simp] theorem fMin_wordRRR : fMin (wordRRR maj d a b m) = m := by
  ext k hk; simp only [fMin, wordRRR, BitVec.getElem_extractLsb', BitVec.getLsbD_cast, BitVec.getLsbD_append]; grind

@[simp] theorem fMaj_wordRRI : fMaj (wordRRI maj d a i) = maj := by
  ext k hk; simp only [fMaj, wordRRI, BitVec.getElem_extractLsb', BitVec.getLsbD_cast, BitVec.getLsbD_append]; grind

@[simp] theorem fD_wordRRI : fD (wordRRI maj d a i) = d := by
  ext k hk; simp only [fD, wordRRI, BitVec.getElem_extractLsb', BitVec.getLsbD_cast, BitVec.getLsbD_append]; grind

@[simp] theorem fA_wordRRI : fA (wordRRI maj d a i) = a := by
  ext k hk; simp only [fA, wordRRI, BitVec.getElem_extractLsb', BitVec.getLsbD_cast, BitVec.getLsbD_append]; grind

@[simp] theorem fI13_wordRRI : fI13 (wordRRI maj d a i) = i := by
  ext k hk; simp only [fI13, wordRRI, BitVec.getElem_extractLsb', BitVec.getLsbD_cast, BitVec.getLsbD_append]; grind

@[simp] theorem fMaj_wordRI : fMaj (wordRI maj d j) = maj := by
  ext k hk; simp only [fMaj, wordRI, BitVec.getElem_extractLsb', BitVec.getLsbD_cast, BitVec.getLsbD_append]; grind

@[simp] theorem fD_wordRI : fD (wordRI maj d j) = d := by
  ext k hk; simp only [fD, wordRI, BitVec.getElem_extractLsb', BitVec.getLsbD_cast, BitVec.getLsbD_append]; grind

@[simp] theorem fI19_wordRI : fI19 (wordRI maj d j) = j := by
  ext k hk; simp only [fI19, wordRI, BitVec.getElem_extractLsb', BitVec.getLsbD_cast, BitVec.getLsbD_append]; grind

@[simp] theorem fMaj_wordB : fMaj (wordB maj c o) = maj := by
  ext k hk; simp only [fMaj, wordB, BitVec.getElem_extractLsb', BitVec.getLsbD_cast, BitVec.getLsbD_append]; grind

@[simp] theorem fCond_wordB : fCond (wordB maj c o) = c := by
  ext k hk; simp only [fCond, wordB, BitVec.getElem_extractLsb', BitVec.getLsbD_cast, BitVec.getLsbD_append]; grind

@[simp] theorem fOff22_wordB : fOff22 (wordB maj c o) = o := by
  ext k hk; simp only [fOff22, wordB, BitVec.getElem_extractLsb', BitVec.getLsbD_cast, BitVec.getLsbD_append]; grind

@[simp] theorem fMaj_wordM : fMaj (wordM maj d a p l) = maj := by
  ext k hk; simp only [fMaj, wordM, BitVec.getElem_extractLsb', BitVec.getLsbD_cast, BitVec.getLsbD_append]; grind

@[simp] theorem fD_wordM : fD (wordM maj d a p l) = d := by
  ext k hk; simp only [fD, wordM, BitVec.getElem_extractLsb', BitVec.getLsbD_cast, BitVec.getLsbD_append]; grind

@[simp] theorem fA_wordM : fA (wordM maj d a p l) = a := by
  ext k hk; simp only [fA, wordM, BitVec.getElem_extractLsb', BitVec.getLsbD_cast, BitVec.getLsbD_append]; grind

@[simp] theorem fOff9_wordM : fOff9 (wordM maj d a p l) = p := by
  ext k hk; simp only [fOff9, wordM, BitVec.getElem_extractLsb', BitVec.getLsbD_cast, BitVec.getLsbD_append]; grind

@[simp] theorem fLow4_wordM : fLow4 (wordM maj d a p l) = l := by
  ext k hk; simp only [fLow4, wordM, BitVec.getElem_extractLsb', BitVec.getLsbD_cast, BitVec.getLsbD_append]; grind

@[simp] theorem fMaj_wordS : fMaj (wordS maj d n m) = maj := by
  ext k hk; simp only [fMaj, wordS, BitVec.getElem_extractLsb', BitVec.getLsbD_cast, BitVec.getLsbD_append]; grind

@[simp] theorem fD_wordS : fD (wordS maj d n m) = d := by
  ext k hk; simp only [fD, wordS, BitVec.getElem_extractLsb', BitVec.getLsbD_cast, BitVec.getLsbD_append]; grind

@[simp] theorem fMin_wordS : fMin (wordS maj d n m) = m := by
  ext k hk; simp only [fMin, wordS, BitVec.getElem_extractLsb', BitVec.getLsbD_cast, BitVec.getLsbD_append]; grind

@[simp] theorem fCsr_wordS : fCsr (wordS maj d n m) = n := by
  ext k hk; simp only [fCsr, wordS, BitVec.getElem_extractLsb', BitVec.getLsbD_cast, BitVec.getLsbD_append]; grind

/-! The decoder of a word goes by its major (R20). -/

theorem decodeRow_01 (w : W32) (h : fMaj w = 0x01#7) : decodeRow w = decode01 w := by unfold decodeRow; rw [h]; rfl
theorem decodeRow_02 (w : W32) (h : fMaj w = 0x02#7) : decodeRow w = decode02 w := by unfold decodeRow; rw [h]; rfl
theorem decodeRow_03 (w : W32) (h : fMaj w = 0x03#7) : decodeRow w = decode03 w := by unfold decodeRow; rw [h]; rfl
theorem decodeRow_04 (w : W32) (h : fMaj w = 0x04#7) : decodeRow w = decode04 w := by unfold decodeRow; rw [h]; rfl
theorem decodeRow_05 (w : W32) (h : fMaj w = 0x05#7) : decodeRow w = decode05 w := by unfold decodeRow; rw [h]; rfl
theorem decodeRow_06 (w : W32) (h : fMaj w = 0x06#7) : decodeRow w = decode06 w := by unfold decodeRow; rw [h]; rfl
theorem decodeRow_07 (w : W32) (h : fMaj w = 0x07#7) : decodeRow w = decode07 w := by unfold decodeRow; rw [h]; rfl
theorem decodeRow_08 (w : W32) (h : fMaj w = 0x08#7) : decodeRow w = decode08 w := by unfold decodeRow; rw [h]; rfl
theorem decodeRow_09 (w : W32) (h : fMaj w = 0x09#7) : decodeRow w = decode09 w := by unfold decodeRow; rw [h]; rfl
theorem decodeRow_0A (w : W32) (h : fMaj w = 0x0A#7) : decodeRow w = decode0A w := by unfold decodeRow; rw [h]; rfl
theorem decodeRow_20 (w : W32) (h : fMaj w = 0x20#7) : decodeRow w = decode20 w := by unfold decodeRow; rw [h]; rfl
theorem decodeRow_21 (w : W32) (h : fMaj w = 0x21#7) : decodeRow w = decode21 w := by unfold decodeRow; rw [h]; rfl
theorem decodeRow_22 (w : W32) (h : fMaj w = 0x22#7) : decodeRow w = decode22 w := by unfold decodeRow; rw [h]; rfl
theorem decodeRow_23 (w : W32) (h : fMaj w = 0x23#7) : decodeRow w = decode23 w := by unfold decodeRow; rw [h]; rfl
theorem decodeRow_24 (w : W32) (h : fMaj w = 0x24#7) : decodeRow w = decode24 w := by unfold decodeRow; rw [h]; rfl
theorem decodeRow_30 (w : W32) (h : fMaj w = 0x30#7) : decodeRow w = decode30 w := by unfold decodeRow; rw [h]; rfl
theorem decodeRow_31 (w : W32) (h : fMaj w = 0x31#7) : decodeRow w = decode31 w := by unfold decodeRow; rw [h]; rfl
theorem decodeRow_38 (w : W32) (h : fMaj w = 0x38#7) : decodeRow w = decode38 w := by unfold decodeRow; rw [h]; rfl
theorem decodeRow_39 (w : W32) (h : fMaj w = 0x39#7) : decodeRow w = decode39 w := by unfold decodeRow; rw [h]; rfl
theorem decodeRow_3A (w : W32) (h : fMaj w = 0x3A#7) : decodeRow w = decode3A w := by unfold decodeRow; rw [h]; rfl
theorem decodeRow_3B (w : W32) (h : fMaj w = 0x3B#7) : decodeRow w = decode3B w := by unfold decodeRow; rw [h]; rfl
theorem decodeRow_3C (w : W32) (h : fMaj w = 0x3C#7) : decodeRow w = decode3C w := by unfold decodeRow; rw [h]; rfl
theorem decodeRow_3D (w : W32) (h : fMaj w = 0x3D#7) : decodeRow w = decode3D w := by unfold decodeRow; rw [h]; rfl
theorem decodeRow_40 (w : W32) (h : fMaj w = 0x40#7) : decodeRow w = decode40 w := by unfold decodeRow; rw [h]; rfl
theorem decodeRow_41 (w : W32) (h : fMaj w = 0x41#7) : decodeRow w = decode41 w := by unfold decodeRow; rw [h]; rfl
theorem decodeRow_42 (w : W32) (h : fMaj w = 0x42#7) : decodeRow w = decode42 w := by unfold decodeRow; rw [h]; rfl
theorem decodeRow_43 (w : W32) (h : fMaj w = 0x43#7) : decodeRow w = decode43 w := by unfold decodeRow; rw [h]; rfl
theorem decodeRow_44 (w : W32) (h : fMaj w = 0x44#7) : decodeRow w = decode44 w := by unfold decodeRow; rw [h]; rfl
theorem decodeRow_45 (w : W32) (h : fMaj w = 0x45#7) : decodeRow w = decode45 w := by unfold decodeRow; rw [h]; rfl
theorem decodeRow_46 (w : W32) (h : fMaj w = 0x46#7) : decodeRow w = decode46 w := by unfold decodeRow; rw [h]; rfl
theorem decodeRow_47 (w : W32) (h : fMaj w = 0x47#7) : decodeRow w = decode47 w := by unfold decodeRow; rw [h]; rfl
theorem decodeRow_48 (w : W32) (h : fMaj w = 0x48#7) : decodeRow w = decode48 w := by unfold decodeRow; rw [h]; rfl
theorem decodeRow_49 (w : W32) (h : fMaj w = 0x49#7) : decodeRow w = decode49 w := by unfold decodeRow; rw [h]; rfl
theorem decodeRow_4A (w : W32) (h : fMaj w = 0x4A#7) : decodeRow w = decode4A w := by unfold decodeRow; rw [h]; rfl
theorem decodeRow_4B (w : W32) (h : fMaj w = 0x4B#7) : decodeRow w = decode4B w := by unfold decodeRow; rw [h]; rfl
theorem decodeRow_4C (w : W32) (h : fMaj w = 0x4C#7) : decodeRow w = decode4C w := by unfold decodeRow; rw [h]; rfl
theorem decodeRow_4D (w : W32) (h : fMaj w = 0x4D#7) : decodeRow w = decode4D w := by unfold decodeRow; rw [h]; rfl
theorem decodeRow_4E (w : W32) (h : fMaj w = 0x4E#7) : decodeRow w = decode4E w := by unfold decodeRow; rw [h]; rfl
theorem decodeRow_4F (w : W32) (h : fMaj w = 0x4F#7) : decodeRow w = decode4F w := by unfold decodeRow; rw [h]; rfl
theorem decodeRow_50 (w : W32) (h : fMaj w = 0x50#7) : decodeRow w = decode50 w := by unfold decodeRow; rw [h]; rfl
theorem decodeRow_51 (w : W32) (h : fMaj w = 0x51#7) : decodeRow w = decode51 w := by unfold decodeRow; rw [h]; rfl
theorem decodeRow_52 (w : W32) (h : fMaj w = 0x52#7) : decodeRow w = decode52 w := by unfold decodeRow; rw [h]; rfl
theorem decodeRow_53 (w : W32) (h : fMaj w = 0x53#7) : decodeRow w = decode53 w := by unfold decodeRow; rw [h]; rfl
theorem decodeRow_54 (w : W32) (h : fMaj w = 0x54#7) : decodeRow w = decode54 w := by unfold decodeRow; rw [h]; rfl
theorem decodeRow_55 (w : W32) (h : fMaj w = 0x55#7) : decodeRow w = decode55 w := by unfold decodeRow; rw [h]; rfl
theorem decodeRow_56 (w : W32) (h : fMaj w = 0x56#7) : decodeRow w = decode56 w := by unfold decodeRow; rw [h]; rfl
theorem decodeRow_57 (w : W32) (h : fMaj w = 0x57#7) : decodeRow w = decode57 w := by unfold decodeRow; rw [h]; rfl
theorem decodeRow_58 (w : W32) (h : fMaj w = 0x58#7) : decodeRow w = decode58 w := by unfold decodeRow; rw [h]; rfl
theorem decodeRow_59 (w : W32) (h : fMaj w = 0x59#7) : decodeRow w = decode59 w := by unfold decodeRow; rw [h]; rfl
theorem decodeRow_5A (w : W32) (h : fMaj w = 0x5A#7) : decodeRow w = decode5A w := by unfold decodeRow; rw [h]; rfl
theorem decodeRow_5B (w : W32) (h : fMaj w = 0x5B#7) : decodeRow w = decode5B w := by unfold decodeRow; rw [h]; rfl
theorem decodeRow_5C (w : W32) (h : fMaj w = 0x5C#7) : decodeRow w = decode5C w := by unfold decodeRow; rw [h]; rfl
theorem decodeRow_5D (w : W32) (h : fMaj w = 0x5D#7) : decodeRow w = decode5D w := by unfold decodeRow; rw [h]; rfl
theorem decodeRow_60 (w : W32) (h : fMaj w = 0x60#7) : decodeRow w = decode60 w := by unfold decodeRow; rw [h]; rfl
theorem decodeRow_61 (w : W32) (h : fMaj w = 0x61#7) : decodeRow w = decode61 w := by unfold decodeRow; rw [h]; rfl
theorem decodeRow_62 (w : W32) (h : fMaj w = 0x62#7) : decodeRow w = decode62 w := by unfold decodeRow; rw [h]; rfl
theorem decodeRow_63 (w : W32) (h : fMaj w = 0x63#7) : decodeRow w = decode63 w := by unfold decodeRow; rw [h]; rfl
theorem decodeRow_64 (w : W32) (h : fMaj w = 0x64#7) : decodeRow w = decode64 w := by unfold decodeRow; rw [h]; rfl
theorem decodeRow_65 (w : W32) (h : fMaj w = 0x65#7) : decodeRow w = decode65 w := by unfold decodeRow; rw [h]; rfl
theorem decodeRow_66 (w : W32) (h : fMaj w = 0x66#7) : decodeRow w = decode66 w := by unfold decodeRow; rw [h]; rfl
theorem decodeRow_67 (w : W32) (h : fMaj w = 0x67#7) : decodeRow w = decode67 w := by unfold decodeRow; rw [h]; rfl
theorem decodeRow_68 (w : W32) (h : fMaj w = 0x68#7) : decodeRow w = decode68 w := by unfold decodeRow; rw [h]; rfl
theorem decodeRow_69 (w : W32) (h : fMaj w = 0x69#7) : decodeRow w = decode69 w := by unfold decodeRow; rw [h]; rfl
theorem decodeRow_6A (w : W32) (h : fMaj w = 0x6A#7) : decodeRow w = decode6A w := by unfold decodeRow; rw [h]; rfl
theorem decodeRow_6B (w : W32) (h : fMaj w = 0x6B#7) : decodeRow w = decode6B w := by unfold decodeRow; rw [h]; rfl
theorem decodeRow_70 (w : W32) (h : fMaj w = 0x70#7) : decodeRow w = decode70 w := by unfold decodeRow; rw [h]; rfl
theorem decodeRow_71 (w : W32) (h : fMaj w = 0x71#7) : decodeRow w = decode71 w := by unfold decodeRow; rw [h]; rfl
theorem decodeRow_72 (w : W32) (h : fMaj w = 0x72#7) : decodeRow w = decode72 w := by unfold decodeRow; rw [h]; rfl
theorem decodeRow_73 (w : W32) (h : fMaj w = 0x73#7) : decodeRow w = decode73 w := by unfold decodeRow; rw [h]; rfl
theorem decodeRow_74 (w : W32) (h : fMaj w = 0x74#7) : decodeRow w = decode74 w := by unfold decodeRow; rw [h]; rfl
theorem decodeRow_75 (w : W32) (h : fMaj w = 0x75#7) : decodeRow w = decode75 w := by unfold decodeRow; rw [h]; rfl
theorem decodeRow_76 (w : W32) (h : fMaj w = 0x76#7) : decodeRow w = decode76 w := by unfold decodeRow; rw [h]; rfl
theorem decodeRow_77 (w : W32) (h : fMaj w = 0x77#7) : decodeRow w = decode77 w := by unfold decodeRow; rw [h]; rfl
theorem decodeRow_78 (w : W32) (h : fMaj w = 0x78#7) : decodeRow w = decode78 w := by unfold decodeRow; rw [h]; rfl
theorem decodeRow_79 (w : W32) (h : fMaj w = 0x79#7) : decodeRow w = decode79 w := by unfold decodeRow; rw [h]; rfl
theorem decodeRow_7A (w : W32) (h : fMaj w = 0x7A#7) : decodeRow w = decode7A w := by unfold decodeRow; rw [h]; rfl
theorem decodeRow_7B (w : W32) (h : fMaj w = 0x7B#7) : decodeRow w = decode7B w := by unfold decodeRow; rw [h]; rfl
theorem decodeRow_7C (w : W32) (h : fMaj w = 0x7C#7) : decodeRow w = decode7C w := by unfold decodeRow; rw [h]; rfl
theorem decodeRow_7D (w : W32) (h : fMaj w = 0x7D#7) : decodeRow w = decode7D w := by unfold decodeRow; rw [h]; rfl

end Sys2Proof
end

