-- ==== Sys2Proof/Laws/State.lean ====
section
/-!
SUPPORT. Sys2Proof/Laws/State.lean: the shared operations, field by field: what each leaves as it was.
-/

namespace Sys2Proof.Machine

open Sys2Proof

/-- A fold of steps that each leave a part as it was leaves it. -/
theorem foldl_keep {α β σ : Type} (π : σ → β) (f : σ → α → σ) (h : ∀ s x, π (f s x) = π s) (l : List α) (s : σ) : π (l.foldl f s) = π s := by
  induction l generalizing s with
  | nil => rfl
  | cons x t ih => rw [List.foldl_cons, ih, h]

/-- What a fold of steps keeps true. -/
theorem foldl_inv {α σ : Type} (P : σ → Prop) (f : σ → α → σ) (h : ∀ s x, P s → P (f s x)) (l : List α) (s : σ) (hs : P s) : P (l.foldl f s) := by
  induction l generalizing s with
  | nil => exact hs
  | cons x t ih => exact ih _ (h s x hs)

/-! `State.onG` -/
@[simp] theorem State.onG_others (s : State) (f : Group → Group) : (s.onG f).others = s.others := rfl
@[simp] theorem State.onG_entry (s : State) (f : Group → Group) : (s.onG f).entry = s.entry := rfl
@[simp] theorem State.onG_teams (s : State) (f : Group → Group) : (s.onG f).teams = s.teams := rfl
@[simp] theorem State.onG_launches (s : State) (f : Group → Group) : (s.onG f).launches = s.launches := rfl
@[simp] theorem State.onG_onchip (s : State) (f : Group → Group) : (s.onG f).onchip = s.onchip := rfl
@[simp] theorem State.onG_m (s : State) (f : Group → Group) : (s.onG f).m = s.m := rfl
@[simp] theorem State.onG_eng (s : State) (f : Group → Group) : (s.onG f).eng = s.eng := rfl
@[simp] theorem State.onG_fl (s : State) (f : Group → Group) : (s.onG f).fl = s.fl := rfl
@[simp] theorem State.onG_ctxs (s : State) (f : Group → Group) : (s.onG f).ctxs = s.ctxs := rfl
@[simp] theorem State.onG_ck (s : State) (f : Group → Group) : (s.onG f).ck = s.ck := rfl
@[simp] theorem State.onG_dev (s : State) (f : Group → Group) : (s.onG f).dev = s.dev := rfl
@[simp] theorem State.onG_quarters (s : State) (f : Group → Group) : (s.onG f).quarters = s.quarters := rfl
@[simp] theorem State.onG_fw (s : State) (f : Group → Group) : (s.onG f).fw = s.fw := rfl
@[simp] theorem State.onG_fab (s : State) (f : Group → Group) : (s.onG f).fab = s.fab := rfl
@[simp] theorem State.onG_reports (s : State) (f : Group → Group) : (s.onG f).reports = s.reports := rfl
@[simp] theorem State.onG_inputs (s : State) (f : Group → Group) : (s.onG f).inputs = s.inputs := rfl
@[simp] theorem State.onG_fresh (s : State) (f : Group → Group) : (s.onG f).fresh = s.fresh := rfl
@[simp] theorem State.onG_seq (s : State) (f : Group → Group) : (s.onG f).seq = s.seq := rfl

/-! `State.mapGroups` -/
@[simp] theorem State.mapGroups_entry (s : State) (p : Group → Bool) (f : Group → Group) : (s.mapGroups p f).entry = s.entry := rfl
@[simp] theorem State.mapGroups_teams (s : State) (p : Group → Bool) (f : Group → Group) : (s.mapGroups p f).teams = s.teams := rfl
@[simp] theorem State.mapGroups_launches (s : State) (p : Group → Bool) (f : Group → Group) : (s.mapGroups p f).launches = s.launches := rfl
@[simp] theorem State.mapGroups_onchip (s : State) (p : Group → Bool) (f : Group → Group) : (s.mapGroups p f).onchip = s.onchip := rfl
@[simp] theorem State.mapGroups_m (s : State) (p : Group → Bool) (f : Group → Group) : (s.mapGroups p f).m = s.m := rfl
@[simp] theorem State.mapGroups_eng (s : State) (p : Group → Bool) (f : Group → Group) : (s.mapGroups p f).eng = s.eng := rfl
@[simp] theorem State.mapGroups_fl (s : State) (p : Group → Bool) (f : Group → Group) : (s.mapGroups p f).fl = s.fl := rfl
@[simp] theorem State.mapGroups_ctxs (s : State) (p : Group → Bool) (f : Group → Group) : (s.mapGroups p f).ctxs = s.ctxs := rfl
@[simp] theorem State.mapGroups_ck (s : State) (p : Group → Bool) (f : Group → Group) : (s.mapGroups p f).ck = s.ck := rfl
@[simp] theorem State.mapGroups_dev (s : State) (p : Group → Bool) (f : Group → Group) : (s.mapGroups p f).dev = s.dev := rfl
@[simp] theorem State.mapGroups_quarters (s : State) (p : Group → Bool) (f : Group → Group) : (s.mapGroups p f).quarters = s.quarters := rfl
@[simp] theorem State.mapGroups_fw (s : State) (p : Group → Bool) (f : Group → Group) : (s.mapGroups p f).fw = s.fw := rfl
@[simp] theorem State.mapGroups_fab (s : State) (p : Group → Bool) (f : Group → Group) : (s.mapGroups p f).fab = s.fab := rfl
@[simp] theorem State.mapGroups_reports (s : State) (p : Group → Bool) (f : Group → Group) : (s.mapGroups p f).reports = s.reports := rfl
@[simp] theorem State.mapGroups_inputs (s : State) (p : Group → Bool) (f : Group → Group) : (s.mapGroups p f).inputs = s.inputs := rfl
@[simp] theorem State.mapGroups_fresh (s : State) (p : Group → Bool) (f : Group → Group) : (s.mapGroups p f).fresh = s.fresh := rfl
@[simp] theorem State.mapGroups_seq (s : State) (p : Group → Bool) (f : Group → Group) : (s.mapGroups p f).seq = s.seq := rfl

/-! `State.onGroup` -/
@[simp] theorem State.onGroup_entry (s : State) (gid : Nat) (f : Group → Group) : (s.onGroup gid f).entry = s.entry := rfl
@[simp] theorem State.onGroup_teams (s : State) (gid : Nat) (f : Group → Group) : (s.onGroup gid f).teams = s.teams := rfl
@[simp] theorem State.onGroup_launches (s : State) (gid : Nat) (f : Group → Group) : (s.onGroup gid f).launches = s.launches := rfl
@[simp] theorem State.onGroup_onchip (s : State) (gid : Nat) (f : Group → Group) : (s.onGroup gid f).onchip = s.onchip := rfl
@[simp] theorem State.onGroup_m (s : State) (gid : Nat) (f : Group → Group) : (s.onGroup gid f).m = s.m := rfl
@[simp] theorem State.onGroup_eng (s : State) (gid : Nat) (f : Group → Group) : (s.onGroup gid f).eng = s.eng := rfl
@[simp] theorem State.onGroup_fl (s : State) (gid : Nat) (f : Group → Group) : (s.onGroup gid f).fl = s.fl := rfl
@[simp] theorem State.onGroup_ctxs (s : State) (gid : Nat) (f : Group → Group) : (s.onGroup gid f).ctxs = s.ctxs := rfl
@[simp] theorem State.onGroup_ck (s : State) (gid : Nat) (f : Group → Group) : (s.onGroup gid f).ck = s.ck := rfl
@[simp] theorem State.onGroup_dev (s : State) (gid : Nat) (f : Group → Group) : (s.onGroup gid f).dev = s.dev := rfl
@[simp] theorem State.onGroup_quarters (s : State) (gid : Nat) (f : Group → Group) : (s.onGroup gid f).quarters = s.quarters := rfl
@[simp] theorem State.onGroup_fw (s : State) (gid : Nat) (f : Group → Group) : (s.onGroup gid f).fw = s.fw := rfl
@[simp] theorem State.onGroup_fab (s : State) (gid : Nat) (f : Group → Group) : (s.onGroup gid f).fab = s.fab := rfl
@[simp] theorem State.onGroup_reports (s : State) (gid : Nat) (f : Group → Group) : (s.onGroup gid f).reports = s.reports := rfl
@[simp] theorem State.onGroup_inputs (s : State) (gid : Nat) (f : Group → Group) : (s.onGroup gid f).inputs = s.inputs := rfl
@[simp] theorem State.onGroup_fresh (s : State) (gid : Nat) (f : Group → Group) : (s.onGroup gid f).fresh = s.fresh := rfl
@[simp] theorem State.onGroup_seq (s : State) (gid : Nat) (f : Group → Group) : (s.onGroup gid f).seq = s.seq := rfl

/-! `State.tickSeq` -/
@[simp] theorem State.tickSeq_g (s : State) : (s.tickSeq).g = s.g := rfl
@[simp] theorem State.tickSeq_others (s : State) : (s.tickSeq).others = s.others := rfl
@[simp] theorem State.tickSeq_entry (s : State) : (s.tickSeq).entry = s.entry := rfl
@[simp] theorem State.tickSeq_teams (s : State) : (s.tickSeq).teams = s.teams := rfl
@[simp] theorem State.tickSeq_launches (s : State) : (s.tickSeq).launches = s.launches := rfl
@[simp] theorem State.tickSeq_onchip (s : State) : (s.tickSeq).onchip = s.onchip := rfl
@[simp] theorem State.tickSeq_m (s : State) : (s.tickSeq).m = s.m := rfl
@[simp] theorem State.tickSeq_eng (s : State) : (s.tickSeq).eng = s.eng := rfl
@[simp] theorem State.tickSeq_fl (s : State) : (s.tickSeq).fl = s.fl := rfl
@[simp] theorem State.tickSeq_ctxs (s : State) : (s.tickSeq).ctxs = s.ctxs := rfl
@[simp] theorem State.tickSeq_ck (s : State) : (s.tickSeq).ck = s.ck := rfl
@[simp] theorem State.tickSeq_dev (s : State) : (s.tickSeq).dev = s.dev := rfl
@[simp] theorem State.tickSeq_quarters (s : State) : (s.tickSeq).quarters = s.quarters := rfl
@[simp] theorem State.tickSeq_fw (s : State) : (s.tickSeq).fw = s.fw := rfl
@[simp] theorem State.tickSeq_fab (s : State) : (s.tickSeq).fab = s.fab := rfl
@[simp] theorem State.tickSeq_reports (s : State) : (s.tickSeq).reports = s.reports := rfl
@[simp] theorem State.tickSeq_inputs (s : State) : (s.tickSeq).inputs = s.inputs := rfl
@[simp] theorem State.tickSeq_fresh (s : State) : (s.tickSeq).fresh = s.fresh := rfl

/-! `State.focus` -/
@[simp] theorem State.focus_teams (s : State) (gid : Nat) (e : Nat) : (s.focus gid e).teams = s.teams := by unfold State.focus; (repeat' split) <;> rfl
@[simp] theorem State.focus_launches (s : State) (gid : Nat) (e : Nat) : (s.focus gid e).launches = s.launches := by unfold State.focus; (repeat' split) <;> rfl
@[simp] theorem State.focus_onchip (s : State) (gid : Nat) (e : Nat) : (s.focus gid e).onchip = s.onchip := by unfold State.focus; (repeat' split) <;> rfl
@[simp] theorem State.focus_m (s : State) (gid : Nat) (e : Nat) : (s.focus gid e).m = s.m := by unfold State.focus; (repeat' split) <;> rfl
@[simp] theorem State.focus_eng (s : State) (gid : Nat) (e : Nat) : (s.focus gid e).eng = s.eng := by unfold State.focus; (repeat' split) <;> rfl
@[simp] theorem State.focus_fl (s : State) (gid : Nat) (e : Nat) : (s.focus gid e).fl = s.fl := by unfold State.focus; (repeat' split) <;> rfl
@[simp] theorem State.focus_ctxs (s : State) (gid : Nat) (e : Nat) : (s.focus gid e).ctxs = s.ctxs := by unfold State.focus; (repeat' split) <;> rfl
@[simp] theorem State.focus_ck (s : State) (gid : Nat) (e : Nat) : (s.focus gid e).ck = s.ck := by unfold State.focus; (repeat' split) <;> rfl
@[simp] theorem State.focus_dev (s : State) (gid : Nat) (e : Nat) : (s.focus gid e).dev = s.dev := by unfold State.focus; (repeat' split) <;> rfl
@[simp] theorem State.focus_quarters (s : State) (gid : Nat) (e : Nat) : (s.focus gid e).quarters = s.quarters := by unfold State.focus; (repeat' split) <;> rfl
@[simp] theorem State.focus_fw (s : State) (gid : Nat) (e : Nat) : (s.focus gid e).fw = s.fw := by unfold State.focus; (repeat' split) <;> rfl
@[simp] theorem State.focus_fab (s : State) (gid : Nat) (e : Nat) : (s.focus gid e).fab = s.fab := by unfold State.focus; (repeat' split) <;> rfl
@[simp] theorem State.focus_reports (s : State) (gid : Nat) (e : Nat) : (s.focus gid e).reports = s.reports := by unfold State.focus; (repeat' split) <;> rfl
@[simp] theorem State.focus_inputs (s : State) (gid : Nat) (e : Nat) : (s.focus gid e).inputs = s.inputs := by unfold State.focus; (repeat' split) <;> rfl
@[simp] theorem State.focus_fresh (s : State) (gid : Nat) (e : Nat) : (s.focus gid e).fresh = s.fresh := by unfold State.focus; (repeat' split) <;> rfl
@[simp] theorem State.focus_seq (s : State) (gid : Nat) (e : Nat) : (s.focus gid e).seq = s.seq := by unfold State.focus; (repeat' split) <;> rfl

/-! `State.addGroup` -/
@[simp] theorem State.addGroup_entry (s : State) (g : Group) : (s.addGroup g).entry = s.entry := by unfold State.addGroup; split <;> rfl
@[simp] theorem State.addGroup_teams (s : State) (g : Group) : (s.addGroup g).teams = s.teams := by unfold State.addGroup; split <;> rfl
@[simp] theorem State.addGroup_launches (s : State) (g : Group) : (s.addGroup g).launches = s.launches := by unfold State.addGroup; split <;> rfl
@[simp] theorem State.addGroup_onchip (s : State) (g : Group) : (s.addGroup g).onchip = s.onchip := by unfold State.addGroup; split <;> rfl
@[simp] theorem State.addGroup_m (s : State) (g : Group) : (s.addGroup g).m = s.m := by unfold State.addGroup; split <;> rfl
@[simp] theorem State.addGroup_eng (s : State) (g : Group) : (s.addGroup g).eng = s.eng := by unfold State.addGroup; split <;> rfl
@[simp] theorem State.addGroup_fl (s : State) (g : Group) : (s.addGroup g).fl = s.fl := by unfold State.addGroup; split <;> rfl
@[simp] theorem State.addGroup_ctxs (s : State) (g : Group) : (s.addGroup g).ctxs = s.ctxs := by unfold State.addGroup; split <;> rfl
@[simp] theorem State.addGroup_ck (s : State) (g : Group) : (s.addGroup g).ck = s.ck := by unfold State.addGroup; split <;> rfl
@[simp] theorem State.addGroup_dev (s : State) (g : Group) : (s.addGroup g).dev = s.dev := by unfold State.addGroup; split <;> rfl
@[simp] theorem State.addGroup_quarters (s : State) (g : Group) : (s.addGroup g).quarters = s.quarters := by unfold State.addGroup; split <;> rfl
@[simp] theorem State.addGroup_fw (s : State) (g : Group) : (s.addGroup g).fw = s.fw := by unfold State.addGroup; split <;> rfl
@[simp] theorem State.addGroup_fab (s : State) (g : Group) : (s.addGroup g).fab = s.fab := by unfold State.addGroup; split <;> rfl
@[simp] theorem State.addGroup_reports (s : State) (g : Group) : (s.addGroup g).reports = s.reports := by unfold State.addGroup; split <;> rfl
@[simp] theorem State.addGroup_inputs (s : State) (g : Group) : (s.addGroup g).inputs = s.inputs := by unfold State.addGroup; split <;> rfl
@[simp] theorem State.addGroup_fresh (s : State) (g : Group) : (s.addGroup g).fresh = s.fresh := by unfold State.addGroup; split <;> rfl
@[simp] theorem State.addGroup_seq (s : State) (g : Group) : (s.addGroup g).seq = s.seq := by unfold State.addGroup; split <;> rfl

/-! `State.dropGroups` -/
@[simp] theorem State.dropGroups_entry (s : State) (p : Group → Bool) : (s.dropGroups p).entry = s.entry := by unfold State.dropGroups; split <;> rfl
@[simp] theorem State.dropGroups_teams (s : State) (p : Group → Bool) : (s.dropGroups p).teams = s.teams := by unfold State.dropGroups; split <;> rfl
@[simp] theorem State.dropGroups_launches (s : State) (p : Group → Bool) : (s.dropGroups p).launches = s.launches := by unfold State.dropGroups; split <;> rfl
@[simp] theorem State.dropGroups_onchip (s : State) (p : Group → Bool) : (s.dropGroups p).onchip = s.onchip := by unfold State.dropGroups; split <;> rfl
@[simp] theorem State.dropGroups_m (s : State) (p : Group → Bool) : (s.dropGroups p).m = s.m := by unfold State.dropGroups; split <;> rfl
@[simp] theorem State.dropGroups_eng (s : State) (p : Group → Bool) : (s.dropGroups p).eng = s.eng := by unfold State.dropGroups; split <;> rfl
@[simp] theorem State.dropGroups_fl (s : State) (p : Group → Bool) : (s.dropGroups p).fl = s.fl := by unfold State.dropGroups; split <;> rfl
@[simp] theorem State.dropGroups_ctxs (s : State) (p : Group → Bool) : (s.dropGroups p).ctxs = s.ctxs := by unfold State.dropGroups; split <;> rfl
@[simp] theorem State.dropGroups_ck (s : State) (p : Group → Bool) : (s.dropGroups p).ck = s.ck := by unfold State.dropGroups; split <;> rfl
@[simp] theorem State.dropGroups_dev (s : State) (p : Group → Bool) : (s.dropGroups p).dev = s.dev := by unfold State.dropGroups; split <;> rfl
@[simp] theorem State.dropGroups_quarters (s : State) (p : Group → Bool) : (s.dropGroups p).quarters = s.quarters := by unfold State.dropGroups; split <;> rfl
@[simp] theorem State.dropGroups_fw (s : State) (p : Group → Bool) : (s.dropGroups p).fw = s.fw := by unfold State.dropGroups; split <;> rfl
@[simp] theorem State.dropGroups_fab (s : State) (p : Group → Bool) : (s.dropGroups p).fab = s.fab := by unfold State.dropGroups; split <;> rfl
@[simp] theorem State.dropGroups_reports (s : State) (p : Group → Bool) : (s.dropGroups p).reports = s.reports := by unfold State.dropGroups; split <;> rfl
@[simp] theorem State.dropGroups_inputs (s : State) (p : Group → Bool) : (s.dropGroups p).inputs = s.inputs := by unfold State.dropGroups; split <;> rfl
@[simp] theorem State.dropGroups_fresh (s : State) (p : Group → Bool) : (s.dropGroups p).fresh = s.fresh := by unfold State.dropGroups; split <;> rfl
@[simp] theorem State.dropGroups_seq (s : State) (p : Group → Bool) : (s.dropGroups p).seq = s.seq := by unfold State.dropGroups; split <;> rfl

/-! `State.wrIn` -/
@[simp] theorem State.wrIn_others (s : State) (d : Reg) (m : W32) (f : Nat → W32) : (s.wrIn d m f).others = s.others := by unfold State.wrIn; split <;> rfl
@[simp] theorem State.wrIn_entry (s : State) (d : Reg) (m : W32) (f : Nat → W32) : (s.wrIn d m f).entry = s.entry := by unfold State.wrIn; split <;> rfl
@[simp] theorem State.wrIn_teams (s : State) (d : Reg) (m : W32) (f : Nat → W32) : (s.wrIn d m f).teams = s.teams := by unfold State.wrIn; split <;> rfl
@[simp] theorem State.wrIn_launches (s : State) (d : Reg) (m : W32) (f : Nat → W32) : (s.wrIn d m f).launches = s.launches := by unfold State.wrIn; split <;> rfl
@[simp] theorem State.wrIn_onchip (s : State) (d : Reg) (m : W32) (f : Nat → W32) : (s.wrIn d m f).onchip = s.onchip := by unfold State.wrIn; split <;> rfl
@[simp] theorem State.wrIn_m (s : State) (d : Reg) (m : W32) (f : Nat → W32) : (s.wrIn d m f).m = s.m := by unfold State.wrIn; split <;> rfl
@[simp] theorem State.wrIn_eng (s : State) (d : Reg) (m : W32) (f : Nat → W32) : (s.wrIn d m f).eng = s.eng := by unfold State.wrIn; split <;> rfl
@[simp] theorem State.wrIn_fl (s : State) (d : Reg) (m : W32) (f : Nat → W32) : (s.wrIn d m f).fl = s.fl := by unfold State.wrIn; split <;> rfl
@[simp] theorem State.wrIn_ctxs (s : State) (d : Reg) (m : W32) (f : Nat → W32) : (s.wrIn d m f).ctxs = s.ctxs := by unfold State.wrIn; split <;> rfl
@[simp] theorem State.wrIn_ck (s : State) (d : Reg) (m : W32) (f : Nat → W32) : (s.wrIn d m f).ck = s.ck := by unfold State.wrIn; split <;> rfl
@[simp] theorem State.wrIn_dev (s : State) (d : Reg) (m : W32) (f : Nat → W32) : (s.wrIn d m f).dev = s.dev := by unfold State.wrIn; split <;> rfl
@[simp] theorem State.wrIn_quarters (s : State) (d : Reg) (m : W32) (f : Nat → W32) : (s.wrIn d m f).quarters = s.quarters := by unfold State.wrIn; split <;> rfl
@[simp] theorem State.wrIn_fw (s : State) (d : Reg) (m : W32) (f : Nat → W32) : (s.wrIn d m f).fw = s.fw := by unfold State.wrIn; split <;> rfl
@[simp] theorem State.wrIn_fab (s : State) (d : Reg) (m : W32) (f : Nat → W32) : (s.wrIn d m f).fab = s.fab := by unfold State.wrIn; split <;> rfl
@[simp] theorem State.wrIn_reports (s : State) (d : Reg) (m : W32) (f : Nat → W32) : (s.wrIn d m f).reports = s.reports := by unfold State.wrIn; split <;> rfl
@[simp] theorem State.wrIn_inputs (s : State) (d : Reg) (m : W32) (f : Nat → W32) : (s.wrIn d m f).inputs = s.inputs := by unfold State.wrIn; split <;> rfl
@[simp] theorem State.wrIn_fresh (s : State) (d : Reg) (m : W32) (f : Nat → W32) : (s.wrIn d m f).fresh = s.fresh := by unfold State.wrIn; split <;> rfl
@[simp] theorem State.wrIn_seq (s : State) (d : Reg) (m : W32) (f : Nat → W32) : (s.wrIn d m f).seq = s.seq := by unfold State.wrIn; split <;> rfl

/-! `State.wrIn64` -/
@[simp] theorem State.wrIn64_others (s : State) (d : Reg) (m : W32) (f : Nat → W64) : (s.wrIn64 d m f).others = s.others := by unfold State.wrIn64; split <;> simp
@[simp] theorem State.wrIn64_entry (s : State) (d : Reg) (m : W32) (f : Nat → W64) : (s.wrIn64 d m f).entry = s.entry := by unfold State.wrIn64; split <;> simp
@[simp] theorem State.wrIn64_teams (s : State) (d : Reg) (m : W32) (f : Nat → W64) : (s.wrIn64 d m f).teams = s.teams := by unfold State.wrIn64; split <;> simp
@[simp] theorem State.wrIn64_launches (s : State) (d : Reg) (m : W32) (f : Nat → W64) : (s.wrIn64 d m f).launches = s.launches := by unfold State.wrIn64; split <;> simp
@[simp] theorem State.wrIn64_onchip (s : State) (d : Reg) (m : W32) (f : Nat → W64) : (s.wrIn64 d m f).onchip = s.onchip := by unfold State.wrIn64; split <;> simp
@[simp] theorem State.wrIn64_m (s : State) (d : Reg) (m : W32) (f : Nat → W64) : (s.wrIn64 d m f).m = s.m := by unfold State.wrIn64; split <;> simp
@[simp] theorem State.wrIn64_eng (s : State) (d : Reg) (m : W32) (f : Nat → W64) : (s.wrIn64 d m f).eng = s.eng := by unfold State.wrIn64; split <;> simp
@[simp] theorem State.wrIn64_fl (s : State) (d : Reg) (m : W32) (f : Nat → W64) : (s.wrIn64 d m f).fl = s.fl := by unfold State.wrIn64; split <;> simp
@[simp] theorem State.wrIn64_ctxs (s : State) (d : Reg) (m : W32) (f : Nat → W64) : (s.wrIn64 d m f).ctxs = s.ctxs := by unfold State.wrIn64; split <;> simp
@[simp] theorem State.wrIn64_ck (s : State) (d : Reg) (m : W32) (f : Nat → W64) : (s.wrIn64 d m f).ck = s.ck := by unfold State.wrIn64; split <;> simp
@[simp] theorem State.wrIn64_dev (s : State) (d : Reg) (m : W32) (f : Nat → W64) : (s.wrIn64 d m f).dev = s.dev := by unfold State.wrIn64; split <;> simp
@[simp] theorem State.wrIn64_quarters (s : State) (d : Reg) (m : W32) (f : Nat → W64) : (s.wrIn64 d m f).quarters = s.quarters := by unfold State.wrIn64; split <;> simp
@[simp] theorem State.wrIn64_fw (s : State) (d : Reg) (m : W32) (f : Nat → W64) : (s.wrIn64 d m f).fw = s.fw := by unfold State.wrIn64; split <;> simp
@[simp] theorem State.wrIn64_fab (s : State) (d : Reg) (m : W32) (f : Nat → W64) : (s.wrIn64 d m f).fab = s.fab := by unfold State.wrIn64; split <;> simp
@[simp] theorem State.wrIn64_reports (s : State) (d : Reg) (m : W32) (f : Nat → W64) : (s.wrIn64 d m f).reports = s.reports := by unfold State.wrIn64; split <;> simp
@[simp] theorem State.wrIn64_inputs (s : State) (d : Reg) (m : W32) (f : Nat → W64) : (s.wrIn64 d m f).inputs = s.inputs := by unfold State.wrIn64; split <;> simp
@[simp] theorem State.wrIn64_fresh (s : State) (d : Reg) (m : W32) (f : Nat → W64) : (s.wrIn64 d m f).fresh = s.fresh := by unfold State.wrIn64; split <;> simp
@[simp] theorem State.wrIn64_seq (s : State) (d : Reg) (m : W32) (f : Nat → W64) : (s.wrIn64 d m f).seq = s.seq := by unfold State.wrIn64; split <;> simp

/-! `State.wr` -/
@[simp] theorem State.wr_others (s : State) (d : Reg) (f : Nat → W32) : (s.wr d f).others = s.others := by simp [State.wr]
@[simp] theorem State.wr_entry (s : State) (d : Reg) (f : Nat → W32) : (s.wr d f).entry = s.entry := by simp [State.wr]
@[simp] theorem State.wr_teams (s : State) (d : Reg) (f : Nat → W32) : (s.wr d f).teams = s.teams := by simp [State.wr]
@[simp] theorem State.wr_launches (s : State) (d : Reg) (f : Nat → W32) : (s.wr d f).launches = s.launches := by simp [State.wr]
@[simp] theorem State.wr_onchip (s : State) (d : Reg) (f : Nat → W32) : (s.wr d f).onchip = s.onchip := by simp [State.wr]
@[simp] theorem State.wr_m (s : State) (d : Reg) (f : Nat → W32) : (s.wr d f).m = s.m := by simp [State.wr]
@[simp] theorem State.wr_eng (s : State) (d : Reg) (f : Nat → W32) : (s.wr d f).eng = s.eng := by simp [State.wr]
@[simp] theorem State.wr_fl (s : State) (d : Reg) (f : Nat → W32) : (s.wr d f).fl = s.fl := by simp [State.wr]
@[simp] theorem State.wr_ctxs (s : State) (d : Reg) (f : Nat → W32) : (s.wr d f).ctxs = s.ctxs := by simp [State.wr]
@[simp] theorem State.wr_ck (s : State) (d : Reg) (f : Nat → W32) : (s.wr d f).ck = s.ck := by simp [State.wr]
@[simp] theorem State.wr_dev (s : State) (d : Reg) (f : Nat → W32) : (s.wr d f).dev = s.dev := by simp [State.wr]
@[simp] theorem State.wr_quarters (s : State) (d : Reg) (f : Nat → W32) : (s.wr d f).quarters = s.quarters := by simp [State.wr]
@[simp] theorem State.wr_fw (s : State) (d : Reg) (f : Nat → W32) : (s.wr d f).fw = s.fw := by simp [State.wr]
@[simp] theorem State.wr_fab (s : State) (d : Reg) (f : Nat → W32) : (s.wr d f).fab = s.fab := by simp [State.wr]
@[simp] theorem State.wr_reports (s : State) (d : Reg) (f : Nat → W32) : (s.wr d f).reports = s.reports := by simp [State.wr]
@[simp] theorem State.wr_inputs (s : State) (d : Reg) (f : Nat → W32) : (s.wr d f).inputs = s.inputs := by simp [State.wr]
@[simp] theorem State.wr_fresh (s : State) (d : Reg) (f : Nat → W32) : (s.wr d f).fresh = s.fresh := by simp [State.wr]
@[simp] theorem State.wr_seq (s : State) (d : Reg) (f : Nat → W32) : (s.wr d f).seq = s.seq := by simp [State.wr]

/-! `State.wr64` -/
@[simp] theorem State.wr64_others (s : State) (d : Reg) (f : Nat → W64) : (s.wr64 d f).others = s.others := by simp [State.wr64]
@[simp] theorem State.wr64_entry (s : State) (d : Reg) (f : Nat → W64) : (s.wr64 d f).entry = s.entry := by simp [State.wr64]
@[simp] theorem State.wr64_teams (s : State) (d : Reg) (f : Nat → W64) : (s.wr64 d f).teams = s.teams := by simp [State.wr64]
@[simp] theorem State.wr64_launches (s : State) (d : Reg) (f : Nat → W64) : (s.wr64 d f).launches = s.launches := by simp [State.wr64]
@[simp] theorem State.wr64_onchip (s : State) (d : Reg) (f : Nat → W64) : (s.wr64 d f).onchip = s.onchip := by simp [State.wr64]
@[simp] theorem State.wr64_m (s : State) (d : Reg) (f : Nat → W64) : (s.wr64 d f).m = s.m := by simp [State.wr64]
@[simp] theorem State.wr64_eng (s : State) (d : Reg) (f : Nat → W64) : (s.wr64 d f).eng = s.eng := by simp [State.wr64]
@[simp] theorem State.wr64_fl (s : State) (d : Reg) (f : Nat → W64) : (s.wr64 d f).fl = s.fl := by simp [State.wr64]
@[simp] theorem State.wr64_ctxs (s : State) (d : Reg) (f : Nat → W64) : (s.wr64 d f).ctxs = s.ctxs := by simp [State.wr64]
@[simp] theorem State.wr64_ck (s : State) (d : Reg) (f : Nat → W64) : (s.wr64 d f).ck = s.ck := by simp [State.wr64]
@[simp] theorem State.wr64_dev (s : State) (d : Reg) (f : Nat → W64) : (s.wr64 d f).dev = s.dev := by simp [State.wr64]
@[simp] theorem State.wr64_quarters (s : State) (d : Reg) (f : Nat → W64) : (s.wr64 d f).quarters = s.quarters := by simp [State.wr64]
@[simp] theorem State.wr64_fw (s : State) (d : Reg) (f : Nat → W64) : (s.wr64 d f).fw = s.fw := by simp [State.wr64]
@[simp] theorem State.wr64_fab (s : State) (d : Reg) (f : Nat → W64) : (s.wr64 d f).fab = s.fab := by simp [State.wr64]
@[simp] theorem State.wr64_reports (s : State) (d : Reg) (f : Nat → W64) : (s.wr64 d f).reports = s.reports := by simp [State.wr64]
@[simp] theorem State.wr64_inputs (s : State) (d : Reg) (f : Nat → W64) : (s.wr64 d f).inputs = s.inputs := by simp [State.wr64]
@[simp] theorem State.wr64_fresh (s : State) (d : Reg) (f : Nat → W64) : (s.wr64 d f).fresh = s.fresh := by simp [State.wr64]
@[simp] theorem State.wr64_seq (s : State) (d : Reg) (f : Nat → W64) : (s.wr64 d f).seq = s.seq := by simp [State.wr64]

/-! `State.wrP` -/
@[simp] theorem State.wrP_others (s : State) (p : BitVec 3) (f : Nat → Bool) : (s.wrP p f).others = s.others := rfl
@[simp] theorem State.wrP_entry (s : State) (p : BitVec 3) (f : Nat → Bool) : (s.wrP p f).entry = s.entry := rfl
@[simp] theorem State.wrP_teams (s : State) (p : BitVec 3) (f : Nat → Bool) : (s.wrP p f).teams = s.teams := rfl
@[simp] theorem State.wrP_launches (s : State) (p : BitVec 3) (f : Nat → Bool) : (s.wrP p f).launches = s.launches := rfl
@[simp] theorem State.wrP_onchip (s : State) (p : BitVec 3) (f : Nat → Bool) : (s.wrP p f).onchip = s.onchip := rfl
@[simp] theorem State.wrP_m (s : State) (p : BitVec 3) (f : Nat → Bool) : (s.wrP p f).m = s.m := rfl
@[simp] theorem State.wrP_eng (s : State) (p : BitVec 3) (f : Nat → Bool) : (s.wrP p f).eng = s.eng := rfl
@[simp] theorem State.wrP_fl (s : State) (p : BitVec 3) (f : Nat → Bool) : (s.wrP p f).fl = s.fl := rfl
@[simp] theorem State.wrP_ctxs (s : State) (p : BitVec 3) (f : Nat → Bool) : (s.wrP p f).ctxs = s.ctxs := rfl
@[simp] theorem State.wrP_ck (s : State) (p : BitVec 3) (f : Nat → Bool) : (s.wrP p f).ck = s.ck := rfl
@[simp] theorem State.wrP_dev (s : State) (p : BitVec 3) (f : Nat → Bool) : (s.wrP p f).dev = s.dev := rfl
@[simp] theorem State.wrP_quarters (s : State) (p : BitVec 3) (f : Nat → Bool) : (s.wrP p f).quarters = s.quarters := rfl
@[simp] theorem State.wrP_fw (s : State) (p : BitVec 3) (f : Nat → Bool) : (s.wrP p f).fw = s.fw := rfl
@[simp] theorem State.wrP_fab (s : State) (p : BitVec 3) (f : Nat → Bool) : (s.wrP p f).fab = s.fab := rfl
@[simp] theorem State.wrP_reports (s : State) (p : BitVec 3) (f : Nat → Bool) : (s.wrP p f).reports = s.reports := rfl
@[simp] theorem State.wrP_inputs (s : State) (p : BitVec 3) (f : Nat → Bool) : (s.wrP p f).inputs = s.inputs := rfl
@[simp] theorem State.wrP_fresh (s : State) (p : BitVec 3) (f : Nat → Bool) : (s.wrP p f).fresh = s.fresh := rfl
@[simp] theorem State.wrP_seq (s : State) (p : BitVec 3) (f : Nat → Bool) : (s.wrP p f).seq = s.seq := rfl

/-! `State.onCtx` -/
@[simp] theorem State.onCtx_g (s : State) (c : BitVec 12) (f : Ctx → Ctx) : (s.onCtx c f).g = s.g := rfl
@[simp] theorem State.onCtx_others (s : State) (c : BitVec 12) (f : Ctx → Ctx) : (s.onCtx c f).others = s.others := rfl
@[simp] theorem State.onCtx_entry (s : State) (c : BitVec 12) (f : Ctx → Ctx) : (s.onCtx c f).entry = s.entry := rfl
@[simp] theorem State.onCtx_teams (s : State) (c : BitVec 12) (f : Ctx → Ctx) : (s.onCtx c f).teams = s.teams := rfl
@[simp] theorem State.onCtx_launches (s : State) (c : BitVec 12) (f : Ctx → Ctx) : (s.onCtx c f).launches = s.launches := rfl
@[simp] theorem State.onCtx_onchip (s : State) (c : BitVec 12) (f : Ctx → Ctx) : (s.onCtx c f).onchip = s.onchip := rfl
@[simp] theorem State.onCtx_m (s : State) (c : BitVec 12) (f : Ctx → Ctx) : (s.onCtx c f).m = s.m := rfl
@[simp] theorem State.onCtx_eng (s : State) (c : BitVec 12) (f : Ctx → Ctx) : (s.onCtx c f).eng = s.eng := rfl
@[simp] theorem State.onCtx_fl (s : State) (c : BitVec 12) (f : Ctx → Ctx) : (s.onCtx c f).fl = s.fl := rfl
@[simp] theorem State.onCtx_ck (s : State) (c : BitVec 12) (f : Ctx → Ctx) : (s.onCtx c f).ck = s.ck := rfl
@[simp] theorem State.onCtx_dev (s : State) (c : BitVec 12) (f : Ctx → Ctx) : (s.onCtx c f).dev = s.dev := rfl
@[simp] theorem State.onCtx_quarters (s : State) (c : BitVec 12) (f : Ctx → Ctx) : (s.onCtx c f).quarters = s.quarters := rfl
@[simp] theorem State.onCtx_fw (s : State) (c : BitVec 12) (f : Ctx → Ctx) : (s.onCtx c f).fw = s.fw := rfl
@[simp] theorem State.onCtx_fab (s : State) (c : BitVec 12) (f : Ctx → Ctx) : (s.onCtx c f).fab = s.fab := rfl
@[simp] theorem State.onCtx_reports (s : State) (c : BitVec 12) (f : Ctx → Ctx) : (s.onCtx c f).reports = s.reports := rfl
@[simp] theorem State.onCtx_inputs (s : State) (c : BitVec 12) (f : Ctx → Ctx) : (s.onCtx c f).inputs = s.inputs := rfl
@[simp] theorem State.onCtx_fresh (s : State) (c : BitVec 12) (f : Ctx → Ctx) : (s.onCtx c f).fresh = s.fresh := rfl
@[simp] theorem State.onCtx_seq (s : State) (c : BitVec 12) (f : Ctx → Ctx) : (s.onCtx c f).seq = s.seq := rfl

/-! `State.onTeam` -/
@[simp] theorem State.onTeam_g (s : State) (tid : Nat) (f : Team → Team) : (s.onTeam tid f).g = s.g := rfl
@[simp] theorem State.onTeam_others (s : State) (tid : Nat) (f : Team → Team) : (s.onTeam tid f).others = s.others := rfl
@[simp] theorem State.onTeam_entry (s : State) (tid : Nat) (f : Team → Team) : (s.onTeam tid f).entry = s.entry := rfl
@[simp] theorem State.onTeam_launches (s : State) (tid : Nat) (f : Team → Team) : (s.onTeam tid f).launches = s.launches := rfl
@[simp] theorem State.onTeam_onchip (s : State) (tid : Nat) (f : Team → Team) : (s.onTeam tid f).onchip = s.onchip := rfl
@[simp] theorem State.onTeam_m (s : State) (tid : Nat) (f : Team → Team) : (s.onTeam tid f).m = s.m := rfl
@[simp] theorem State.onTeam_eng (s : State) (tid : Nat) (f : Team → Team) : (s.onTeam tid f).eng = s.eng := rfl
@[simp] theorem State.onTeam_fl (s : State) (tid : Nat) (f : Team → Team) : (s.onTeam tid f).fl = s.fl := rfl
@[simp] theorem State.onTeam_ctxs (s : State) (tid : Nat) (f : Team → Team) : (s.onTeam tid f).ctxs = s.ctxs := rfl
@[simp] theorem State.onTeam_ck (s : State) (tid : Nat) (f : Team → Team) : (s.onTeam tid f).ck = s.ck := rfl
@[simp] theorem State.onTeam_dev (s : State) (tid : Nat) (f : Team → Team) : (s.onTeam tid f).dev = s.dev := rfl
@[simp] theorem State.onTeam_quarters (s : State) (tid : Nat) (f : Team → Team) : (s.onTeam tid f).quarters = s.quarters := rfl
@[simp] theorem State.onTeam_fw (s : State) (tid : Nat) (f : Team → Team) : (s.onTeam tid f).fw = s.fw := rfl
@[simp] theorem State.onTeam_fab (s : State) (tid : Nat) (f : Team → Team) : (s.onTeam tid f).fab = s.fab := rfl
@[simp] theorem State.onTeam_reports (s : State) (tid : Nat) (f : Team → Team) : (s.onTeam tid f).reports = s.reports := rfl
@[simp] theorem State.onTeam_inputs (s : State) (tid : Nat) (f : Team → Team) : (s.onTeam tid f).inputs = s.inputs := rfl
@[simp] theorem State.onTeam_fresh (s : State) (tid : Nat) (f : Team → Team) : (s.onTeam tid f).fresh = s.fresh := rfl
@[simp] theorem State.onTeam_seq (s : State) (tid : Nat) (f : Team → Team) : (s.onTeam tid f).seq = s.seq := rfl

/-! `State.onCore` -/
@[simp] theorem State.onCore_g (s : State) (core : Nat) (f : CoreRec → CoreRec) : (s.onCore core f).g = s.g := rfl
@[simp] theorem State.onCore_others (s : State) (core : Nat) (f : CoreRec → CoreRec) : (s.onCore core f).others = s.others := rfl
@[simp] theorem State.onCore_entry (s : State) (core : Nat) (f : CoreRec → CoreRec) : (s.onCore core f).entry = s.entry := rfl
@[simp] theorem State.onCore_teams (s : State) (core : Nat) (f : CoreRec → CoreRec) : (s.onCore core f).teams = s.teams := rfl
@[simp] theorem State.onCore_launches (s : State) (core : Nat) (f : CoreRec → CoreRec) : (s.onCore core f).launches = s.launches := rfl
@[simp] theorem State.onCore_onchip (s : State) (core : Nat) (f : CoreRec → CoreRec) : (s.onCore core f).onchip = s.onchip := rfl
@[simp] theorem State.onCore_m (s : State) (core : Nat) (f : CoreRec → CoreRec) : (s.onCore core f).m = s.m := rfl
@[simp] theorem State.onCore_eng (s : State) (core : Nat) (f : CoreRec → CoreRec) : (s.onCore core f).eng = s.eng := rfl
@[simp] theorem State.onCore_fl (s : State) (core : Nat) (f : CoreRec → CoreRec) : (s.onCore core f).fl = s.fl := rfl
@[simp] theorem State.onCore_ctxs (s : State) (core : Nat) (f : CoreRec → CoreRec) : (s.onCore core f).ctxs = s.ctxs := rfl
@[simp] theorem State.onCore_dev (s : State) (core : Nat) (f : CoreRec → CoreRec) : (s.onCore core f).dev = s.dev := rfl
@[simp] theorem State.onCore_quarters (s : State) (core : Nat) (f : CoreRec → CoreRec) : (s.onCore core f).quarters = s.quarters := rfl
@[simp] theorem State.onCore_fw (s : State) (core : Nat) (f : CoreRec → CoreRec) : (s.onCore core f).fw = s.fw := rfl
@[simp] theorem State.onCore_fab (s : State) (core : Nat) (f : CoreRec → CoreRec) : (s.onCore core f).fab = s.fab := rfl
@[simp] theorem State.onCore_reports (s : State) (core : Nat) (f : CoreRec → CoreRec) : (s.onCore core f).reports = s.reports := rfl
@[simp] theorem State.onCore_inputs (s : State) (core : Nat) (f : CoreRec → CoreRec) : (s.onCore core f).inputs = s.inputs := rfl
@[simp] theorem State.onCore_fresh (s : State) (core : Nat) (f : CoreRec → CoreRec) : (s.onCore core f).fresh = s.fresh := rfl
@[simp] theorem State.onCore_seq (s : State) (core : Nat) (f : CoreRec → CoreRec) : (s.onCore core f).seq = s.seq := rfl

/-! `State.onSlot` -/
@[simp] theorem State.onSlot_g (s : State) (k : Nat) (f : Launch → Launch) : (s.onSlot k f).g = s.g := rfl
@[simp] theorem State.onSlot_others (s : State) (k : Nat) (f : Launch → Launch) : (s.onSlot k f).others = s.others := rfl
@[simp] theorem State.onSlot_entry (s : State) (k : Nat) (f : Launch → Launch) : (s.onSlot k f).entry = s.entry := rfl
@[simp] theorem State.onSlot_teams (s : State) (k : Nat) (f : Launch → Launch) : (s.onSlot k f).teams = s.teams := rfl
@[simp] theorem State.onSlot_onchip (s : State) (k : Nat) (f : Launch → Launch) : (s.onSlot k f).onchip = s.onchip := rfl
@[simp] theorem State.onSlot_m (s : State) (k : Nat) (f : Launch → Launch) : (s.onSlot k f).m = s.m := rfl
@[simp] theorem State.onSlot_eng (s : State) (k : Nat) (f : Launch → Launch) : (s.onSlot k f).eng = s.eng := rfl
@[simp] theorem State.onSlot_fl (s : State) (k : Nat) (f : Launch → Launch) : (s.onSlot k f).fl = s.fl := rfl
@[simp] theorem State.onSlot_ctxs (s : State) (k : Nat) (f : Launch → Launch) : (s.onSlot k f).ctxs = s.ctxs := rfl
@[simp] theorem State.onSlot_ck (s : State) (k : Nat) (f : Launch → Launch) : (s.onSlot k f).ck = s.ck := rfl
@[simp] theorem State.onSlot_dev (s : State) (k : Nat) (f : Launch → Launch) : (s.onSlot k f).dev = s.dev := rfl
@[simp] theorem State.onSlot_quarters (s : State) (k : Nat) (f : Launch → Launch) : (s.onSlot k f).quarters = s.quarters := rfl
@[simp] theorem State.onSlot_fw (s : State) (k : Nat) (f : Launch → Launch) : (s.onSlot k f).fw = s.fw := rfl
@[simp] theorem State.onSlot_fab (s : State) (k : Nat) (f : Launch → Launch) : (s.onSlot k f).fab = s.fab := rfl
@[simp] theorem State.onSlot_reports (s : State) (k : Nat) (f : Launch → Launch) : (s.onSlot k f).reports = s.reports := rfl
@[simp] theorem State.onSlot_inputs (s : State) (k : Nat) (f : Launch → Launch) : (s.onSlot k f).inputs = s.inputs := rfl
@[simp] theorem State.onSlot_fresh (s : State) (k : Nat) (f : Launch → Launch) : (s.onSlot k f).fresh = s.fresh := rfl
@[simp] theorem State.onSlot_seq (s : State) (k : Nat) (f : Launch → Launch) : (s.onSlot k f).seq = s.seq := rfl

/-! `State.count` -/
@[simp] theorem State.count_g (s : State) (n : Nat) (k : Nat) : (s.count n k).g = s.g := rfl
@[simp] theorem State.count_others (s : State) (n : Nat) (k : Nat) : (s.count n k).others = s.others := rfl
@[simp] theorem State.count_entry (s : State) (n : Nat) (k : Nat) : (s.count n k).entry = s.entry := rfl
@[simp] theorem State.count_teams (s : State) (n : Nat) (k : Nat) : (s.count n k).teams = s.teams := rfl
@[simp] theorem State.count_launches (s : State) (n : Nat) (k : Nat) : (s.count n k).launches = s.launches := rfl
@[simp] theorem State.count_onchip (s : State) (n : Nat) (k : Nat) : (s.count n k).onchip = s.onchip := rfl
@[simp] theorem State.count_m (s : State) (n : Nat) (k : Nat) : (s.count n k).m = s.m := rfl
@[simp] theorem State.count_eng (s : State) (n : Nat) (k : Nat) : (s.count n k).eng = s.eng := rfl
@[simp] theorem State.count_fl (s : State) (n : Nat) (k : Nat) : (s.count n k).fl = s.fl := rfl
@[simp] theorem State.count_ctxs (s : State) (n : Nat) (k : Nat) : (s.count n k).ctxs = s.ctxs := rfl
@[simp] theorem State.count_ck (s : State) (n : Nat) (k : Nat) : (s.count n k).ck = s.ck := rfl
@[simp] theorem State.count_quarters (s : State) (n : Nat) (k : Nat) : (s.count n k).quarters = s.quarters := rfl
@[simp] theorem State.count_fw (s : State) (n : Nat) (k : Nat) : (s.count n k).fw = s.fw := rfl
@[simp] theorem State.count_fab (s : State) (n : Nat) (k : Nat) : (s.count n k).fab = s.fab := rfl
@[simp] theorem State.count_reports (s : State) (n : Nat) (k : Nat) : (s.count n k).reports = s.reports := rfl
@[simp] theorem State.count_inputs (s : State) (n : Nat) (k : Nat) : (s.count n k).inputs = s.inputs := rfl
@[simp] theorem State.count_fresh (s : State) (n : Nat) (k : Nat) : (s.count n k).fresh = s.fresh := rfl
@[simp] theorem State.count_seq (s : State) (n : Nat) (k : Nat) : (s.count n k).seq = s.seq := rfl

/-! `State.onStream` -/
@[simp] theorem State.onStream_g (s : State) (base : Nat) (f : Stream → Stream) : (s.onStream base f).g = s.g := rfl
@[simp] theorem State.onStream_others (s : State) (base : Nat) (f : Stream → Stream) : (s.onStream base f).others = s.others := rfl
@[simp] theorem State.onStream_entry (s : State) (base : Nat) (f : Stream → Stream) : (s.onStream base f).entry = s.entry := rfl
@[simp] theorem State.onStream_teams (s : State) (base : Nat) (f : Stream → Stream) : (s.onStream base f).teams = s.teams := rfl
@[simp] theorem State.onStream_launches (s : State) (base : Nat) (f : Stream → Stream) : (s.onStream base f).launches = s.launches := rfl
@[simp] theorem State.onStream_onchip (s : State) (base : Nat) (f : Stream → Stream) : (s.onStream base f).onchip = s.onchip := rfl
@[simp] theorem State.onStream_m (s : State) (base : Nat) (f : Stream → Stream) : (s.onStream base f).m = s.m := rfl
@[simp] theorem State.onStream_eng (s : State) (base : Nat) (f : Stream → Stream) : (s.onStream base f).eng = s.eng := rfl
@[simp] theorem State.onStream_ctxs (s : State) (base : Nat) (f : Stream → Stream) : (s.onStream base f).ctxs = s.ctxs := rfl
@[simp] theorem State.onStream_ck (s : State) (base : Nat) (f : Stream → Stream) : (s.onStream base f).ck = s.ck := rfl
@[simp] theorem State.onStream_dev (s : State) (base : Nat) (f : Stream → Stream) : (s.onStream base f).dev = s.dev := rfl
@[simp] theorem State.onStream_quarters (s : State) (base : Nat) (f : Stream → Stream) : (s.onStream base f).quarters = s.quarters := rfl
@[simp] theorem State.onStream_fw (s : State) (base : Nat) (f : Stream → Stream) : (s.onStream base f).fw = s.fw := rfl
@[simp] theorem State.onStream_fab (s : State) (base : Nat) (f : Stream → Stream) : (s.onStream base f).fab = s.fab := rfl
@[simp] theorem State.onStream_reports (s : State) (base : Nat) (f : Stream → Stream) : (s.onStream base f).reports = s.reports := rfl
@[simp] theorem State.onStream_inputs (s : State) (base : Nat) (f : Stream → Stream) : (s.onStream base f).inputs = s.inputs := rfl
@[simp] theorem State.onStream_fresh (s : State) (base : Nat) (f : Stream → Stream) : (s.onStream base f).fresh = s.fresh := rfl
@[simp] theorem State.onStream_seq (s : State) (base : Nat) (f : Stream → Stream) : (s.onStream base f).seq = s.seq := rfl

/-! `State.onRec` -/
@[simp] theorem State.onRec_g (s : State) (ws : Nat) (gen : Nat) (f : WSet → GenRec → GenRec) : (s.onRec ws gen f).g = s.g := rfl
@[simp] theorem State.onRec_others (s : State) (ws : Nat) (gen : Nat) (f : WSet → GenRec → GenRec) : (s.onRec ws gen f).others = s.others := rfl
@[simp] theorem State.onRec_entry (s : State) (ws : Nat) (gen : Nat) (f : WSet → GenRec → GenRec) : (s.onRec ws gen f).entry = s.entry := rfl
@[simp] theorem State.onRec_teams (s : State) (ws : Nat) (gen : Nat) (f : WSet → GenRec → GenRec) : (s.onRec ws gen f).teams = s.teams := rfl
@[simp] theorem State.onRec_launches (s : State) (ws : Nat) (gen : Nat) (f : WSet → GenRec → GenRec) : (s.onRec ws gen f).launches = s.launches := rfl
@[simp] theorem State.onRec_onchip (s : State) (ws : Nat) (gen : Nat) (f : WSet → GenRec → GenRec) : (s.onRec ws gen f).onchip = s.onchip := rfl
@[simp] theorem State.onRec_m (s : State) (ws : Nat) (gen : Nat) (f : WSet → GenRec → GenRec) : (s.onRec ws gen f).m = s.m := rfl
@[simp] theorem State.onRec_eng (s : State) (ws : Nat) (gen : Nat) (f : WSet → GenRec → GenRec) : (s.onRec ws gen f).eng = s.eng := rfl
@[simp] theorem State.onRec_ctxs (s : State) (ws : Nat) (gen : Nat) (f : WSet → GenRec → GenRec) : (s.onRec ws gen f).ctxs = s.ctxs := rfl
@[simp] theorem State.onRec_ck (s : State) (ws : Nat) (gen : Nat) (f : WSet → GenRec → GenRec) : (s.onRec ws gen f).ck = s.ck := rfl
@[simp] theorem State.onRec_dev (s : State) (ws : Nat) (gen : Nat) (f : WSet → GenRec → GenRec) : (s.onRec ws gen f).dev = s.dev := rfl
@[simp] theorem State.onRec_quarters (s : State) (ws : Nat) (gen : Nat) (f : WSet → GenRec → GenRec) : (s.onRec ws gen f).quarters = s.quarters := rfl
@[simp] theorem State.onRec_fw (s : State) (ws : Nat) (gen : Nat) (f : WSet → GenRec → GenRec) : (s.onRec ws gen f).fw = s.fw := rfl
@[simp] theorem State.onRec_fab (s : State) (ws : Nat) (gen : Nat) (f : WSet → GenRec → GenRec) : (s.onRec ws gen f).fab = s.fab := rfl
@[simp] theorem State.onRec_reports (s : State) (ws : Nat) (gen : Nat) (f : WSet → GenRec → GenRec) : (s.onRec ws gen f).reports = s.reports := rfl
@[simp] theorem State.onRec_inputs (s : State) (ws : Nat) (gen : Nat) (f : WSet → GenRec → GenRec) : (s.onRec ws gen f).inputs = s.inputs := rfl
@[simp] theorem State.onRec_fresh (s : State) (ws : Nat) (gen : Nat) (f : WSet → GenRec → GenRec) : (s.onRec ws gen f).fresh = s.fresh := rfl
@[simp] theorem State.onRec_seq (s : State) (ws : Nat) (gen : Nat) (f : WSet → GenRec → GenRec) : (s.onRec ws gen f).seq = s.seq := rfl

/-! `State.onIred` -/
@[simp] theorem State.onIred_g (s : State) (cid : Nat) (f : IredCmd → Option IredCmd) : (s.onIred cid f).g = s.g := rfl
@[simp] theorem State.onIred_others (s : State) (cid : Nat) (f : IredCmd → Option IredCmd) : (s.onIred cid f).others = s.others := rfl
@[simp] theorem State.onIred_entry (s : State) (cid : Nat) (f : IredCmd → Option IredCmd) : (s.onIred cid f).entry = s.entry := rfl
@[simp] theorem State.onIred_teams (s : State) (cid : Nat) (f : IredCmd → Option IredCmd) : (s.onIred cid f).teams = s.teams := rfl
@[simp] theorem State.onIred_launches (s : State) (cid : Nat) (f : IredCmd → Option IredCmd) : (s.onIred cid f).launches = s.launches := rfl
@[simp] theorem State.onIred_onchip (s : State) (cid : Nat) (f : IredCmd → Option IredCmd) : (s.onIred cid f).onchip = s.onchip := rfl
@[simp] theorem State.onIred_m (s : State) (cid : Nat) (f : IredCmd → Option IredCmd) : (s.onIred cid f).m = s.m := rfl
@[simp] theorem State.onIred_fl (s : State) (cid : Nat) (f : IredCmd → Option IredCmd) : (s.onIred cid f).fl = s.fl := rfl
@[simp] theorem State.onIred_ctxs (s : State) (cid : Nat) (f : IredCmd → Option IredCmd) : (s.onIred cid f).ctxs = s.ctxs := rfl
@[simp] theorem State.onIred_ck (s : State) (cid : Nat) (f : IredCmd → Option IredCmd) : (s.onIred cid f).ck = s.ck := rfl
@[simp] theorem State.onIred_dev (s : State) (cid : Nat) (f : IredCmd → Option IredCmd) : (s.onIred cid f).dev = s.dev := rfl
@[simp] theorem State.onIred_quarters (s : State) (cid : Nat) (f : IredCmd → Option IredCmd) : (s.onIred cid f).quarters = s.quarters := rfl
@[simp] theorem State.onIred_fw (s : State) (cid : Nat) (f : IredCmd → Option IredCmd) : (s.onIred cid f).fw = s.fw := rfl
@[simp] theorem State.onIred_fab (s : State) (cid : Nat) (f : IredCmd → Option IredCmd) : (s.onIred cid f).fab = s.fab := rfl
@[simp] theorem State.onIred_reports (s : State) (cid : Nat) (f : IredCmd → Option IredCmd) : (s.onIred cid f).reports = s.reports := rfl
@[simp] theorem State.onIred_inputs (s : State) (cid : Nat) (f : IredCmd → Option IredCmd) : (s.onIred cid f).inputs = s.inputs := rfl
@[simp] theorem State.onIred_fresh (s : State) (cid : Nat) (f : IredCmd → Option IredCmd) : (s.onIred cid f).fresh = s.fresh := rfl
@[simp] theorem State.onIred_seq (s : State) (cid : Nat) (f : IredCmd → Option IredCmd) : (s.onIred cid f).seq = s.seq := rfl

/-! `State.onLanding` -/
@[simp] theorem State.onLanding_g (s : State) (k : Nat) (f : Landing → Landing) : (s.onLanding k f).g = s.g := rfl
@[simp] theorem State.onLanding_others (s : State) (k : Nat) (f : Landing → Landing) : (s.onLanding k f).others = s.others := rfl
@[simp] theorem State.onLanding_entry (s : State) (k : Nat) (f : Landing → Landing) : (s.onLanding k f).entry = s.entry := rfl
@[simp] theorem State.onLanding_teams (s : State) (k : Nat) (f : Landing → Landing) : (s.onLanding k f).teams = s.teams := rfl
@[simp] theorem State.onLanding_launches (s : State) (k : Nat) (f : Landing → Landing) : (s.onLanding k f).launches = s.launches := rfl
@[simp] theorem State.onLanding_onchip (s : State) (k : Nat) (f : Landing → Landing) : (s.onLanding k f).onchip = s.onchip := rfl
@[simp] theorem State.onLanding_m (s : State) (k : Nat) (f : Landing → Landing) : (s.onLanding k f).m = s.m := rfl
@[simp] theorem State.onLanding_fl (s : State) (k : Nat) (f : Landing → Landing) : (s.onLanding k f).fl = s.fl := rfl
@[simp] theorem State.onLanding_ctxs (s : State) (k : Nat) (f : Landing → Landing) : (s.onLanding k f).ctxs = s.ctxs := rfl
@[simp] theorem State.onLanding_ck (s : State) (k : Nat) (f : Landing → Landing) : (s.onLanding k f).ck = s.ck := rfl
@[simp] theorem State.onLanding_dev (s : State) (k : Nat) (f : Landing → Landing) : (s.onLanding k f).dev = s.dev := rfl
@[simp] theorem State.onLanding_quarters (s : State) (k : Nat) (f : Landing → Landing) : (s.onLanding k f).quarters = s.quarters := rfl
@[simp] theorem State.onLanding_fw (s : State) (k : Nat) (f : Landing → Landing) : (s.onLanding k f).fw = s.fw := rfl
@[simp] theorem State.onLanding_fab (s : State) (k : Nat) (f : Landing → Landing) : (s.onLanding k f).fab = s.fab := rfl
@[simp] theorem State.onLanding_reports (s : State) (k : Nat) (f : Landing → Landing) : (s.onLanding k f).reports = s.reports := rfl
@[simp] theorem State.onLanding_inputs (s : State) (k : Nat) (f : Landing → Landing) : (s.onLanding k f).inputs = s.inputs := rfl
@[simp] theorem State.onLanding_fresh (s : State) (k : Nat) (f : Landing → Landing) : (s.onLanding k f).fresh = s.fresh := rfl
@[simp] theorem State.onLanding_seq (s : State) (k : Nat) (f : Landing → Landing) : (s.onLanding k f).seq = s.seq := rfl

/-! `State.onNb` -/
@[simp] theorem State.onNb_g (s : State) (q : NbSeq) : (s.onNb q).g = s.g := rfl
@[simp] theorem State.onNb_others (s : State) (q : NbSeq) : (s.onNb q).others = s.others := rfl
@[simp] theorem State.onNb_entry (s : State) (q : NbSeq) : (s.onNb q).entry = s.entry := rfl
@[simp] theorem State.onNb_teams (s : State) (q : NbSeq) : (s.onNb q).teams = s.teams := rfl
@[simp] theorem State.onNb_launches (s : State) (q : NbSeq) : (s.onNb q).launches = s.launches := rfl
@[simp] theorem State.onNb_onchip (s : State) (q : NbSeq) : (s.onNb q).onchip = s.onchip := rfl
@[simp] theorem State.onNb_m (s : State) (q : NbSeq) : (s.onNb q).m = s.m := rfl
@[simp] theorem State.onNb_fl (s : State) (q : NbSeq) : (s.onNb q).fl = s.fl := rfl
@[simp] theorem State.onNb_ctxs (s : State) (q : NbSeq) : (s.onNb q).ctxs = s.ctxs := rfl
@[simp] theorem State.onNb_ck (s : State) (q : NbSeq) : (s.onNb q).ck = s.ck := rfl
@[simp] theorem State.onNb_dev (s : State) (q : NbSeq) : (s.onNb q).dev = s.dev := rfl
@[simp] theorem State.onNb_quarters (s : State) (q : NbSeq) : (s.onNb q).quarters = s.quarters := rfl
@[simp] theorem State.onNb_fw (s : State) (q : NbSeq) : (s.onNb q).fw = s.fw := rfl
@[simp] theorem State.onNb_fab (s : State) (q : NbSeq) : (s.onNb q).fab = s.fab := rfl
@[simp] theorem State.onNb_reports (s : State) (q : NbSeq) : (s.onNb q).reports = s.reports := rfl
@[simp] theorem State.onNb_inputs (s : State) (q : NbSeq) : (s.onNb q).inputs = s.inputs := rfl
@[simp] theorem State.onNb_fresh (s : State) (q : NbSeq) : (s.onNb q).fresh = s.fresh := rfl
@[simp] theorem State.onNb_seq (s : State) (q : NbSeq) : (s.onNb q).seq = s.seq := rfl

/-! `State.putTeam` -/
@[simp] theorem State.putTeam_g (s : State) (t : Team) (off : Nat) (n : Nat) (v : Nat) : (s.putTeam t off n v).g = s.g := by unfold State.putTeam; split <;> rfl
@[simp] theorem State.putTeam_others (s : State) (t : Team) (off : Nat) (n : Nat) (v : Nat) : (s.putTeam t off n v).others = s.others := by unfold State.putTeam; split <;> rfl
@[simp] theorem State.putTeam_entry (s : State) (t : Team) (off : Nat) (n : Nat) (v : Nat) : (s.putTeam t off n v).entry = s.entry := by unfold State.putTeam; split <;> rfl
@[simp] theorem State.putTeam_launches (s : State) (t : Team) (off : Nat) (n : Nat) (v : Nat) : (s.putTeam t off n v).launches = s.launches := by unfold State.putTeam; split <;> rfl
@[simp] theorem State.putTeam_m (s : State) (t : Team) (off : Nat) (n : Nat) (v : Nat) : (s.putTeam t off n v).m = s.m := by unfold State.putTeam; split <;> rfl
@[simp] theorem State.putTeam_eng (s : State) (t : Team) (off : Nat) (n : Nat) (v : Nat) : (s.putTeam t off n v).eng = s.eng := by unfold State.putTeam; split <;> rfl
@[simp] theorem State.putTeam_fl (s : State) (t : Team) (off : Nat) (n : Nat) (v : Nat) : (s.putTeam t off n v).fl = s.fl := by unfold State.putTeam; split <;> rfl
@[simp] theorem State.putTeam_ctxs (s : State) (t : Team) (off : Nat) (n : Nat) (v : Nat) : (s.putTeam t off n v).ctxs = s.ctxs := by unfold State.putTeam; split <;> rfl
@[simp] theorem State.putTeam_ck (s : State) (t : Team) (off : Nat) (n : Nat) (v : Nat) : (s.putTeam t off n v).ck = s.ck := by unfold State.putTeam; split <;> rfl
@[simp] theorem State.putTeam_dev (s : State) (t : Team) (off : Nat) (n : Nat) (v : Nat) : (s.putTeam t off n v).dev = s.dev := by unfold State.putTeam; split <;> rfl
@[simp] theorem State.putTeam_quarters (s : State) (t : Team) (off : Nat) (n : Nat) (v : Nat) : (s.putTeam t off n v).quarters = s.quarters := by unfold State.putTeam; split <;> rfl
@[simp] theorem State.putTeam_fw (s : State) (t : Team) (off : Nat) (n : Nat) (v : Nat) : (s.putTeam t off n v).fw = s.fw := by unfold State.putTeam; split <;> rfl
@[simp] theorem State.putTeam_fab (s : State) (t : Team) (off : Nat) (n : Nat) (v : Nat) : (s.putTeam t off n v).fab = s.fab := by unfold State.putTeam; split <;> rfl
@[simp] theorem State.putTeam_reports (s : State) (t : Team) (off : Nat) (n : Nat) (v : Nat) : (s.putTeam t off n v).reports = s.reports := by unfold State.putTeam; split <;> rfl
@[simp] theorem State.putTeam_inputs (s : State) (t : Team) (off : Nat) (n : Nat) (v : Nat) : (s.putTeam t off n v).inputs = s.inputs := by unfold State.putTeam; split <;> rfl
@[simp] theorem State.putTeam_fresh (s : State) (t : Team) (off : Nat) (n : Nat) (v : Nat) : (s.putTeam t off n v).fresh = s.fresh := by unfold State.putTeam; split <;> rfl
@[simp] theorem State.putTeam_seq (s : State) (t : Team) (off : Nat) (n : Nat) (v : Nat) : (s.putTeam t off n v).seq = s.seq := by unfold State.putTeam; split <;> rfl

/-! `State.setTeamWord` -/
@[simp] theorem State.setTeamWord_g (s : State) (t : Team) (off : Nat) (v : W32) : (s.setTeamWord t off v).g = s.g := by simp [State.setTeamWord]
@[simp] theorem State.setTeamWord_others (s : State) (t : Team) (off : Nat) (v : W32) : (s.setTeamWord t off v).others = s.others := by simp [State.setTeamWord]
@[simp] theorem State.setTeamWord_entry (s : State) (t : Team) (off : Nat) (v : W32) : (s.setTeamWord t off v).entry = s.entry := by simp [State.setTeamWord]
@[simp] theorem State.setTeamWord_launches (s : State) (t : Team) (off : Nat) (v : W32) : (s.setTeamWord t off v).launches = s.launches := by simp [State.setTeamWord]
@[simp] theorem State.setTeamWord_m (s : State) (t : Team) (off : Nat) (v : W32) : (s.setTeamWord t off v).m = s.m := by simp [State.setTeamWord]
@[simp] theorem State.setTeamWord_eng (s : State) (t : Team) (off : Nat) (v : W32) : (s.setTeamWord t off v).eng = s.eng := by simp [State.setTeamWord]
@[simp] theorem State.setTeamWord_fl (s : State) (t : Team) (off : Nat) (v : W32) : (s.setTeamWord t off v).fl = s.fl := by simp [State.setTeamWord]
@[simp] theorem State.setTeamWord_ctxs (s : State) (t : Team) (off : Nat) (v : W32) : (s.setTeamWord t off v).ctxs = s.ctxs := by simp [State.setTeamWord]
@[simp] theorem State.setTeamWord_ck (s : State) (t : Team) (off : Nat) (v : W32) : (s.setTeamWord t off v).ck = s.ck := by simp [State.setTeamWord]
@[simp] theorem State.setTeamWord_dev (s : State) (t : Team) (off : Nat) (v : W32) : (s.setTeamWord t off v).dev = s.dev := by simp [State.setTeamWord]
@[simp] theorem State.setTeamWord_quarters (s : State) (t : Team) (off : Nat) (v : W32) : (s.setTeamWord t off v).quarters = s.quarters := by simp [State.setTeamWord]
@[simp] theorem State.setTeamWord_fw (s : State) (t : Team) (off : Nat) (v : W32) : (s.setTeamWord t off v).fw = s.fw := by simp [State.setTeamWord]
@[simp] theorem State.setTeamWord_fab (s : State) (t : Team) (off : Nat) (v : W32) : (s.setTeamWord t off v).fab = s.fab := by simp [State.setTeamWord]
@[simp] theorem State.setTeamWord_reports (s : State) (t : Team) (off : Nat) (v : W32) : (s.setTeamWord t off v).reports = s.reports := by simp [State.setTeamWord]
@[simp] theorem State.setTeamWord_inputs (s : State) (t : Team) (off : Nat) (v : W32) : (s.setTeamWord t off v).inputs = s.inputs := by simp [State.setTeamWord]
@[simp] theorem State.setTeamWord_fresh (s : State) (t : Team) (off : Nat) (v : W32) : (s.setTeamWord t off v).fresh = s.fresh := by simp [State.setTeamWord]
@[simp] theorem State.setTeamWord_seq (s : State) (t : Team) (off : Nat) (v : W32) : (s.setTeamWord t off v).seq = s.seq := by simp [State.setTeamWord]

/-! `State.onArmed` -/
@[simp] theorem State.onArmed_g (s : State) (tid : Nat) (off : Nat) (f : Armed → Armed) : (s.onArmed tid off f).g = s.g := rfl
@[simp] theorem State.onArmed_others (s : State) (tid : Nat) (off : Nat) (f : Armed → Armed) : (s.onArmed tid off f).others = s.others := rfl
@[simp] theorem State.onArmed_entry (s : State) (tid : Nat) (off : Nat) (f : Armed → Armed) : (s.onArmed tid off f).entry = s.entry := rfl
@[simp] theorem State.onArmed_teams (s : State) (tid : Nat) (off : Nat) (f : Armed → Armed) : (s.onArmed tid off f).teams = s.teams := rfl
@[simp] theorem State.onArmed_launches (s : State) (tid : Nat) (off : Nat) (f : Armed → Armed) : (s.onArmed tid off f).launches = s.launches := rfl
@[simp] theorem State.onArmed_m (s : State) (tid : Nat) (off : Nat) (f : Armed → Armed) : (s.onArmed tid off f).m = s.m := rfl
@[simp] theorem State.onArmed_eng (s : State) (tid : Nat) (off : Nat) (f : Armed → Armed) : (s.onArmed tid off f).eng = s.eng := rfl
@[simp] theorem State.onArmed_fl (s : State) (tid : Nat) (off : Nat) (f : Armed → Armed) : (s.onArmed tid off f).fl = s.fl := rfl
@[simp] theorem State.onArmed_ctxs (s : State) (tid : Nat) (off : Nat) (f : Armed → Armed) : (s.onArmed tid off f).ctxs = s.ctxs := rfl
@[simp] theorem State.onArmed_ck (s : State) (tid : Nat) (off : Nat) (f : Armed → Armed) : (s.onArmed tid off f).ck = s.ck := rfl
@[simp] theorem State.onArmed_dev (s : State) (tid : Nat) (off : Nat) (f : Armed → Armed) : (s.onArmed tid off f).dev = s.dev := rfl
@[simp] theorem State.onArmed_quarters (s : State) (tid : Nat) (off : Nat) (f : Armed → Armed) : (s.onArmed tid off f).quarters = s.quarters := rfl
@[simp] theorem State.onArmed_fw (s : State) (tid : Nat) (off : Nat) (f : Armed → Armed) : (s.onArmed tid off f).fw = s.fw := rfl
@[simp] theorem State.onArmed_fab (s : State) (tid : Nat) (off : Nat) (f : Armed → Armed) : (s.onArmed tid off f).fab = s.fab := rfl
@[simp] theorem State.onArmed_reports (s : State) (tid : Nat) (off : Nat) (f : Armed → Armed) : (s.onArmed tid off f).reports = s.reports := rfl
@[simp] theorem State.onArmed_inputs (s : State) (tid : Nat) (off : Nat) (f : Armed → Armed) : (s.onArmed tid off f).inputs = s.inputs := rfl
@[simp] theorem State.onArmed_fresh (s : State) (tid : Nat) (off : Nat) (f : Armed → Armed) : (s.onArmed tid off f).fresh = s.fresh := rfl
@[simp] theorem State.onArmed_seq (s : State) (tid : Nat) (off : Nat) (f : Armed → Armed) : (s.onArmed tid off f).seq = s.seq := rfl

/-! `State.onImage` -/
@[simp] theorem State.onImage_g (s : State) (owner : Nat) (team : Bool) (f : Image → Image) : (s.onImage owner team f).g = s.g := rfl
@[simp] theorem State.onImage_others (s : State) (owner : Nat) (team : Bool) (f : Image → Image) : (s.onImage owner team f).others = s.others := rfl
@[simp] theorem State.onImage_entry (s : State) (owner : Nat) (team : Bool) (f : Image → Image) : (s.onImage owner team f).entry = s.entry := rfl
@[simp] theorem State.onImage_teams (s : State) (owner : Nat) (team : Bool) (f : Image → Image) : (s.onImage owner team f).teams = s.teams := rfl
@[simp] theorem State.onImage_launches (s : State) (owner : Nat) (team : Bool) (f : Image → Image) : (s.onImage owner team f).launches = s.launches := rfl
@[simp] theorem State.onImage_onchip (s : State) (owner : Nat) (team : Bool) (f : Image → Image) : (s.onImage owner team f).onchip = s.onchip := rfl
@[simp] theorem State.onImage_m (s : State) (owner : Nat) (team : Bool) (f : Image → Image) : (s.onImage owner team f).m = s.m := rfl
@[simp] theorem State.onImage_eng (s : State) (owner : Nat) (team : Bool) (f : Image → Image) : (s.onImage owner team f).eng = s.eng := rfl
@[simp] theorem State.onImage_fl (s : State) (owner : Nat) (team : Bool) (f : Image → Image) : (s.onImage owner team f).fl = s.fl := rfl
@[simp] theorem State.onImage_ctxs (s : State) (owner : Nat) (team : Bool) (f : Image → Image) : (s.onImage owner team f).ctxs = s.ctxs := rfl
@[simp] theorem State.onImage_dev (s : State) (owner : Nat) (team : Bool) (f : Image → Image) : (s.onImage owner team f).dev = s.dev := rfl
@[simp] theorem State.onImage_quarters (s : State) (owner : Nat) (team : Bool) (f : Image → Image) : (s.onImage owner team f).quarters = s.quarters := rfl
@[simp] theorem State.onImage_fw (s : State) (owner : Nat) (team : Bool) (f : Image → Image) : (s.onImage owner team f).fw = s.fw := rfl
@[simp] theorem State.onImage_fab (s : State) (owner : Nat) (team : Bool) (f : Image → Image) : (s.onImage owner team f).fab = s.fab := rfl
@[simp] theorem State.onImage_reports (s : State) (owner : Nat) (team : Bool) (f : Image → Image) : (s.onImage owner team f).reports = s.reports := rfl
@[simp] theorem State.onImage_inputs (s : State) (owner : Nat) (team : Bool) (f : Image → Image) : (s.onImage owner team f).inputs = s.inputs := rfl
@[simp] theorem State.onImage_fresh (s : State) (owner : Nat) (team : Bool) (f : Image → Image) : (s.onImage owner team f).fresh = s.fresh := rfl
@[simp] theorem State.onImage_seq (s : State) (owner : Nat) (team : Bool) (f : Image → Image) : (s.onImage owner team f).seq = s.seq := rfl

/-! `State.onCmd` -/
@[simp] theorem State.onCmd_g (s : State) (core : Nat) (k : Nat) (f : Command → Command) : (s.onCmd core k f).g = s.g := rfl
@[simp] theorem State.onCmd_others (s : State) (core : Nat) (k : Nat) (f : Command → Command) : (s.onCmd core k f).others = s.others := rfl
@[simp] theorem State.onCmd_entry (s : State) (core : Nat) (k : Nat) (f : Command → Command) : (s.onCmd core k f).entry = s.entry := rfl
@[simp] theorem State.onCmd_teams (s : State) (core : Nat) (k : Nat) (f : Command → Command) : (s.onCmd core k f).teams = s.teams := rfl
@[simp] theorem State.onCmd_launches (s : State) (core : Nat) (k : Nat) (f : Command → Command) : (s.onCmd core k f).launches = s.launches := rfl
@[simp] theorem State.onCmd_onchip (s : State) (core : Nat) (k : Nat) (f : Command → Command) : (s.onCmd core k f).onchip = s.onchip := rfl
@[simp] theorem State.onCmd_m (s : State) (core : Nat) (k : Nat) (f : Command → Command) : (s.onCmd core k f).m = s.m := rfl
@[simp] theorem State.onCmd_fl (s : State) (core : Nat) (k : Nat) (f : Command → Command) : (s.onCmd core k f).fl = s.fl := rfl
@[simp] theorem State.onCmd_ctxs (s : State) (core : Nat) (k : Nat) (f : Command → Command) : (s.onCmd core k f).ctxs = s.ctxs := rfl
@[simp] theorem State.onCmd_ck (s : State) (core : Nat) (k : Nat) (f : Command → Command) : (s.onCmd core k f).ck = s.ck := rfl
@[simp] theorem State.onCmd_dev (s : State) (core : Nat) (k : Nat) (f : Command → Command) : (s.onCmd core k f).dev = s.dev := rfl
@[simp] theorem State.onCmd_quarters (s : State) (core : Nat) (k : Nat) (f : Command → Command) : (s.onCmd core k f).quarters = s.quarters := rfl
@[simp] theorem State.onCmd_fw (s : State) (core : Nat) (k : Nat) (f : Command → Command) : (s.onCmd core k f).fw = s.fw := rfl
@[simp] theorem State.onCmd_fab (s : State) (core : Nat) (k : Nat) (f : Command → Command) : (s.onCmd core k f).fab = s.fab := rfl
@[simp] theorem State.onCmd_reports (s : State) (core : Nat) (k : Nat) (f : Command → Command) : (s.onCmd core k f).reports = s.reports := rfl
@[simp] theorem State.onCmd_inputs (s : State) (core : Nat) (k : Nat) (f : Command → Command) : (s.onCmd core k f).inputs = s.inputs := rfl
@[simp] theorem State.onCmd_fresh (s : State) (core : Nat) (k : Nat) (f : Command → Command) : (s.onCmd core k f).fresh = s.fresh := rfl
@[simp] theorem State.onCmd_seq (s : State) (core : Nat) (k : Nat) (f : Command → Command) : (s.onCmd core k f).seq = s.seq := rfl

/-! `State.onChannel` -/
@[simp] theorem State.onChannel_g (s : State) (ch : Nat) (f : Channel → Channel) : (s.onChannel ch f).g = s.g := rfl
@[simp] theorem State.onChannel_others (s : State) (ch : Nat) (f : Channel → Channel) : (s.onChannel ch f).others = s.others := rfl
@[simp] theorem State.onChannel_entry (s : State) (ch : Nat) (f : Channel → Channel) : (s.onChannel ch f).entry = s.entry := rfl
@[simp] theorem State.onChannel_teams (s : State) (ch : Nat) (f : Channel → Channel) : (s.onChannel ch f).teams = s.teams := rfl
@[simp] theorem State.onChannel_launches (s : State) (ch : Nat) (f : Channel → Channel) : (s.onChannel ch f).launches = s.launches := rfl
@[simp] theorem State.onChannel_onchip (s : State) (ch : Nat) (f : Channel → Channel) : (s.onChannel ch f).onchip = s.onchip := rfl
@[simp] theorem State.onChannel_m (s : State) (ch : Nat) (f : Channel → Channel) : (s.onChannel ch f).m = s.m := rfl
@[simp] theorem State.onChannel_eng (s : State) (ch : Nat) (f : Channel → Channel) : (s.onChannel ch f).eng = s.eng := rfl
@[simp] theorem State.onChannel_fl (s : State) (ch : Nat) (f : Channel → Channel) : (s.onChannel ch f).fl = s.fl := rfl
@[simp] theorem State.onChannel_ctxs (s : State) (ch : Nat) (f : Channel → Channel) : (s.onChannel ch f).ctxs = s.ctxs := rfl
@[simp] theorem State.onChannel_ck (s : State) (ch : Nat) (f : Channel → Channel) : (s.onChannel ch f).ck = s.ck := rfl
@[simp] theorem State.onChannel_dev (s : State) (ch : Nat) (f : Channel → Channel) : (s.onChannel ch f).dev = s.dev := rfl
@[simp] theorem State.onChannel_quarters (s : State) (ch : Nat) (f : Channel → Channel) : (s.onChannel ch f).quarters = s.quarters := rfl
@[simp] theorem State.onChannel_fw (s : State) (ch : Nat) (f : Channel → Channel) : (s.onChannel ch f).fw = s.fw := rfl
@[simp] theorem State.onChannel_reports (s : State) (ch : Nat) (f : Channel → Channel) : (s.onChannel ch f).reports = s.reports := rfl
@[simp] theorem State.onChannel_inputs (s : State) (ch : Nat) (f : Channel → Channel) : (s.onChannel ch f).inputs = s.inputs := rfl
@[simp] theorem State.onChannel_fresh (s : State) (ch : Nat) (f : Channel → Channel) : (s.onChannel ch f).fresh = s.fresh := rfl
@[simp] theorem State.onChannel_seq (s : State) (ch : Nat) (f : Channel → Channel) : (s.onChannel ch f).seq = s.seq := rfl

/-! `State.onQuarter` -/
@[simp] theorem State.onQuarter_g (s : State) (q : Nat) (f : Quarter → Quarter) : (s.onQuarter q f).g = s.g := by unfold State.onQuarter; split <;> rfl
@[simp] theorem State.onQuarter_others (s : State) (q : Nat) (f : Quarter → Quarter) : (s.onQuarter q f).others = s.others := by unfold State.onQuarter; split <;> rfl
@[simp] theorem State.onQuarter_entry (s : State) (q : Nat) (f : Quarter → Quarter) : (s.onQuarter q f).entry = s.entry := by unfold State.onQuarter; split <;> rfl
@[simp] theorem State.onQuarter_teams (s : State) (q : Nat) (f : Quarter → Quarter) : (s.onQuarter q f).teams = s.teams := by unfold State.onQuarter; split <;> rfl
@[simp] theorem State.onQuarter_launches (s : State) (q : Nat) (f : Quarter → Quarter) : (s.onQuarter q f).launches = s.launches := by unfold State.onQuarter; split <;> rfl
@[simp] theorem State.onQuarter_onchip (s : State) (q : Nat) (f : Quarter → Quarter) : (s.onQuarter q f).onchip = s.onchip := by unfold State.onQuarter; split <;> rfl
@[simp] theorem State.onQuarter_m (s : State) (q : Nat) (f : Quarter → Quarter) : (s.onQuarter q f).m = s.m := by unfold State.onQuarter; split <;> rfl
@[simp] theorem State.onQuarter_eng (s : State) (q : Nat) (f : Quarter → Quarter) : (s.onQuarter q f).eng = s.eng := by unfold State.onQuarter; split <;> rfl
@[simp] theorem State.onQuarter_fl (s : State) (q : Nat) (f : Quarter → Quarter) : (s.onQuarter q f).fl = s.fl := by unfold State.onQuarter; split <;> rfl
@[simp] theorem State.onQuarter_ctxs (s : State) (q : Nat) (f : Quarter → Quarter) : (s.onQuarter q f).ctxs = s.ctxs := by unfold State.onQuarter; split <;> rfl
@[simp] theorem State.onQuarter_ck (s : State) (q : Nat) (f : Quarter → Quarter) : (s.onQuarter q f).ck = s.ck := by unfold State.onQuarter; split <;> rfl
@[simp] theorem State.onQuarter_dev (s : State) (q : Nat) (f : Quarter → Quarter) : (s.onQuarter q f).dev = s.dev := by unfold State.onQuarter; split <;> rfl
@[simp] theorem State.onQuarter_fw (s : State) (q : Nat) (f : Quarter → Quarter) : (s.onQuarter q f).fw = s.fw := by unfold State.onQuarter; split <;> rfl
@[simp] theorem State.onQuarter_fab (s : State) (q : Nat) (f : Quarter → Quarter) : (s.onQuarter q f).fab = s.fab := by unfold State.onQuarter; split <;> rfl
@[simp] theorem State.onQuarter_reports (s : State) (q : Nat) (f : Quarter → Quarter) : (s.onQuarter q f).reports = s.reports := by unfold State.onQuarter; split <;> rfl
@[simp] theorem State.onQuarter_inputs (s : State) (q : Nat) (f : Quarter → Quarter) : (s.onQuarter q f).inputs = s.inputs := by unfold State.onQuarter; split <;> rfl
@[simp] theorem State.onQuarter_fresh (s : State) (q : Nat) (f : Quarter → Quarter) : (s.onQuarter q f).fresh = s.fresh := by unfold State.onQuarter; split <;> rfl
@[simp] theorem State.onQuarter_seq (s : State) (q : Nat) (f : Quarter → Quarter) : (s.onQuarter q f).seq = s.seq := by unfold State.onQuarter; split <;> rfl

/-! `State.putHandle` -/
@[simp] theorem State.putHandle_g (s : State) (h : ResHandle) : (s.putHandle h).g = s.g := rfl
@[simp] theorem State.putHandle_others (s : State) (h : ResHandle) : (s.putHandle h).others = s.others := rfl
@[simp] theorem State.putHandle_entry (s : State) (h : ResHandle) : (s.putHandle h).entry = s.entry := rfl
@[simp] theorem State.putHandle_teams (s : State) (h : ResHandle) : (s.putHandle h).teams = s.teams := rfl
@[simp] theorem State.putHandle_launches (s : State) (h : ResHandle) : (s.putHandle h).launches = s.launches := rfl
@[simp] theorem State.putHandle_onchip (s : State) (h : ResHandle) : (s.putHandle h).onchip = s.onchip := rfl
@[simp] theorem State.putHandle_m (s : State) (h : ResHandle) : (s.putHandle h).m = s.m := rfl
@[simp] theorem State.putHandle_eng (s : State) (h : ResHandle) : (s.putHandle h).eng = s.eng := rfl
@[simp] theorem State.putHandle_ctxs (s : State) (h : ResHandle) : (s.putHandle h).ctxs = s.ctxs := rfl
@[simp] theorem State.putHandle_ck (s : State) (h : ResHandle) : (s.putHandle h).ck = s.ck := rfl
@[simp] theorem State.putHandle_dev (s : State) (h : ResHandle) : (s.putHandle h).dev = s.dev := rfl
@[simp] theorem State.putHandle_quarters (s : State) (h : ResHandle) : (s.putHandle h).quarters = s.quarters := rfl
@[simp] theorem State.putHandle_fw (s : State) (h : ResHandle) : (s.putHandle h).fw = s.fw := rfl
@[simp] theorem State.putHandle_fab (s : State) (h : ResHandle) : (s.putHandle h).fab = s.fab := rfl
@[simp] theorem State.putHandle_reports (s : State) (h : ResHandle) : (s.putHandle h).reports = s.reports := rfl
@[simp] theorem State.putHandle_inputs (s : State) (h : ResHandle) : (s.putHandle h).inputs = s.inputs := rfl
@[simp] theorem State.putHandle_fresh (s : State) (h : ResHandle) : (s.putHandle h).fresh = s.fresh := rfl
@[simp] theorem State.putHandle_seq (s : State) (h : ResHandle) : (s.putHandle h).seq = s.seq := rfl

/-! `State.putLease` -/
@[simp] theorem State.putLease_g (s : State) (q : Nat) (v : W32) : (s.putLease q v).g = s.g := rfl
@[simp] theorem State.putLease_others (s : State) (q : Nat) (v : W32) : (s.putLease q v).others = s.others := rfl
@[simp] theorem State.putLease_entry (s : State) (q : Nat) (v : W32) : (s.putLease q v).entry = s.entry := rfl
@[simp] theorem State.putLease_teams (s : State) (q : Nat) (v : W32) : (s.putLease q v).teams = s.teams := rfl
@[simp] theorem State.putLease_launches (s : State) (q : Nat) (v : W32) : (s.putLease q v).launches = s.launches := rfl
@[simp] theorem State.putLease_onchip (s : State) (q : Nat) (v : W32) : (s.putLease q v).onchip = s.onchip := rfl
@[simp] theorem State.putLease_m (s : State) (q : Nat) (v : W32) : (s.putLease q v).m = s.m := rfl
@[simp] theorem State.putLease_eng (s : State) (q : Nat) (v : W32) : (s.putLease q v).eng = s.eng := rfl
@[simp] theorem State.putLease_fl (s : State) (q : Nat) (v : W32) : (s.putLease q v).fl = s.fl := rfl
@[simp] theorem State.putLease_ctxs (s : State) (q : Nat) (v : W32) : (s.putLease q v).ctxs = s.ctxs := rfl
@[simp] theorem State.putLease_ck (s : State) (q : Nat) (v : W32) : (s.putLease q v).ck = s.ck := rfl
@[simp] theorem State.putLease_quarters (s : State) (q : Nat) (v : W32) : (s.putLease q v).quarters = s.quarters := rfl
@[simp] theorem State.putLease_fw (s : State) (q : Nat) (v : W32) : (s.putLease q v).fw = s.fw := rfl
@[simp] theorem State.putLease_fab (s : State) (q : Nat) (v : W32) : (s.putLease q v).fab = s.fab := rfl
@[simp] theorem State.putLease_reports (s : State) (q : Nat) (v : W32) : (s.putLease q v).reports = s.reports := rfl
@[simp] theorem State.putLease_inputs (s : State) (q : Nat) (v : W32) : (s.putLease q v).inputs = s.inputs := rfl
@[simp] theorem State.putLease_fresh (s : State) (q : Nat) (v : W32) : (s.putLease q v).fresh = s.fresh := rfl
@[simp] theorem State.putLease_seq (s : State) (q : Nat) (v : W32) : (s.putLease q v).seq = s.seq := rfl

/-! `State.putMcsel` -/
@[simp] theorem State.putMcsel_g (s : State) (v : W32) : (s.putMcsel v).g = s.g := rfl
@[simp] theorem State.putMcsel_others (s : State) (v : W32) : (s.putMcsel v).others = s.others := rfl
@[simp] theorem State.putMcsel_entry (s : State) (v : W32) : (s.putMcsel v).entry = s.entry := rfl
@[simp] theorem State.putMcsel_teams (s : State) (v : W32) : (s.putMcsel v).teams = s.teams := rfl
@[simp] theorem State.putMcsel_launches (s : State) (v : W32) : (s.putMcsel v).launches = s.launches := rfl
@[simp] theorem State.putMcsel_onchip (s : State) (v : W32) : (s.putMcsel v).onchip = s.onchip := rfl
@[simp] theorem State.putMcsel_m (s : State) (v : W32) : (s.putMcsel v).m = s.m := rfl
@[simp] theorem State.putMcsel_eng (s : State) (v : W32) : (s.putMcsel v).eng = s.eng := rfl
@[simp] theorem State.putMcsel_fl (s : State) (v : W32) : (s.putMcsel v).fl = s.fl := rfl
@[simp] theorem State.putMcsel_ctxs (s : State) (v : W32) : (s.putMcsel v).ctxs = s.ctxs := rfl
@[simp] theorem State.putMcsel_ck (s : State) (v : W32) : (s.putMcsel v).ck = s.ck := rfl
@[simp] theorem State.putMcsel_quarters (s : State) (v : W32) : (s.putMcsel v).quarters = s.quarters := rfl
@[simp] theorem State.putMcsel_fw (s : State) (v : W32) : (s.putMcsel v).fw = s.fw := rfl
@[simp] theorem State.putMcsel_fab (s : State) (v : W32) : (s.putMcsel v).fab = s.fab := rfl
@[simp] theorem State.putMcsel_reports (s : State) (v : W32) : (s.putMcsel v).reports = s.reports := rfl
@[simp] theorem State.putMcsel_inputs (s : State) (v : W32) : (s.putMcsel v).inputs = s.inputs := rfl
@[simp] theorem State.putMcsel_fresh (s : State) (v : W32) : (s.putMcsel v).fresh = s.fresh := rfl
@[simp] theorem State.putMcsel_seq (s : State) (v : W32) : (s.putMcsel v).seq = s.seq := rfl

/-! `State.putEvcnt` -/
@[simp] theorem State.putEvcnt_g (s : State) (core : Nat) (k : Nat) (v : W64) : (s.putEvcnt core k v).g = s.g := rfl
@[simp] theorem State.putEvcnt_others (s : State) (core : Nat) (k : Nat) (v : W64) : (s.putEvcnt core k v).others = s.others := rfl
@[simp] theorem State.putEvcnt_entry (s : State) (core : Nat) (k : Nat) (v : W64) : (s.putEvcnt core k v).entry = s.entry := rfl
@[simp] theorem State.putEvcnt_teams (s : State) (core : Nat) (k : Nat) (v : W64) : (s.putEvcnt core k v).teams = s.teams := rfl
@[simp] theorem State.putEvcnt_launches (s : State) (core : Nat) (k : Nat) (v : W64) : (s.putEvcnt core k v).launches = s.launches := rfl
@[simp] theorem State.putEvcnt_onchip (s : State) (core : Nat) (k : Nat) (v : W64) : (s.putEvcnt core k v).onchip = s.onchip := rfl
@[simp] theorem State.putEvcnt_m (s : State) (core : Nat) (k : Nat) (v : W64) : (s.putEvcnt core k v).m = s.m := rfl
@[simp] theorem State.putEvcnt_eng (s : State) (core : Nat) (k : Nat) (v : W64) : (s.putEvcnt core k v).eng = s.eng := rfl
@[simp] theorem State.putEvcnt_fl (s : State) (core : Nat) (k : Nat) (v : W64) : (s.putEvcnt core k v).fl = s.fl := rfl
@[simp] theorem State.putEvcnt_ctxs (s : State) (core : Nat) (k : Nat) (v : W64) : (s.putEvcnt core k v).ctxs = s.ctxs := rfl
@[simp] theorem State.putEvcnt_ck (s : State) (core : Nat) (k : Nat) (v : W64) : (s.putEvcnt core k v).ck = s.ck := rfl
@[simp] theorem State.putEvcnt_quarters (s : State) (core : Nat) (k : Nat) (v : W64) : (s.putEvcnt core k v).quarters = s.quarters := rfl
@[simp] theorem State.putEvcnt_fw (s : State) (core : Nat) (k : Nat) (v : W64) : (s.putEvcnt core k v).fw = s.fw := rfl
@[simp] theorem State.putEvcnt_fab (s : State) (core : Nat) (k : Nat) (v : W64) : (s.putEvcnt core k v).fab = s.fab := rfl
@[simp] theorem State.putEvcnt_reports (s : State) (core : Nat) (k : Nat) (v : W64) : (s.putEvcnt core k v).reports = s.reports := rfl
@[simp] theorem State.putEvcnt_inputs (s : State) (core : Nat) (k : Nat) (v : W64) : (s.putEvcnt core k v).inputs = s.inputs := rfl
@[simp] theorem State.putEvcnt_fresh (s : State) (core : Nat) (k : Nat) (v : W64) : (s.putEvcnt core k v).fresh = s.fresh := rfl
@[simp] theorem State.putEvcnt_seq (s : State) (core : Nat) (k : Nat) (v : W64) : (s.putEvcnt core k v).seq = s.seq := rfl

/-! `State.event` -/
@[simp] theorem State.event_g (s : State) (core : Nat) (c : BitVec 12) (code : Nat) : (s.event core c code).g = s.g := by unfold State.event; (repeat' split) <;> first | rfl | exact foldl_keep State.g _ (by intros; dsimp only; (repeat' split) <;> rfl) _ _
@[simp] theorem State.event_others (s : State) (core : Nat) (c : BitVec 12) (code : Nat) : (s.event core c code).others = s.others := by unfold State.event; (repeat' split) <;> first | rfl | exact foldl_keep State.others _ (by intros; dsimp only; (repeat' split) <;> rfl) _ _
@[simp] theorem State.event_entry (s : State) (core : Nat) (c : BitVec 12) (code : Nat) : (s.event core c code).entry = s.entry := by unfold State.event; (repeat' split) <;> first | rfl | exact foldl_keep State.entry _ (by intros; dsimp only; (repeat' split) <;> rfl) _ _
@[simp] theorem State.event_teams (s : State) (core : Nat) (c : BitVec 12) (code : Nat) : (s.event core c code).teams = s.teams := by unfold State.event; (repeat' split) <;> first | rfl | exact foldl_keep State.teams _ (by intros; dsimp only; (repeat' split) <;> rfl) _ _
@[simp] theorem State.event_launches (s : State) (core : Nat) (c : BitVec 12) (code : Nat) : (s.event core c code).launches = s.launches := by unfold State.event; (repeat' split) <;> first | rfl | exact foldl_keep State.launches _ (by intros; dsimp only; (repeat' split) <;> rfl) _ _
@[simp] theorem State.event_onchip (s : State) (core : Nat) (c : BitVec 12) (code : Nat) : (s.event core c code).onchip = s.onchip := by unfold State.event; (repeat' split) <;> first | rfl | exact foldl_keep State.onchip _ (by intros; dsimp only; (repeat' split) <;> rfl) _ _
@[simp] theorem State.event_m (s : State) (core : Nat) (c : BitVec 12) (code : Nat) : (s.event core c code).m = s.m := by unfold State.event; (repeat' split) <;> first | rfl | exact foldl_keep State.m _ (by intros; dsimp only; (repeat' split) <;> rfl) _ _
@[simp] theorem State.event_eng (s : State) (core : Nat) (c : BitVec 12) (code : Nat) : (s.event core c code).eng = s.eng := by unfold State.event; (repeat' split) <;> first | rfl | exact foldl_keep State.eng _ (by intros; dsimp only; (repeat' split) <;> rfl) _ _
@[simp] theorem State.event_fl (s : State) (core : Nat) (c : BitVec 12) (code : Nat) : (s.event core c code).fl = s.fl := by unfold State.event; (repeat' split) <;> first | rfl | exact foldl_keep State.fl _ (by intros; dsimp only; (repeat' split) <;> rfl) _ _
@[simp] theorem State.event_ctxs (s : State) (core : Nat) (c : BitVec 12) (code : Nat) : (s.event core c code).ctxs = s.ctxs := by unfold State.event; (repeat' split) <;> first | rfl | exact foldl_keep State.ctxs _ (by intros; dsimp only; (repeat' split) <;> rfl) _ _
@[simp] theorem State.event_ck (s : State) (core : Nat) (c : BitVec 12) (code : Nat) : (s.event core c code).ck = s.ck := by unfold State.event; (repeat' split) <;> first | rfl | exact foldl_keep State.ck _ (by intros; dsimp only; (repeat' split) <;> rfl) _ _
@[simp] theorem State.event_quarters (s : State) (core : Nat) (c : BitVec 12) (code : Nat) : (s.event core c code).quarters = s.quarters := by unfold State.event; (repeat' split) <;> first | rfl | exact foldl_keep State.quarters _ (by intros; dsimp only; (repeat' split) <;> rfl) _ _
@[simp] theorem State.event_fw (s : State) (core : Nat) (c : BitVec 12) (code : Nat) : (s.event core c code).fw = s.fw := by unfold State.event; (repeat' split) <;> first | rfl | exact foldl_keep State.fw _ (by intros; dsimp only; (repeat' split) <;> rfl) _ _
@[simp] theorem State.event_fab (s : State) (core : Nat) (c : BitVec 12) (code : Nat) : (s.event core c code).fab = s.fab := by unfold State.event; (repeat' split) <;> first | rfl | exact foldl_keep State.fab _ (by intros; dsimp only; (repeat' split) <;> rfl) _ _
@[simp] theorem State.event_reports (s : State) (core : Nat) (c : BitVec 12) (code : Nat) : (s.event core c code).reports = s.reports := by unfold State.event; (repeat' split) <;> first | rfl | exact foldl_keep State.reports _ (by intros; dsimp only; (repeat' split) <;> rfl) _ _
@[simp] theorem State.event_inputs (s : State) (core : Nat) (c : BitVec 12) (code : Nat) : (s.event core c code).inputs = s.inputs := by unfold State.event; (repeat' split) <;> first | rfl | exact foldl_keep State.inputs _ (by intros; dsimp only; (repeat' split) <;> rfl) _ _
@[simp] theorem State.event_fresh (s : State) (core : Nat) (c : BitVec 12) (code : Nat) : (s.event core c code).fresh = s.fresh := by unfold State.event; (repeat' split) <;> first | rfl | exact foldl_keep State.fresh _ (by intros; dsimp only; (repeat' split) <;> rfl) _ _
@[simp] theorem State.event_seq (s : State) (core : Nat) (c : BitVec 12) (code : Nat) : (s.event core c code).seq = s.seq := by unfold State.event; (repeat' split) <;> first | rfl | exact foldl_keep State.seq _ (by intros; dsimp only; (repeat' split) <;> rfl) _ _

/-! `State.mevent` -/
@[simp] theorem State.mevent_g (s : State) (ctl : Nat) (c : Option (BitVec 12)) (code : Nat) : (s.mevent ctl c code).g = s.g := by unfold State.mevent; (repeat' split) <;> first | rfl | exact foldl_keep State.g _ (by intros; dsimp only; (repeat' split) <;> rfl) _ _
@[simp] theorem State.mevent_others (s : State) (ctl : Nat) (c : Option (BitVec 12)) (code : Nat) : (s.mevent ctl c code).others = s.others := by unfold State.mevent; (repeat' split) <;> first | rfl | exact foldl_keep State.others _ (by intros; dsimp only; (repeat' split) <;> rfl) _ _
@[simp] theorem State.mevent_entry (s : State) (ctl : Nat) (c : Option (BitVec 12)) (code : Nat) : (s.mevent ctl c code).entry = s.entry := by unfold State.mevent; (repeat' split) <;> first | rfl | exact foldl_keep State.entry _ (by intros; dsimp only; (repeat' split) <;> rfl) _ _
@[simp] theorem State.mevent_teams (s : State) (ctl : Nat) (c : Option (BitVec 12)) (code : Nat) : (s.mevent ctl c code).teams = s.teams := by unfold State.mevent; (repeat' split) <;> first | rfl | exact foldl_keep State.teams _ (by intros; dsimp only; (repeat' split) <;> rfl) _ _
@[simp] theorem State.mevent_launches (s : State) (ctl : Nat) (c : Option (BitVec 12)) (code : Nat) : (s.mevent ctl c code).launches = s.launches := by unfold State.mevent; (repeat' split) <;> first | rfl | exact foldl_keep State.launches _ (by intros; dsimp only; (repeat' split) <;> rfl) _ _
@[simp] theorem State.mevent_onchip (s : State) (ctl : Nat) (c : Option (BitVec 12)) (code : Nat) : (s.mevent ctl c code).onchip = s.onchip := by unfold State.mevent; (repeat' split) <;> first | rfl | exact foldl_keep State.onchip _ (by intros; dsimp only; (repeat' split) <;> rfl) _ _
@[simp] theorem State.mevent_m (s : State) (ctl : Nat) (c : Option (BitVec 12)) (code : Nat) : (s.mevent ctl c code).m = s.m := by unfold State.mevent; (repeat' split) <;> first | rfl | exact foldl_keep State.m _ (by intros; dsimp only; (repeat' split) <;> rfl) _ _
@[simp] theorem State.mevent_eng (s : State) (ctl : Nat) (c : Option (BitVec 12)) (code : Nat) : (s.mevent ctl c code).eng = s.eng := by unfold State.mevent; (repeat' split) <;> first | rfl | exact foldl_keep State.eng _ (by intros; dsimp only; (repeat' split) <;> rfl) _ _
@[simp] theorem State.mevent_fl (s : State) (ctl : Nat) (c : Option (BitVec 12)) (code : Nat) : (s.mevent ctl c code).fl = s.fl := by unfold State.mevent; (repeat' split) <;> first | rfl | exact foldl_keep State.fl _ (by intros; dsimp only; (repeat' split) <;> rfl) _ _
@[simp] theorem State.mevent_ctxs (s : State) (ctl : Nat) (c : Option (BitVec 12)) (code : Nat) : (s.mevent ctl c code).ctxs = s.ctxs := by unfold State.mevent; (repeat' split) <;> first | rfl | exact foldl_keep State.ctxs _ (by intros; dsimp only; (repeat' split) <;> rfl) _ _
@[simp] theorem State.mevent_ck (s : State) (ctl : Nat) (c : Option (BitVec 12)) (code : Nat) : (s.mevent ctl c code).ck = s.ck := by unfold State.mevent; (repeat' split) <;> first | rfl | exact foldl_keep State.ck _ (by intros; dsimp only; (repeat' split) <;> rfl) _ _
@[simp] theorem State.mevent_quarters (s : State) (ctl : Nat) (c : Option (BitVec 12)) (code : Nat) : (s.mevent ctl c code).quarters = s.quarters := by unfold State.mevent; (repeat' split) <;> first | rfl | exact foldl_keep State.quarters _ (by intros; dsimp only; (repeat' split) <;> rfl) _ _
@[simp] theorem State.mevent_fw (s : State) (ctl : Nat) (c : Option (BitVec 12)) (code : Nat) : (s.mevent ctl c code).fw = s.fw := by unfold State.mevent; (repeat' split) <;> first | rfl | exact foldl_keep State.fw _ (by intros; dsimp only; (repeat' split) <;> rfl) _ _
@[simp] theorem State.mevent_fab (s : State) (ctl : Nat) (c : Option (BitVec 12)) (code : Nat) : (s.mevent ctl c code).fab = s.fab := by unfold State.mevent; (repeat' split) <;> first | rfl | exact foldl_keep State.fab _ (by intros; dsimp only; (repeat' split) <;> rfl) _ _
@[simp] theorem State.mevent_reports (s : State) (ctl : Nat) (c : Option (BitVec 12)) (code : Nat) : (s.mevent ctl c code).reports = s.reports := by unfold State.mevent; (repeat' split) <;> first | rfl | exact foldl_keep State.reports _ (by intros; dsimp only; (repeat' split) <;> rfl) _ _
@[simp] theorem State.mevent_inputs (s : State) (ctl : Nat) (c : Option (BitVec 12)) (code : Nat) : (s.mevent ctl c code).inputs = s.inputs := by unfold State.mevent; (repeat' split) <;> first | rfl | exact foldl_keep State.inputs _ (by intros; dsimp only; (repeat' split) <;> rfl) _ _
@[simp] theorem State.mevent_fresh (s : State) (ctl : Nat) (c : Option (BitVec 12)) (code : Nat) : (s.mevent ctl c code).fresh = s.fresh := by unfold State.mevent; (repeat' split) <;> first | rfl | exact foldl_keep State.fresh _ (by intros; dsimp only; (repeat' split) <;> rfl) _ _
@[simp] theorem State.mevent_seq (s : State) (ctl : Nat) (c : Option (BitVec 12)) (code : Nat) : (s.mevent ctl c code).seq = s.seq := by unfold State.mevent; (repeat' split) <;> first | rfl | exact foldl_keep State.seq _ (by intros; dsimp only; (repeat' split) <;> rfl) _ _

/-! `State.wakeAll` -/
@[simp] theorem State.wakeAll_entry (s : State) : (s.wakeAll).entry = s.entry := rfl
@[simp] theorem State.wakeAll_teams (s : State) : (s.wakeAll).teams = s.teams := rfl
@[simp] theorem State.wakeAll_launches (s : State) : (s.wakeAll).launches = s.launches := rfl
@[simp] theorem State.wakeAll_onchip (s : State) : (s.wakeAll).onchip = s.onchip := rfl
@[simp] theorem State.wakeAll_m (s : State) : (s.wakeAll).m = s.m := rfl
@[simp] theorem State.wakeAll_eng (s : State) : (s.wakeAll).eng = s.eng := rfl
@[simp] theorem State.wakeAll_fl (s : State) : (s.wakeAll).fl = s.fl := rfl
@[simp] theorem State.wakeAll_ctxs (s : State) : (s.wakeAll).ctxs = s.ctxs := rfl
@[simp] theorem State.wakeAll_ck (s : State) : (s.wakeAll).ck = s.ck := rfl
@[simp] theorem State.wakeAll_dev (s : State) : (s.wakeAll).dev = s.dev := rfl
@[simp] theorem State.wakeAll_quarters (s : State) : (s.wakeAll).quarters = s.quarters := rfl
@[simp] theorem State.wakeAll_fw (s : State) : (s.wakeAll).fw = s.fw := rfl
@[simp] theorem State.wakeAll_fab (s : State) : (s.wakeAll).fab = s.fab := rfl
@[simp] theorem State.wakeAll_reports (s : State) : (s.wakeAll).reports = s.reports := rfl
@[simp] theorem State.wakeAll_inputs (s : State) : (s.wakeAll).inputs = s.inputs := rfl
@[simp] theorem State.wakeAll_fresh (s : State) : (s.wakeAll).fresh = s.fresh := rfl
@[simp] theorem State.wakeAll_seq (s : State) : (s.wakeAll).seq = s.seq := rfl

/-! `State.sleep` -/
@[simp] theorem State.sleep_others (s : State) (w : Wait) : (s.sleep w).others = s.others := rfl
@[simp] theorem State.sleep_entry (s : State) (w : Wait) : (s.sleep w).entry = s.entry := rfl
@[simp] theorem State.sleep_teams (s : State) (w : Wait) : (s.sleep w).teams = s.teams := rfl
@[simp] theorem State.sleep_launches (s : State) (w : Wait) : (s.sleep w).launches = s.launches := rfl
@[simp] theorem State.sleep_onchip (s : State) (w : Wait) : (s.sleep w).onchip = s.onchip := rfl
@[simp] theorem State.sleep_m (s : State) (w : Wait) : (s.sleep w).m = s.m := rfl
@[simp] theorem State.sleep_eng (s : State) (w : Wait) : (s.sleep w).eng = s.eng := rfl
@[simp] theorem State.sleep_fl (s : State) (w : Wait) : (s.sleep w).fl = s.fl := rfl
@[simp] theorem State.sleep_ctxs (s : State) (w : Wait) : (s.sleep w).ctxs = s.ctxs := rfl
@[simp] theorem State.sleep_ck (s : State) (w : Wait) : (s.sleep w).ck = s.ck := rfl
@[simp] theorem State.sleep_dev (s : State) (w : Wait) : (s.sleep w).dev = s.dev := rfl
@[simp] theorem State.sleep_quarters (s : State) (w : Wait) : (s.sleep w).quarters = s.quarters := rfl
@[simp] theorem State.sleep_fw (s : State) (w : Wait) : (s.sleep w).fw = s.fw := rfl
@[simp] theorem State.sleep_fab (s : State) (w : Wait) : (s.sleep w).fab = s.fab := rfl
@[simp] theorem State.sleep_reports (s : State) (w : Wait) : (s.sleep w).reports = s.reports := rfl
@[simp] theorem State.sleep_inputs (s : State) (w : Wait) : (s.sleep w).inputs = s.inputs := rfl
@[simp] theorem State.sleep_fresh (s : State) (w : Wait) : (s.sleep w).fresh = s.fresh := rfl
@[simp] theorem State.sleep_seq (s : State) (w : Wait) : (s.sleep w).seq = s.seq := rfl

/-! `State.shut` -/
@[simp] theorem State.shut_others (s : State) (i : Instr) : (s.shut i).others = s.others := rfl
@[simp] theorem State.shut_entry (s : State) (i : Instr) : (s.shut i).entry = s.entry := rfl
@[simp] theorem State.shut_teams (s : State) (i : Instr) : (s.shut i).teams = s.teams := rfl
@[simp] theorem State.shut_launches (s : State) (i : Instr) : (s.shut i).launches = s.launches := rfl
@[simp] theorem State.shut_onchip (s : State) (i : Instr) : (s.shut i).onchip = s.onchip := rfl
@[simp] theorem State.shut_m (s : State) (i : Instr) : (s.shut i).m = s.m := rfl
@[simp] theorem State.shut_eng (s : State) (i : Instr) : (s.shut i).eng = s.eng := rfl
@[simp] theorem State.shut_fl (s : State) (i : Instr) : (s.shut i).fl = s.fl := rfl
@[simp] theorem State.shut_ctxs (s : State) (i : Instr) : (s.shut i).ctxs = s.ctxs := rfl
@[simp] theorem State.shut_ck (s : State) (i : Instr) : (s.shut i).ck = s.ck := rfl
@[simp] theorem State.shut_dev (s : State) (i : Instr) : (s.shut i).dev = s.dev := rfl
@[simp] theorem State.shut_quarters (s : State) (i : Instr) : (s.shut i).quarters = s.quarters := rfl
@[simp] theorem State.shut_fw (s : State) (i : Instr) : (s.shut i).fw = s.fw := rfl
@[simp] theorem State.shut_fab (s : State) (i : Instr) : (s.shut i).fab = s.fab := rfl
@[simp] theorem State.shut_reports (s : State) (i : Instr) : (s.shut i).reports = s.reports := rfl
@[simp] theorem State.shut_inputs (s : State) (i : Instr) : (s.shut i).inputs = s.inputs := rfl
@[simp] theorem State.shut_fresh (s : State) (i : Instr) : (s.shut i).fresh = s.fresh := rfl
@[simp] theorem State.shut_seq (s : State) (i : Instr) : (s.shut i).seq = s.seq := rfl

/-! `State.stall` -/
@[simp] theorem State.stall_others (s : State) (i : Instr) : (s.stall i).others = s.others := by unfold State.stall; split <;> rfl
@[simp] theorem State.stall_entry (s : State) (i : Instr) : (s.stall i).entry = s.entry := by unfold State.stall; split <;> rfl
@[simp] theorem State.stall_teams (s : State) (i : Instr) : (s.stall i).teams = s.teams := by unfold State.stall; split <;> rfl
@[simp] theorem State.stall_launches (s : State) (i : Instr) : (s.stall i).launches = s.launches := by unfold State.stall; split <;> rfl
@[simp] theorem State.stall_onchip (s : State) (i : Instr) : (s.stall i).onchip = s.onchip := by unfold State.stall; split <;> rfl
@[simp] theorem State.stall_m (s : State) (i : Instr) : (s.stall i).m = s.m := by unfold State.stall; split <;> rfl
@[simp] theorem State.stall_eng (s : State) (i : Instr) : (s.stall i).eng = s.eng := by unfold State.stall; split <;> rfl
@[simp] theorem State.stall_fl (s : State) (i : Instr) : (s.stall i).fl = s.fl := by unfold State.stall; split <;> rfl
@[simp] theorem State.stall_ctxs (s : State) (i : Instr) : (s.stall i).ctxs = s.ctxs := by unfold State.stall; split <;> rfl
@[simp] theorem State.stall_ck (s : State) (i : Instr) : (s.stall i).ck = s.ck := by unfold State.stall; split <;> rfl
@[simp] theorem State.stall_dev (s : State) (i : Instr) : (s.stall i).dev = s.dev := by unfold State.stall; split <;> rfl
@[simp] theorem State.stall_quarters (s : State) (i : Instr) : (s.stall i).quarters = s.quarters := by unfold State.stall; split <;> rfl
@[simp] theorem State.stall_fw (s : State) (i : Instr) : (s.stall i).fw = s.fw := by unfold State.stall; split <;> rfl
@[simp] theorem State.stall_fab (s : State) (i : Instr) : (s.stall i).fab = s.fab := by unfold State.stall; split <;> rfl
@[simp] theorem State.stall_reports (s : State) (i : Instr) : (s.stall i).reports = s.reports := by unfold State.stall; split <;> rfl
@[simp] theorem State.stall_inputs (s : State) (i : Instr) : (s.stall i).inputs = s.inputs := by unfold State.stall; split <;> rfl
@[simp] theorem State.stall_fresh (s : State) (i : Instr) : (s.stall i).fresh = s.fresh := by unfold State.stall; split <;> rfl
@[simp] theorem State.stall_seq (s : State) (i : Instr) : (s.stall i).seq = s.seq := by unfold State.stall; split <;> rfl

/-! `State.hold` -/
@[simp] theorem State.hold_others (s : State) : (s.hold).others = s.others := rfl
@[simp] theorem State.hold_entry (s : State) : (s.hold).entry = s.entry := rfl
@[simp] theorem State.hold_teams (s : State) : (s.hold).teams = s.teams := rfl
@[simp] theorem State.hold_launches (s : State) : (s.hold).launches = s.launches := rfl
@[simp] theorem State.hold_onchip (s : State) : (s.hold).onchip = s.onchip := rfl
@[simp] theorem State.hold_m (s : State) : (s.hold).m = s.m := rfl
@[simp] theorem State.hold_eng (s : State) : (s.hold).eng = s.eng := rfl
@[simp] theorem State.hold_fl (s : State) : (s.hold).fl = s.fl := rfl
@[simp] theorem State.hold_ctxs (s : State) : (s.hold).ctxs = s.ctxs := rfl
@[simp] theorem State.hold_ck (s : State) : (s.hold).ck = s.ck := rfl
@[simp] theorem State.hold_dev (s : State) : (s.hold).dev = s.dev := rfl
@[simp] theorem State.hold_quarters (s : State) : (s.hold).quarters = s.quarters := rfl
@[simp] theorem State.hold_fw (s : State) : (s.hold).fw = s.fw := rfl
@[simp] theorem State.hold_fab (s : State) : (s.hold).fab = s.fab := rfl
@[simp] theorem State.hold_reports (s : State) : (s.hold).reports = s.reports := rfl
@[simp] theorem State.hold_inputs (s : State) : (s.hold).inputs = s.inputs := rfl
@[simp] theorem State.hold_fresh (s : State) : (s.hold).fresh = s.fresh := rfl
@[simp] theorem State.hold_seq (s : State) : (s.hold).seq = s.seq := rfl

/-! `State.ranOn` -/
@[simp] theorem State.ranOn_g (s : State) (core : Nat) (c : BitVec 12) : (s.ranOn core c).g = s.g := by unfold State.ranOn; dsimp only; (repeat' split) <;> simp
@[simp] theorem State.ranOn_others (s : State) (core : Nat) (c : BitVec 12) : (s.ranOn core c).others = s.others := by unfold State.ranOn; dsimp only; (repeat' split) <;> simp
@[simp] theorem State.ranOn_entry (s : State) (core : Nat) (c : BitVec 12) : (s.ranOn core c).entry = s.entry := by unfold State.ranOn; dsimp only; (repeat' split) <;> simp
@[simp] theorem State.ranOn_teams (s : State) (core : Nat) (c : BitVec 12) : (s.ranOn core c).teams = s.teams := by unfold State.ranOn; dsimp only; (repeat' split) <;> simp
@[simp] theorem State.ranOn_launches (s : State) (core : Nat) (c : BitVec 12) : (s.ranOn core c).launches = s.launches := by unfold State.ranOn; dsimp only; (repeat' split) <;> simp
@[simp] theorem State.ranOn_onchip (s : State) (core : Nat) (c : BitVec 12) : (s.ranOn core c).onchip = s.onchip := by unfold State.ranOn; dsimp only; (repeat' split) <;> simp
@[simp] theorem State.ranOn_m (s : State) (core : Nat) (c : BitVec 12) : (s.ranOn core c).m = s.m := by unfold State.ranOn; dsimp only; (repeat' split) <;> simp
@[simp] theorem State.ranOn_eng (s : State) (core : Nat) (c : BitVec 12) : (s.ranOn core c).eng = s.eng := by unfold State.ranOn; dsimp only; (repeat' split) <;> simp
@[simp] theorem State.ranOn_fl (s : State) (core : Nat) (c : BitVec 12) : (s.ranOn core c).fl = s.fl := by unfold State.ranOn; dsimp only; (repeat' split) <;> simp
@[simp] theorem State.ranOn_ctxs (s : State) (core : Nat) (c : BitVec 12) : (s.ranOn core c).ctxs = s.ctxs := by unfold State.ranOn; dsimp only; (repeat' split) <;> simp
@[simp] theorem State.ranOn_dev (s : State) (core : Nat) (c : BitVec 12) : (s.ranOn core c).dev = s.dev := by unfold State.ranOn; dsimp only; (repeat' split) <;> simp
@[simp] theorem State.ranOn_quarters (s : State) (core : Nat) (c : BitVec 12) : (s.ranOn core c).quarters = s.quarters := by unfold State.ranOn; dsimp only; (repeat' split) <;> simp
@[simp] theorem State.ranOn_fw (s : State) (core : Nat) (c : BitVec 12) : (s.ranOn core c).fw = s.fw := by unfold State.ranOn; dsimp only; (repeat' split) <;> simp
@[simp] theorem State.ranOn_fab (s : State) (core : Nat) (c : BitVec 12) : (s.ranOn core c).fab = s.fab := by unfold State.ranOn; dsimp only; (repeat' split) <;> simp
@[simp] theorem State.ranOn_reports (s : State) (core : Nat) (c : BitVec 12) : (s.ranOn core c).reports = s.reports := by unfold State.ranOn; dsimp only; (repeat' split) <;> simp
@[simp] theorem State.ranOn_inputs (s : State) (core : Nat) (c : BitVec 12) : (s.ranOn core c).inputs = s.inputs := by unfold State.ranOn; dsimp only; (repeat' split) <;> simp
@[simp] theorem State.ranOn_fresh (s : State) (core : Nat) (c : BitVec 12) : (s.ranOn core c).fresh = s.fresh := by unfold State.ranOn; dsimp only; (repeat' split) <;> simp
@[simp] theorem State.ranOn_seq (s : State) (core : Nat) (c : BitVec 12) : (s.ranOn core c).seq = s.seq := by unfold State.ranOn; dsimp only; (repeat' split) <;> simp

/-! `State.begin` -/
@[simp] theorem State.begin_others (s : State) (i : Instr) : (s.begin i).others = s.others := rfl
@[simp] theorem State.begin_entry (s : State) (i : Instr) : (s.begin i).entry = s.entry := rfl
@[simp] theorem State.begin_teams (s : State) (i : Instr) : (s.begin i).teams = s.teams := rfl
@[simp] theorem State.begin_launches (s : State) (i : Instr) : (s.begin i).launches = s.launches := rfl
@[simp] theorem State.begin_onchip (s : State) (i : Instr) : (s.begin i).onchip = s.onchip := rfl
@[simp] theorem State.begin_m (s : State) (i : Instr) : (s.begin i).m = s.m := rfl
@[simp] theorem State.begin_eng (s : State) (i : Instr) : (s.begin i).eng = s.eng := rfl
@[simp] theorem State.begin_fl (s : State) (i : Instr) : (s.begin i).fl = s.fl := rfl
@[simp] theorem State.begin_ctxs (s : State) (i : Instr) : (s.begin i).ctxs = s.ctxs := rfl
@[simp] theorem State.begin_ck (s : State) (i : Instr) : (s.begin i).ck = s.ck := rfl
@[simp] theorem State.begin_dev (s : State) (i : Instr) : (s.begin i).dev = s.dev := rfl
@[simp] theorem State.begin_quarters (s : State) (i : Instr) : (s.begin i).quarters = s.quarters := rfl
@[simp] theorem State.begin_fw (s : State) (i : Instr) : (s.begin i).fw = s.fw := rfl
@[simp] theorem State.begin_fab (s : State) (i : Instr) : (s.begin i).fab = s.fab := rfl
@[simp] theorem State.begin_reports (s : State) (i : Instr) : (s.begin i).reports = s.reports := rfl
@[simp] theorem State.begin_inputs (s : State) (i : Instr) : (s.begin i).inputs = s.inputs := rfl

/-! `State.start` -/
@[simp] theorem State.start_entry (s : State) (i : Instr) : (s.start i).entry = s.entry := by simp [State.start]
@[simp] theorem State.start_teams (s : State) (i : Instr) : (s.start i).teams = s.teams := by simp [State.start]
@[simp] theorem State.start_launches (s : State) (i : Instr) : (s.start i).launches = s.launches := by simp [State.start]
@[simp] theorem State.start_onchip (s : State) (i : Instr) : (s.start i).onchip = s.onchip := by simp [State.start]
@[simp] theorem State.start_m (s : State) (i : Instr) : (s.start i).m = s.m := by simp [State.start]
@[simp] theorem State.start_eng (s : State) (i : Instr) : (s.start i).eng = s.eng := by simp [State.start]
@[simp] theorem State.start_fl (s : State) (i : Instr) : (s.start i).fl = s.fl := by simp [State.start]
@[simp] theorem State.start_ctxs (s : State) (i : Instr) : (s.start i).ctxs = s.ctxs := by simp [State.start]
@[simp] theorem State.start_dev (s : State) (i : Instr) : (s.start i).dev = s.dev := by simp [State.start]
@[simp] theorem State.start_quarters (s : State) (i : Instr) : (s.start i).quarters = s.quarters := by simp [State.start]
@[simp] theorem State.start_fw (s : State) (i : Instr) : (s.start i).fw = s.fw := by simp [State.start]
@[simp] theorem State.start_fab (s : State) (i : Instr) : (s.start i).fab = s.fab := by simp [State.start]
@[simp] theorem State.start_reports (s : State) (i : Instr) : (s.start i).reports = s.reports := by simp [State.start]
@[simp] theorem State.start_inputs (s : State) (i : Instr) : (s.start i).inputs = s.inputs := by simp [State.start]

/-! `State.openWin` -/
@[simp] theorem State.openWin_others (s : State) (l : Nat) (waits : Bool) : (s.openWin l waits).others = s.others := rfl
@[simp] theorem State.openWin_entry (s : State) (l : Nat) (waits : Bool) : (s.openWin l waits).entry = s.entry := rfl
@[simp] theorem State.openWin_teams (s : State) (l : Nat) (waits : Bool) : (s.openWin l waits).teams = s.teams := rfl
@[simp] theorem State.openWin_launches (s : State) (l : Nat) (waits : Bool) : (s.openWin l waits).launches = s.launches := rfl
@[simp] theorem State.openWin_onchip (s : State) (l : Nat) (waits : Bool) : (s.openWin l waits).onchip = s.onchip := rfl
@[simp] theorem State.openWin_m (s : State) (l : Nat) (waits : Bool) : (s.openWin l waits).m = s.m := rfl
@[simp] theorem State.openWin_eng (s : State) (l : Nat) (waits : Bool) : (s.openWin l waits).eng = s.eng := rfl
@[simp] theorem State.openWin_fl (s : State) (l : Nat) (waits : Bool) : (s.openWin l waits).fl = s.fl := rfl
@[simp] theorem State.openWin_ctxs (s : State) (l : Nat) (waits : Bool) : (s.openWin l waits).ctxs = s.ctxs := rfl
@[simp] theorem State.openWin_ck (s : State) (l : Nat) (waits : Bool) : (s.openWin l waits).ck = s.ck := rfl
@[simp] theorem State.openWin_dev (s : State) (l : Nat) (waits : Bool) : (s.openWin l waits).dev = s.dev := rfl
@[simp] theorem State.openWin_quarters (s : State) (l : Nat) (waits : Bool) : (s.openWin l waits).quarters = s.quarters := rfl
@[simp] theorem State.openWin_fw (s : State) (l : Nat) (waits : Bool) : (s.openWin l waits).fw = s.fw := rfl
@[simp] theorem State.openWin_fab (s : State) (l : Nat) (waits : Bool) : (s.openWin l waits).fab = s.fab := rfl
@[simp] theorem State.openWin_reports (s : State) (l : Nat) (waits : Bool) : (s.openWin l waits).reports = s.reports := rfl
@[simp] theorem State.openWin_inputs (s : State) (l : Nat) (waits : Bool) : (s.openWin l waits).inputs = s.inputs := rfl
@[simp] theorem State.openWin_fresh (s : State) (l : Nat) (waits : Bool) : (s.openWin l waits).fresh = s.fresh := rfl
@[simp] theorem State.openWin_seq (s : State) (l : Nat) (waits : Bool) : (s.openWin l waits).seq = s.seq := rfl

/-! `State.wrLong` -/
@[simp] theorem State.wrLong_others (s : State) (d : Reg) (m : W32) (f : Nat → W32) : (s.wrLong d m f).others = s.others := by unfold State.wrLong; split <;> rfl
@[simp] theorem State.wrLong_entry (s : State) (d : Reg) (m : W32) (f : Nat → W32) : (s.wrLong d m f).entry = s.entry := by unfold State.wrLong; split <;> rfl
@[simp] theorem State.wrLong_teams (s : State) (d : Reg) (m : W32) (f : Nat → W32) : (s.wrLong d m f).teams = s.teams := by unfold State.wrLong; split <;> rfl
@[simp] theorem State.wrLong_launches (s : State) (d : Reg) (m : W32) (f : Nat → W32) : (s.wrLong d m f).launches = s.launches := by unfold State.wrLong; split <;> rfl
@[simp] theorem State.wrLong_onchip (s : State) (d : Reg) (m : W32) (f : Nat → W32) : (s.wrLong d m f).onchip = s.onchip := by unfold State.wrLong; split <;> rfl
@[simp] theorem State.wrLong_m (s : State) (d : Reg) (m : W32) (f : Nat → W32) : (s.wrLong d m f).m = s.m := by unfold State.wrLong; split <;> rfl
@[simp] theorem State.wrLong_eng (s : State) (d : Reg) (m : W32) (f : Nat → W32) : (s.wrLong d m f).eng = s.eng := by unfold State.wrLong; split <;> rfl
@[simp] theorem State.wrLong_fl (s : State) (d : Reg) (m : W32) (f : Nat → W32) : (s.wrLong d m f).fl = s.fl := by unfold State.wrLong; split <;> rfl
@[simp] theorem State.wrLong_ctxs (s : State) (d : Reg) (m : W32) (f : Nat → W32) : (s.wrLong d m f).ctxs = s.ctxs := by unfold State.wrLong; split <;> rfl
@[simp] theorem State.wrLong_ck (s : State) (d : Reg) (m : W32) (f : Nat → W32) : (s.wrLong d m f).ck = s.ck := by unfold State.wrLong; split <;> rfl
@[simp] theorem State.wrLong_dev (s : State) (d : Reg) (m : W32) (f : Nat → W32) : (s.wrLong d m f).dev = s.dev := by unfold State.wrLong; split <;> rfl
@[simp] theorem State.wrLong_quarters (s : State) (d : Reg) (m : W32) (f : Nat → W32) : (s.wrLong d m f).quarters = s.quarters := by unfold State.wrLong; split <;> rfl
@[simp] theorem State.wrLong_fw (s : State) (d : Reg) (m : W32) (f : Nat → W32) : (s.wrLong d m f).fw = s.fw := by unfold State.wrLong; split <;> rfl
@[simp] theorem State.wrLong_fab (s : State) (d : Reg) (m : W32) (f : Nat → W32) : (s.wrLong d m f).fab = s.fab := by unfold State.wrLong; split <;> rfl
@[simp] theorem State.wrLong_reports (s : State) (d : Reg) (m : W32) (f : Nat → W32) : (s.wrLong d m f).reports = s.reports := by unfold State.wrLong; split <;> rfl
@[simp] theorem State.wrLong_inputs (s : State) (d : Reg) (m : W32) (f : Nat → W32) : (s.wrLong d m f).inputs = s.inputs := by unfold State.wrLong; split <;> rfl
@[simp] theorem State.wrLong_fresh (s : State) (d : Reg) (m : W32) (f : Nat → W32) : (s.wrLong d m f).fresh = s.fresh := by unfold State.wrLong; split <;> rfl
@[simp] theorem State.wrLong_seq (s : State) (d : Reg) (m : W32) (f : Nat → W32) : (s.wrLong d m f).seq = s.seq := by unfold State.wrLong; split <;> rfl

/-! `State.wrLong64` -/
@[simp] theorem State.wrLong64_others (s : State) (d : Reg) (m : W32) (f : Nat → W64) : (s.wrLong64 d m f).others = s.others := by unfold State.wrLong64; split <;> simp
@[simp] theorem State.wrLong64_entry (s : State) (d : Reg) (m : W32) (f : Nat → W64) : (s.wrLong64 d m f).entry = s.entry := by unfold State.wrLong64; split <;> simp
@[simp] theorem State.wrLong64_teams (s : State) (d : Reg) (m : W32) (f : Nat → W64) : (s.wrLong64 d m f).teams = s.teams := by unfold State.wrLong64; split <;> simp
@[simp] theorem State.wrLong64_launches (s : State) (d : Reg) (m : W32) (f : Nat → W64) : (s.wrLong64 d m f).launches = s.launches := by unfold State.wrLong64; split <;> simp
@[simp] theorem State.wrLong64_onchip (s : State) (d : Reg) (m : W32) (f : Nat → W64) : (s.wrLong64 d m f).onchip = s.onchip := by unfold State.wrLong64; split <;> simp
@[simp] theorem State.wrLong64_m (s : State) (d : Reg) (m : W32) (f : Nat → W64) : (s.wrLong64 d m f).m = s.m := by unfold State.wrLong64; split <;> simp
@[simp] theorem State.wrLong64_eng (s : State) (d : Reg) (m : W32) (f : Nat → W64) : (s.wrLong64 d m f).eng = s.eng := by unfold State.wrLong64; split <;> simp
@[simp] theorem State.wrLong64_fl (s : State) (d : Reg) (m : W32) (f : Nat → W64) : (s.wrLong64 d m f).fl = s.fl := by unfold State.wrLong64; split <;> simp
@[simp] theorem State.wrLong64_ctxs (s : State) (d : Reg) (m : W32) (f : Nat → W64) : (s.wrLong64 d m f).ctxs = s.ctxs := by unfold State.wrLong64; split <;> simp
@[simp] theorem State.wrLong64_ck (s : State) (d : Reg) (m : W32) (f : Nat → W64) : (s.wrLong64 d m f).ck = s.ck := by unfold State.wrLong64; split <;> simp
@[simp] theorem State.wrLong64_dev (s : State) (d : Reg) (m : W32) (f : Nat → W64) : (s.wrLong64 d m f).dev = s.dev := by unfold State.wrLong64; split <;> simp
@[simp] theorem State.wrLong64_quarters (s : State) (d : Reg) (m : W32) (f : Nat → W64) : (s.wrLong64 d m f).quarters = s.quarters := by unfold State.wrLong64; split <;> simp
@[simp] theorem State.wrLong64_fw (s : State) (d : Reg) (m : W32) (f : Nat → W64) : (s.wrLong64 d m f).fw = s.fw := by unfold State.wrLong64; split <;> simp
@[simp] theorem State.wrLong64_fab (s : State) (d : Reg) (m : W32) (f : Nat → W64) : (s.wrLong64 d m f).fab = s.fab := by unfold State.wrLong64; split <;> simp
@[simp] theorem State.wrLong64_reports (s : State) (d : Reg) (m : W32) (f : Nat → W64) : (s.wrLong64 d m f).reports = s.reports := by unfold State.wrLong64; split <;> simp
@[simp] theorem State.wrLong64_inputs (s : State) (d : Reg) (m : W32) (f : Nat → W64) : (s.wrLong64 d m f).inputs = s.inputs := by unfold State.wrLong64; split <;> simp
@[simp] theorem State.wrLong64_fresh (s : State) (d : Reg) (m : W32) (f : Nat → W64) : (s.wrLong64 d m f).fresh = s.fresh := by unfold State.wrLong64; split <;> simp
@[simp] theorem State.wrLong64_seq (s : State) (d : Reg) (m : W32) (f : Nat → W64) : (s.wrLong64 d m f).seq = s.seq := by unfold State.wrLong64; split <;> simp

/-! `State.counted` -/
@[simp] theorem State.counted_g (s : State) : s.counted.g = s.g := by simp [State.counted]
@[simp] theorem State.counted_others (s : State) : s.counted.others = s.others := by simp [State.counted]
@[simp] theorem State.counted_entry (s : State) : s.counted.entry = s.entry := by simp [State.counted]
@[simp] theorem State.counted_teams (s : State) : s.counted.teams = s.teams := by simp [State.counted]
@[simp] theorem State.counted_launches (s : State) : s.counted.launches = s.launches := by simp [State.counted]
@[simp] theorem State.counted_onchip (s : State) : s.counted.onchip = s.onchip := by simp [State.counted]
@[simp] theorem State.counted_m (s : State) : s.counted.m = s.m := by simp [State.counted]
@[simp] theorem State.counted_eng (s : State) : s.counted.eng = s.eng := by simp [State.counted]
@[simp] theorem State.counted_fl (s : State) : s.counted.fl = s.fl := by simp [State.counted]
@[simp] theorem State.counted_ctxs (s : State) : s.counted.ctxs = s.ctxs := by simp [State.counted]
@[simp] theorem State.counted_ck (s : State) : s.counted.ck = s.ck := by simp [State.counted]
@[simp] theorem State.counted_quarters (s : State) : s.counted.quarters = s.quarters := by simp [State.counted]
@[simp] theorem State.counted_fw (s : State) : s.counted.fw = s.fw := by simp [State.counted]
@[simp] theorem State.counted_fab (s : State) : s.counted.fab = s.fab := by simp [State.counted]
@[simp] theorem State.counted_reports (s : State) : s.counted.reports = s.reports := by simp [State.counted]
@[simp] theorem State.counted_inputs (s : State) : s.counted.inputs = s.inputs := by simp [State.counted]
@[simp] theorem State.counted_fresh (s : State) : s.counted.fresh = s.fresh := by simp [State.counted]
@[simp] theorem State.counted_seq (s : State) : s.counted.seq = s.seq := by simp [State.counted]

/-! `State.issued` -/
@[simp] theorem State.issued_g (s : State) : s.issued.g = s.g.onSplit s.entry fun x => { x with age := 0 } := by rw [State.issued, State.counted_g]; rfl
@[simp] theorem State.issued_others (s : State) : s.issued.others = s.others := by simp [State.issued]
@[simp] theorem State.issued_entry (s : State) : s.issued.entry = s.entry := by simp [State.issued]
@[simp] theorem State.issued_teams (s : State) : s.issued.teams = s.teams := by simp [State.issued]
@[simp] theorem State.issued_launches (s : State) : s.issued.launches = s.launches := by simp [State.issued]
@[simp] theorem State.issued_onchip (s : State) : s.issued.onchip = s.onchip := by simp [State.issued]
@[simp] theorem State.issued_m (s : State) : s.issued.m = s.m := by simp [State.issued]
@[simp] theorem State.issued_eng (s : State) : s.issued.eng = s.eng := by simp [State.issued]
@[simp] theorem State.issued_fl (s : State) : s.issued.fl = s.fl := by simp [State.issued]
@[simp] theorem State.issued_ctxs (s : State) : s.issued.ctxs = s.ctxs := by simp [State.issued]
@[simp] theorem State.issued_ck (s : State) : s.issued.ck = s.ck := by simp [State.issued]
@[simp] theorem State.issued_quarters (s : State) : s.issued.quarters = s.quarters := by simp [State.issued]
@[simp] theorem State.issued_fw (s : State) : s.issued.fw = s.fw := by simp [State.issued]
@[simp] theorem State.issued_fab (s : State) : s.issued.fab = s.fab := by simp [State.issued]
@[simp] theorem State.issued_reports (s : State) : s.issued.reports = s.reports := by simp [State.issued]
@[simp] theorem State.issued_inputs (s : State) : s.issued.inputs = s.inputs := by simp [State.issued]
@[simp] theorem State.issued_fresh (s : State) : s.issued.fresh = s.fresh := by simp [State.issued]
@[simp] theorem State.issued_seq (s : State) : s.issued.seq = s.seq := by simp [State.issued]

/-! `State.goto` -/
@[simp] theorem State.goto_others (s : State) (pc : W64) : (s.goto pc).others = s.others := by simp [State.goto]
@[simp] theorem State.goto_entry (s : State) (pc : W64) : (s.goto pc).entry = s.entry := by simp [State.goto]
@[simp] theorem State.goto_teams (s : State) (pc : W64) : (s.goto pc).teams = s.teams := by simp [State.goto]
@[simp] theorem State.goto_launches (s : State) (pc : W64) : (s.goto pc).launches = s.launches := by simp [State.goto]
@[simp] theorem State.goto_onchip (s : State) (pc : W64) : (s.goto pc).onchip = s.onchip := by simp [State.goto]
@[simp] theorem State.goto_m (s : State) (pc : W64) : (s.goto pc).m = s.m := by simp [State.goto]
@[simp] theorem State.goto_eng (s : State) (pc : W64) : (s.goto pc).eng = s.eng := by simp [State.goto]
@[simp] theorem State.goto_fl (s : State) (pc : W64) : (s.goto pc).fl = s.fl := by simp [State.goto]
@[simp] theorem State.goto_ctxs (s : State) (pc : W64) : (s.goto pc).ctxs = s.ctxs := by simp [State.goto]
@[simp] theorem State.goto_ck (s : State) (pc : W64) : (s.goto pc).ck = s.ck := by simp [State.goto]
@[simp] theorem State.goto_quarters (s : State) (pc : W64) : (s.goto pc).quarters = s.quarters := by simp [State.goto]
@[simp] theorem State.goto_fw (s : State) (pc : W64) : (s.goto pc).fw = s.fw := by simp [State.goto]
@[simp] theorem State.goto_fab (s : State) (pc : W64) : (s.goto pc).fab = s.fab := by simp [State.goto]
@[simp] theorem State.goto_reports (s : State) (pc : W64) : (s.goto pc).reports = s.reports := by simp [State.goto]
@[simp] theorem State.goto_inputs (s : State) (pc : W64) : (s.goto pc).inputs = s.inputs := by simp [State.goto]
@[simp] theorem State.goto_fresh (s : State) (pc : W64) : (s.goto pc).fresh = s.fresh := by simp [State.goto]
@[simp] theorem State.goto_seq (s : State) (pc : W64) : (s.goto pc).seq = s.seq := by simp [State.goto]

/-! `State.done` -/
@[simp] theorem State.done_others (s : State) : s.done.others = s.others := by simp [State.done]
@[simp] theorem State.done_entry (s : State) : s.done.entry = s.entry := by simp [State.done]
@[simp] theorem State.done_teams (s : State) : s.done.teams = s.teams := by simp [State.done]
@[simp] theorem State.done_launches (s : State) : s.done.launches = s.launches := by simp [State.done]
@[simp] theorem State.done_onchip (s : State) : s.done.onchip = s.onchip := by simp [State.done]
@[simp] theorem State.done_m (s : State) : s.done.m = s.m := by simp [State.done]
@[simp] theorem State.done_eng (s : State) : s.done.eng = s.eng := by simp [State.done]
@[simp] theorem State.done_fl (s : State) : s.done.fl = s.fl := by simp [State.done]
@[simp] theorem State.done_ctxs (s : State) : s.done.ctxs = s.ctxs := by simp [State.done]
@[simp] theorem State.done_ck (s : State) : s.done.ck = s.ck := by simp [State.done]
@[simp] theorem State.done_quarters (s : State) : s.done.quarters = s.quarters := by simp [State.done]
@[simp] theorem State.done_fw (s : State) : s.done.fw = s.fw := by simp [State.done]
@[simp] theorem State.done_fab (s : State) : s.done.fab = s.fab := by simp [State.done]
@[simp] theorem State.done_reports (s : State) : s.done.reports = s.reports := by simp [State.done]
@[simp] theorem State.done_inputs (s : State) : s.done.inputs = s.inputs := by simp [State.done]
@[simp] theorem State.done_fresh (s : State) : s.done.fresh = s.fresh := by simp [State.done]
@[simp] theorem State.done_seq (s : State) : s.done.seq = s.seq := by simp [State.done]

/-! `State.withdraw` -/
@[simp] theorem State.withdraw_g (s : State) (gid : Nat) : (s.withdraw gid).g = s.g := rfl
@[simp] theorem State.withdraw_others (s : State) (gid : Nat) : (s.withdraw gid).others = s.others := rfl
@[simp] theorem State.withdraw_entry (s : State) (gid : Nat) : (s.withdraw gid).entry = s.entry := rfl
@[simp] theorem State.withdraw_teams (s : State) (gid : Nat) : (s.withdraw gid).teams = s.teams := rfl
@[simp] theorem State.withdraw_launches (s : State) (gid : Nat) : (s.withdraw gid).launches = s.launches := rfl
@[simp] theorem State.withdraw_onchip (s : State) (gid : Nat) : (s.withdraw gid).onchip = s.onchip := rfl
@[simp] theorem State.withdraw_eng (s : State) (gid : Nat) : (s.withdraw gid).eng = s.eng := rfl
@[simp] theorem State.withdraw_fl (s : State) (gid : Nat) : (s.withdraw gid).fl = s.fl := rfl
@[simp] theorem State.withdraw_ctxs (s : State) (gid : Nat) : (s.withdraw gid).ctxs = s.ctxs := rfl
@[simp] theorem State.withdraw_ck (s : State) (gid : Nat) : (s.withdraw gid).ck = s.ck := rfl
@[simp] theorem State.withdraw_dev (s : State) (gid : Nat) : (s.withdraw gid).dev = s.dev := rfl
@[simp] theorem State.withdraw_quarters (s : State) (gid : Nat) : (s.withdraw gid).quarters = s.quarters := rfl
@[simp] theorem State.withdraw_fw (s : State) (gid : Nat) : (s.withdraw gid).fw = s.fw := rfl
@[simp] theorem State.withdraw_fab (s : State) (gid : Nat) : (s.withdraw gid).fab = s.fab := rfl
@[simp] theorem State.withdraw_reports (s : State) (gid : Nat) : (s.withdraw gid).reports = s.reports := rfl
@[simp] theorem State.withdraw_inputs (s : State) (gid : Nat) : (s.withdraw gid).inputs = s.inputs := rfl
@[simp] theorem State.withdraw_fresh (s : State) (gid : Nat) : (s.withdraw gid).fresh = s.fresh := rfl
@[simp] theorem State.withdraw_seq (s : State) (gid : Nat) : (s.withdraw gid).seq = s.seq := rfl

/-! `State.wrAt` -/
@[simp] theorem State.wrAt_others (s : State) (w : Nat) (d : Reg) (f : Nat → Int) : (s.wrAt w d f).others = s.others := by unfold State.wrAt; split <;> simp
@[simp] theorem State.wrAt_entry (s : State) (w : Nat) (d : Reg) (f : Nat → Int) : (s.wrAt w d f).entry = s.entry := by unfold State.wrAt; split <;> simp
@[simp] theorem State.wrAt_teams (s : State) (w : Nat) (d : Reg) (f : Nat → Int) : (s.wrAt w d f).teams = s.teams := by unfold State.wrAt; split <;> simp
@[simp] theorem State.wrAt_launches (s : State) (w : Nat) (d : Reg) (f : Nat → Int) : (s.wrAt w d f).launches = s.launches := by unfold State.wrAt; split <;> simp
@[simp] theorem State.wrAt_onchip (s : State) (w : Nat) (d : Reg) (f : Nat → Int) : (s.wrAt w d f).onchip = s.onchip := by unfold State.wrAt; split <;> simp
@[simp] theorem State.wrAt_m (s : State) (w : Nat) (d : Reg) (f : Nat → Int) : (s.wrAt w d f).m = s.m := by unfold State.wrAt; split <;> simp
@[simp] theorem State.wrAt_eng (s : State) (w : Nat) (d : Reg) (f : Nat → Int) : (s.wrAt w d f).eng = s.eng := by unfold State.wrAt; split <;> simp
@[simp] theorem State.wrAt_fl (s : State) (w : Nat) (d : Reg) (f : Nat → Int) : (s.wrAt w d f).fl = s.fl := by unfold State.wrAt; split <;> simp
@[simp] theorem State.wrAt_ctxs (s : State) (w : Nat) (d : Reg) (f : Nat → Int) : (s.wrAt w d f).ctxs = s.ctxs := by unfold State.wrAt; split <;> simp
@[simp] theorem State.wrAt_ck (s : State) (w : Nat) (d : Reg) (f : Nat → Int) : (s.wrAt w d f).ck = s.ck := by unfold State.wrAt; split <;> simp
@[simp] theorem State.wrAt_dev (s : State) (w : Nat) (d : Reg) (f : Nat → Int) : (s.wrAt w d f).dev = s.dev := by unfold State.wrAt; split <;> simp
@[simp] theorem State.wrAt_quarters (s : State) (w : Nat) (d : Reg) (f : Nat → Int) : (s.wrAt w d f).quarters = s.quarters := by unfold State.wrAt; split <;> simp
@[simp] theorem State.wrAt_fw (s : State) (w : Nat) (d : Reg) (f : Nat → Int) : (s.wrAt w d f).fw = s.fw := by unfold State.wrAt; split <;> simp
@[simp] theorem State.wrAt_fab (s : State) (w : Nat) (d : Reg) (f : Nat → Int) : (s.wrAt w d f).fab = s.fab := by unfold State.wrAt; split <;> simp
@[simp] theorem State.wrAt_reports (s : State) (w : Nat) (d : Reg) (f : Nat → Int) : (s.wrAt w d f).reports = s.reports := by unfold State.wrAt; split <;> simp
@[simp] theorem State.wrAt_inputs (s : State) (w : Nat) (d : Reg) (f : Nat → Int) : (s.wrAt w d f).inputs = s.inputs := by unfold State.wrAt; split <;> simp
@[simp] theorem State.wrAt_fresh (s : State) (w : Nat) (d : Reg) (f : Nat → Int) : (s.wrAt w d f).fresh = s.fresh := by unfold State.wrAt; split <;> simp
@[simp] theorem State.wrAt_seq (s : State) (w : Nat) (d : Reg) (f : Nat → Int) : (s.wrAt w d f).seq = s.seq := by unfold State.wrAt; split <;> simp

/-! `State.wrInt` -/
@[simp] theorem State.wrInt_others (s : State) (d : Reg) (f : Nat → Int) : (s.wrInt d f).others = s.others := by simp [State.wrInt]
@[simp] theorem State.wrInt_entry (s : State) (d : Reg) (f : Nat → Int) : (s.wrInt d f).entry = s.entry := by simp [State.wrInt]
@[simp] theorem State.wrInt_teams (s : State) (d : Reg) (f : Nat → Int) : (s.wrInt d f).teams = s.teams := by simp [State.wrInt]
@[simp] theorem State.wrInt_launches (s : State) (d : Reg) (f : Nat → Int) : (s.wrInt d f).launches = s.launches := by simp [State.wrInt]
@[simp] theorem State.wrInt_onchip (s : State) (d : Reg) (f : Nat → Int) : (s.wrInt d f).onchip = s.onchip := by simp [State.wrInt]
@[simp] theorem State.wrInt_m (s : State) (d : Reg) (f : Nat → Int) : (s.wrInt d f).m = s.m := by simp [State.wrInt]
@[simp] theorem State.wrInt_eng (s : State) (d : Reg) (f : Nat → Int) : (s.wrInt d f).eng = s.eng := by simp [State.wrInt]
@[simp] theorem State.wrInt_fl (s : State) (d : Reg) (f : Nat → Int) : (s.wrInt d f).fl = s.fl := by simp [State.wrInt]
@[simp] theorem State.wrInt_ctxs (s : State) (d : Reg) (f : Nat → Int) : (s.wrInt d f).ctxs = s.ctxs := by simp [State.wrInt]
@[simp] theorem State.wrInt_ck (s : State) (d : Reg) (f : Nat → Int) : (s.wrInt d f).ck = s.ck := by simp [State.wrInt]
@[simp] theorem State.wrInt_dev (s : State) (d : Reg) (f : Nat → Int) : (s.wrInt d f).dev = s.dev := by simp [State.wrInt]
@[simp] theorem State.wrInt_quarters (s : State) (d : Reg) (f : Nat → Int) : (s.wrInt d f).quarters = s.quarters := by simp [State.wrInt]
@[simp] theorem State.wrInt_fw (s : State) (d : Reg) (f : Nat → Int) : (s.wrInt d f).fw = s.fw := by simp [State.wrInt]
@[simp] theorem State.wrInt_fab (s : State) (d : Reg) (f : Nat → Int) : (s.wrInt d f).fab = s.fab := by simp [State.wrInt]
@[simp] theorem State.wrInt_reports (s : State) (d : Reg) (f : Nat → Int) : (s.wrInt d f).reports = s.reports := by simp [State.wrInt]
@[simp] theorem State.wrInt_inputs (s : State) (d : Reg) (f : Nat → Int) : (s.wrInt d f).inputs = s.inputs := by simp [State.wrInt]
@[simp] theorem State.wrInt_fresh (s : State) (d : Reg) (f : Nat → Int) : (s.wrInt d f).fresh = s.fresh := by simp [State.wrInt]
@[simp] theorem State.wrInt_seq (s : State) (d : Reg) (f : Nat → Int) : (s.wrInt d f).seq = s.seq := by simp [State.wrInt]

/-! `State.wrBits` -/
@[simp] theorem State.wrBits_others (s : State) (d : Reg) (f : Nat → Nat) : (s.wrBits d f).others = s.others := by simp [State.wrBits]
@[simp] theorem State.wrBits_entry (s : State) (d : Reg) (f : Nat → Nat) : (s.wrBits d f).entry = s.entry := by simp [State.wrBits]
@[simp] theorem State.wrBits_teams (s : State) (d : Reg) (f : Nat → Nat) : (s.wrBits d f).teams = s.teams := by simp [State.wrBits]
@[simp] theorem State.wrBits_launches (s : State) (d : Reg) (f : Nat → Nat) : (s.wrBits d f).launches = s.launches := by simp [State.wrBits]
@[simp] theorem State.wrBits_onchip (s : State) (d : Reg) (f : Nat → Nat) : (s.wrBits d f).onchip = s.onchip := by simp [State.wrBits]
@[simp] theorem State.wrBits_m (s : State) (d : Reg) (f : Nat → Nat) : (s.wrBits d f).m = s.m := by simp [State.wrBits]
@[simp] theorem State.wrBits_eng (s : State) (d : Reg) (f : Nat → Nat) : (s.wrBits d f).eng = s.eng := by simp [State.wrBits]
@[simp] theorem State.wrBits_fl (s : State) (d : Reg) (f : Nat → Nat) : (s.wrBits d f).fl = s.fl := by simp [State.wrBits]
@[simp] theorem State.wrBits_ctxs (s : State) (d : Reg) (f : Nat → Nat) : (s.wrBits d f).ctxs = s.ctxs := by simp [State.wrBits]
@[simp] theorem State.wrBits_ck (s : State) (d : Reg) (f : Nat → Nat) : (s.wrBits d f).ck = s.ck := by simp [State.wrBits]
@[simp] theorem State.wrBits_dev (s : State) (d : Reg) (f : Nat → Nat) : (s.wrBits d f).dev = s.dev := by simp [State.wrBits]
@[simp] theorem State.wrBits_quarters (s : State) (d : Reg) (f : Nat → Nat) : (s.wrBits d f).quarters = s.quarters := by simp [State.wrBits]
@[simp] theorem State.wrBits_fw (s : State) (d : Reg) (f : Nat → Nat) : (s.wrBits d f).fw = s.fw := by simp [State.wrBits]
@[simp] theorem State.wrBits_fab (s : State) (d : Reg) (f : Nat → Nat) : (s.wrBits d f).fab = s.fab := by simp [State.wrBits]
@[simp] theorem State.wrBits_reports (s : State) (d : Reg) (f : Nat → Nat) : (s.wrBits d f).reports = s.reports := by simp [State.wrBits]
@[simp] theorem State.wrBits_inputs (s : State) (d : Reg) (f : Nat → Nat) : (s.wrBits d f).inputs = s.inputs := by simp [State.wrBits]
@[simp] theorem State.wrBits_fresh (s : State) (d : Reg) (f : Nat → Nat) : (s.wrBits d f).fresh = s.fresh := by simp [State.wrBits]
@[simp] theorem State.wrBits_seq (s : State) (d : Reg) (f : Nat → Nat) : (s.wrBits d f).seq = s.seq := by simp [State.wrBits]

/-! `State.wrEnc` -/
@[simp] theorem State.wrEnc_others (s : State) (w : Nat) (d : Reg) (f : Nat → Nat) : (s.wrEnc w d f).others = s.others := by unfold State.wrEnc; split <;> simp
@[simp] theorem State.wrEnc_entry (s : State) (w : Nat) (d : Reg) (f : Nat → Nat) : (s.wrEnc w d f).entry = s.entry := by unfold State.wrEnc; split <;> simp
@[simp] theorem State.wrEnc_teams (s : State) (w : Nat) (d : Reg) (f : Nat → Nat) : (s.wrEnc w d f).teams = s.teams := by unfold State.wrEnc; split <;> simp
@[simp] theorem State.wrEnc_launches (s : State) (w : Nat) (d : Reg) (f : Nat → Nat) : (s.wrEnc w d f).launches = s.launches := by unfold State.wrEnc; split <;> simp
@[simp] theorem State.wrEnc_onchip (s : State) (w : Nat) (d : Reg) (f : Nat → Nat) : (s.wrEnc w d f).onchip = s.onchip := by unfold State.wrEnc; split <;> simp
@[simp] theorem State.wrEnc_m (s : State) (w : Nat) (d : Reg) (f : Nat → Nat) : (s.wrEnc w d f).m = s.m := by unfold State.wrEnc; split <;> simp
@[simp] theorem State.wrEnc_eng (s : State) (w : Nat) (d : Reg) (f : Nat → Nat) : (s.wrEnc w d f).eng = s.eng := by unfold State.wrEnc; split <;> simp
@[simp] theorem State.wrEnc_fl (s : State) (w : Nat) (d : Reg) (f : Nat → Nat) : (s.wrEnc w d f).fl = s.fl := by unfold State.wrEnc; split <;> simp
@[simp] theorem State.wrEnc_ctxs (s : State) (w : Nat) (d : Reg) (f : Nat → Nat) : (s.wrEnc w d f).ctxs = s.ctxs := by unfold State.wrEnc; split <;> simp
@[simp] theorem State.wrEnc_ck (s : State) (w : Nat) (d : Reg) (f : Nat → Nat) : (s.wrEnc w d f).ck = s.ck := by unfold State.wrEnc; split <;> simp
@[simp] theorem State.wrEnc_dev (s : State) (w : Nat) (d : Reg) (f : Nat → Nat) : (s.wrEnc w d f).dev = s.dev := by unfold State.wrEnc; split <;> simp
@[simp] theorem State.wrEnc_quarters (s : State) (w : Nat) (d : Reg) (f : Nat → Nat) : (s.wrEnc w d f).quarters = s.quarters := by unfold State.wrEnc; split <;> simp
@[simp] theorem State.wrEnc_fw (s : State) (w : Nat) (d : Reg) (f : Nat → Nat) : (s.wrEnc w d f).fw = s.fw := by unfold State.wrEnc; split <;> simp
@[simp] theorem State.wrEnc_fab (s : State) (w : Nat) (d : Reg) (f : Nat → Nat) : (s.wrEnc w d f).fab = s.fab := by unfold State.wrEnc; split <;> simp
@[simp] theorem State.wrEnc_reports (s : State) (w : Nat) (d : Reg) (f : Nat → Nat) : (s.wrEnc w d f).reports = s.reports := by unfold State.wrEnc; split <;> simp
@[simp] theorem State.wrEnc_inputs (s : State) (w : Nat) (d : Reg) (f : Nat → Nat) : (s.wrEnc w d f).inputs = s.inputs := by unfold State.wrEnc; split <;> simp
@[simp] theorem State.wrEnc_fresh (s : State) (w : Nat) (d : Reg) (f : Nat → Nat) : (s.wrEnc w d f).fresh = s.fresh := by unfold State.wrEnc; split <;> simp
@[simp] theorem State.wrEnc_seq (s : State) (w : Nat) (d : Reg) (f : Nat → Nat) : (s.wrEnc w d f).seq = s.seq := by unfold State.wrEnc; split <;> simp

/-! `State.copyIn` -/
@[simp] theorem State.copyIn_others (s : State) (d : Reg) (m : W32) (from_ : Nat → Reg) : (s.copyIn d m from_).others = s.others := by unfold State.copyIn; split <;> simp
@[simp] theorem State.copyIn_entry (s : State) (d : Reg) (m : W32) (from_ : Nat → Reg) : (s.copyIn d m from_).entry = s.entry := by unfold State.copyIn; split <;> simp
@[simp] theorem State.copyIn_teams (s : State) (d : Reg) (m : W32) (from_ : Nat → Reg) : (s.copyIn d m from_).teams = s.teams := by unfold State.copyIn; split <;> simp
@[simp] theorem State.copyIn_launches (s : State) (d : Reg) (m : W32) (from_ : Nat → Reg) : (s.copyIn d m from_).launches = s.launches := by unfold State.copyIn; split <;> simp
@[simp] theorem State.copyIn_onchip (s : State) (d : Reg) (m : W32) (from_ : Nat → Reg) : (s.copyIn d m from_).onchip = s.onchip := by unfold State.copyIn; split <;> simp
@[simp] theorem State.copyIn_m (s : State) (d : Reg) (m : W32) (from_ : Nat → Reg) : (s.copyIn d m from_).m = s.m := by unfold State.copyIn; split <;> simp
@[simp] theorem State.copyIn_eng (s : State) (d : Reg) (m : W32) (from_ : Nat → Reg) : (s.copyIn d m from_).eng = s.eng := by unfold State.copyIn; split <;> simp
@[simp] theorem State.copyIn_fl (s : State) (d : Reg) (m : W32) (from_ : Nat → Reg) : (s.copyIn d m from_).fl = s.fl := by unfold State.copyIn; split <;> simp
@[simp] theorem State.copyIn_ctxs (s : State) (d : Reg) (m : W32) (from_ : Nat → Reg) : (s.copyIn d m from_).ctxs = s.ctxs := by unfold State.copyIn; split <;> simp
@[simp] theorem State.copyIn_ck (s : State) (d : Reg) (m : W32) (from_ : Nat → Reg) : (s.copyIn d m from_).ck = s.ck := by unfold State.copyIn; split <;> simp
@[simp] theorem State.copyIn_dev (s : State) (d : Reg) (m : W32) (from_ : Nat → Reg) : (s.copyIn d m from_).dev = s.dev := by unfold State.copyIn; split <;> simp
@[simp] theorem State.copyIn_quarters (s : State) (d : Reg) (m : W32) (from_ : Nat → Reg) : (s.copyIn d m from_).quarters = s.quarters := by unfold State.copyIn; split <;> simp
@[simp] theorem State.copyIn_fw (s : State) (d : Reg) (m : W32) (from_ : Nat → Reg) : (s.copyIn d m from_).fw = s.fw := by unfold State.copyIn; split <;> simp
@[simp] theorem State.copyIn_fab (s : State) (d : Reg) (m : W32) (from_ : Nat → Reg) : (s.copyIn d m from_).fab = s.fab := by unfold State.copyIn; split <;> simp
@[simp] theorem State.copyIn_reports (s : State) (d : Reg) (m : W32) (from_ : Nat → Reg) : (s.copyIn d m from_).reports = s.reports := by unfold State.copyIn; split <;> simp
@[simp] theorem State.copyIn_inputs (s : State) (d : Reg) (m : W32) (from_ : Nat → Reg) : (s.copyIn d m from_).inputs = s.inputs := by unfold State.copyIn; split <;> simp
@[simp] theorem State.copyIn_fresh (s : State) (d : Reg) (m : W32) (from_ : Nat → Reg) : (s.copyIn d m from_).fresh = s.fresh := by unfold State.copyIn; split <;> simp
@[simp] theorem State.copyIn_seq (s : State) (d : Reg) (m : W32) (from_ : Nat → Reg) : (s.copyIn d m from_).seq = s.seq := by unfold State.copyIn; split <;> simp

/-! `State.await` -/
@[simp] theorem State.await_g (s : State) (who pa : Nat) : (s.await who pa).g = s.g := by unfold State.await; split <;> rfl
@[simp] theorem State.await_others (s : State) (who pa : Nat) : (s.await who pa).others = s.others := by unfold State.await; split <;> rfl
@[simp] theorem State.await_entry (s : State) (who pa : Nat) : (s.await who pa).entry = s.entry := by unfold State.await; split <;> rfl
@[simp] theorem State.await_teams (s : State) (who pa : Nat) : (s.await who pa).teams = s.teams := by unfold State.await; split <;> rfl
@[simp] theorem State.await_launches (s : State) (who pa : Nat) : (s.await who pa).launches = s.launches := by unfold State.await; split <;> rfl
@[simp] theorem State.await_onchip (s : State) (who pa : Nat) : (s.await who pa).onchip = s.onchip := by unfold State.await; split <;> rfl
@[simp] theorem State.await_eng (s : State) (who pa : Nat) : (s.await who pa).eng = s.eng := by unfold State.await; split <;> rfl
@[simp] theorem State.await_fl (s : State) (who pa : Nat) : (s.await who pa).fl = s.fl := by unfold State.await; split <;> rfl
@[simp] theorem State.await_ctxs (s : State) (who pa : Nat) : (s.await who pa).ctxs = s.ctxs := by unfold State.await; split <;> rfl
@[simp] theorem State.await_ck (s : State) (who pa : Nat) : (s.await who pa).ck = s.ck := by unfold State.await; split <;> rfl
@[simp] theorem State.await_dev (s : State) (who pa : Nat) : (s.await who pa).dev = s.dev := by unfold State.await; split <;> rfl
@[simp] theorem State.await_quarters (s : State) (who pa : Nat) : (s.await who pa).quarters = s.quarters := by unfold State.await; split <;> rfl
@[simp] theorem State.await_fw (s : State) (who pa : Nat) : (s.await who pa).fw = s.fw := by unfold State.await; split <;> rfl
@[simp] theorem State.await_fab (s : State) (who pa : Nat) : (s.await who pa).fab = s.fab := by unfold State.await; split <;> rfl
@[simp] theorem State.await_reports (s : State) (who pa : Nat) : (s.await who pa).reports = s.reports := by unfold State.await; split <;> rfl
@[simp] theorem State.await_inputs (s : State) (who pa : Nat) : (s.await who pa).inputs = s.inputs := by unfold State.await; split <;> rfl
@[simp] theorem State.await_fresh (s : State) (who pa : Nat) : (s.await who pa).fresh = s.fresh := by unfold State.await; split <;> rfl

/-! `State.awaitAll` -/
@[simp] theorem State.awaitAll_g (s : State) (who : Nat) (pas : List Nat) : (s.awaitAll who pas).g = s.g := foldl_keep (fun t : State => t.g) _ (fun t pa => State.await_g t who pa) pas s
@[simp] theorem State.awaitAll_others (s : State) (who : Nat) (pas : List Nat) : (s.awaitAll who pas).others = s.others := foldl_keep (fun t : State => t.others) _ (fun t pa => State.await_others t who pa) pas s
@[simp] theorem State.awaitAll_entry (s : State) (who : Nat) (pas : List Nat) : (s.awaitAll who pas).entry = s.entry := foldl_keep (fun t : State => t.entry) _ (fun t pa => State.await_entry t who pa) pas s
@[simp] theorem State.awaitAll_teams (s : State) (who : Nat) (pas : List Nat) : (s.awaitAll who pas).teams = s.teams := foldl_keep (fun t : State => t.teams) _ (fun t pa => State.await_teams t who pa) pas s
@[simp] theorem State.awaitAll_launches (s : State) (who : Nat) (pas : List Nat) : (s.awaitAll who pas).launches = s.launches := foldl_keep (fun t : State => t.launches) _ (fun t pa => State.await_launches t who pa) pas s
@[simp] theorem State.awaitAll_onchip (s : State) (who : Nat) (pas : List Nat) : (s.awaitAll who pas).onchip = s.onchip := foldl_keep (fun t : State => t.onchip) _ (fun t pa => State.await_onchip t who pa) pas s
@[simp] theorem State.awaitAll_eng (s : State) (who : Nat) (pas : List Nat) : (s.awaitAll who pas).eng = s.eng := foldl_keep (fun t : State => t.eng) _ (fun t pa => State.await_eng t who pa) pas s
@[simp] theorem State.awaitAll_fl (s : State) (who : Nat) (pas : List Nat) : (s.awaitAll who pas).fl = s.fl := foldl_keep (fun t : State => t.fl) _ (fun t pa => State.await_fl t who pa) pas s
@[simp] theorem State.awaitAll_ctxs (s : State) (who : Nat) (pas : List Nat) : (s.awaitAll who pas).ctxs = s.ctxs := foldl_keep (fun t : State => t.ctxs) _ (fun t pa => State.await_ctxs t who pa) pas s
@[simp] theorem State.awaitAll_ck (s : State) (who : Nat) (pas : List Nat) : (s.awaitAll who pas).ck = s.ck := foldl_keep (fun t : State => t.ck) _ (fun t pa => State.await_ck t who pa) pas s
@[simp] theorem State.awaitAll_dev (s : State) (who : Nat) (pas : List Nat) : (s.awaitAll who pas).dev = s.dev := foldl_keep (fun t : State => t.dev) _ (fun t pa => State.await_dev t who pa) pas s
@[simp] theorem State.awaitAll_quarters (s : State) (who : Nat) (pas : List Nat) : (s.awaitAll who pas).quarters = s.quarters := foldl_keep (fun t : State => t.quarters) _ (fun t pa => State.await_quarters t who pa) pas s
@[simp] theorem State.awaitAll_fw (s : State) (who : Nat) (pas : List Nat) : (s.awaitAll who pas).fw = s.fw := foldl_keep (fun t : State => t.fw) _ (fun t pa => State.await_fw t who pa) pas s
@[simp] theorem State.awaitAll_fab (s : State) (who : Nat) (pas : List Nat) : (s.awaitAll who pas).fab = s.fab := foldl_keep (fun t : State => t.fab) _ (fun t pa => State.await_fab t who pa) pas s
@[simp] theorem State.awaitAll_reports (s : State) (who : Nat) (pas : List Nat) : (s.awaitAll who pas).reports = s.reports := foldl_keep (fun t : State => t.reports) _ (fun t pa => State.await_reports t who pa) pas s
@[simp] theorem State.awaitAll_inputs (s : State) (who : Nat) (pas : List Nat) : (s.awaitAll who pas).inputs = s.inputs := foldl_keep (fun t : State => t.inputs) _ (fun t pa => State.await_inputs t who pa) pas s
@[simp] theorem State.awaitAll_fresh (s : State) (who : Nat) (pas : List Nat) : (s.awaitAll who pas).fresh = s.fresh := foldl_keep (fun t : State => t.fresh) _ (fun t pa => State.await_fresh t who pa) pas s

/-! `State.forgetWaits` -/
@[simp] theorem State.forgetWaits_g (s : State) (p : Nat → Bool) : (s.forgetWaits p).g = s.g := rfl
@[simp] theorem State.forgetWaits_others (s : State) (p : Nat → Bool) : (s.forgetWaits p).others = s.others := rfl
@[simp] theorem State.forgetWaits_entry (s : State) (p : Nat → Bool) : (s.forgetWaits p).entry = s.entry := rfl
@[simp] theorem State.forgetWaits_teams (s : State) (p : Nat → Bool) : (s.forgetWaits p).teams = s.teams := rfl
@[simp] theorem State.forgetWaits_launches (s : State) (p : Nat → Bool) : (s.forgetWaits p).launches = s.launches := rfl
@[simp] theorem State.forgetWaits_onchip (s : State) (p : Nat → Bool) : (s.forgetWaits p).onchip = s.onchip := rfl
@[simp] theorem State.forgetWaits_eng (s : State) (p : Nat → Bool) : (s.forgetWaits p).eng = s.eng := rfl
@[simp] theorem State.forgetWaits_fl (s : State) (p : Nat → Bool) : (s.forgetWaits p).fl = s.fl := rfl
@[simp] theorem State.forgetWaits_ctxs (s : State) (p : Nat → Bool) : (s.forgetWaits p).ctxs = s.ctxs := rfl
@[simp] theorem State.forgetWaits_ck (s : State) (p : Nat → Bool) : (s.forgetWaits p).ck = s.ck := rfl
@[simp] theorem State.forgetWaits_dev (s : State) (p : Nat → Bool) : (s.forgetWaits p).dev = s.dev := rfl
@[simp] theorem State.forgetWaits_quarters (s : State) (p : Nat → Bool) : (s.forgetWaits p).quarters = s.quarters := rfl
@[simp] theorem State.forgetWaits_fw (s : State) (p : Nat → Bool) : (s.forgetWaits p).fw = s.fw := rfl
@[simp] theorem State.forgetWaits_fab (s : State) (p : Nat → Bool) : (s.forgetWaits p).fab = s.fab := rfl
@[simp] theorem State.forgetWaits_reports (s : State) (p : Nat → Bool) : (s.forgetWaits p).reports = s.reports := rfl
@[simp] theorem State.forgetWaits_inputs (s : State) (p : Nat → Bool) : (s.forgetWaits p).inputs = s.inputs := rfl
@[simp] theorem State.forgetWaits_fresh (s : State) (p : Nat → Bool) : (s.forgetWaits p).fresh = s.fresh := rfl
@[simp] theorem State.forgetWaits_seq (s : State) (p : Nat → Bool) : (s.forgetWaits p).seq = s.seq := rfl

/-! `State.forgetName` -/
@[simp] theorem State.forgetName_g (s : State) (who : Nat) : (s.forgetName who).g = s.g := rfl
@[simp] theorem State.forgetName_others (s : State) (who : Nat) : (s.forgetName who).others = s.others := rfl
@[simp] theorem State.forgetName_entry (s : State) (who : Nat) : (s.forgetName who).entry = s.entry := rfl
@[simp] theorem State.forgetName_teams (s : State) (who : Nat) : (s.forgetName who).teams = s.teams := rfl
@[simp] theorem State.forgetName_launches (s : State) (who : Nat) : (s.forgetName who).launches = s.launches := rfl
@[simp] theorem State.forgetName_onchip (s : State) (who : Nat) : (s.forgetName who).onchip = s.onchip := rfl
@[simp] theorem State.forgetName_eng (s : State) (who : Nat) : (s.forgetName who).eng = s.eng := rfl
@[simp] theorem State.forgetName_fl (s : State) (who : Nat) : (s.forgetName who).fl = s.fl := rfl
@[simp] theorem State.forgetName_ctxs (s : State) (who : Nat) : (s.forgetName who).ctxs = s.ctxs := rfl
@[simp] theorem State.forgetName_ck (s : State) (who : Nat) : (s.forgetName who).ck = s.ck := rfl
@[simp] theorem State.forgetName_dev (s : State) (who : Nat) : (s.forgetName who).dev = s.dev := rfl
@[simp] theorem State.forgetName_quarters (s : State) (who : Nat) : (s.forgetName who).quarters = s.quarters := rfl
@[simp] theorem State.forgetName_fw (s : State) (who : Nat) : (s.forgetName who).fw = s.fw := rfl
@[simp] theorem State.forgetName_fab (s : State) (who : Nat) : (s.forgetName who).fab = s.fab := rfl
@[simp] theorem State.forgetName_reports (s : State) (who : Nat) : (s.forgetName who).reports = s.reports := rfl
@[simp] theorem State.forgetName_inputs (s : State) (who : Nat) : (s.forgetName who).inputs = s.inputs := rfl
@[simp] theorem State.forgetName_fresh (s : State) (who : Nat) : (s.forgetName who).fresh = s.fresh := rfl
@[simp] theorem State.forgetName_seq (s : State) (who : Nat) : (s.forgetName who).seq = s.seq := rfl

/-! `State.forgetAt` -/
@[simp] theorem State.forgetAt_g (s : State) (who pa : Nat) : (s.forgetAt who pa).g = s.g := rfl
@[simp] theorem State.forgetAt_others (s : State) (who pa : Nat) : (s.forgetAt who pa).others = s.others := rfl
@[simp] theorem State.forgetAt_entry (s : State) (who pa : Nat) : (s.forgetAt who pa).entry = s.entry := rfl
@[simp] theorem State.forgetAt_teams (s : State) (who pa : Nat) : (s.forgetAt who pa).teams = s.teams := rfl
@[simp] theorem State.forgetAt_launches (s : State) (who pa : Nat) : (s.forgetAt who pa).launches = s.launches := rfl
@[simp] theorem State.forgetAt_onchip (s : State) (who pa : Nat) : (s.forgetAt who pa).onchip = s.onchip := rfl
@[simp] theorem State.forgetAt_eng (s : State) (who pa : Nat) : (s.forgetAt who pa).eng = s.eng := rfl
@[simp] theorem State.forgetAt_fl (s : State) (who pa : Nat) : (s.forgetAt who pa).fl = s.fl := rfl
@[simp] theorem State.forgetAt_ctxs (s : State) (who pa : Nat) : (s.forgetAt who pa).ctxs = s.ctxs := rfl
@[simp] theorem State.forgetAt_ck (s : State) (who pa : Nat) : (s.forgetAt who pa).ck = s.ck := rfl
@[simp] theorem State.forgetAt_dev (s : State) (who pa : Nat) : (s.forgetAt who pa).dev = s.dev := rfl
@[simp] theorem State.forgetAt_quarters (s : State) (who pa : Nat) : (s.forgetAt who pa).quarters = s.quarters := rfl
@[simp] theorem State.forgetAt_fw (s : State) (who pa : Nat) : (s.forgetAt who pa).fw = s.fw := rfl
@[simp] theorem State.forgetAt_fab (s : State) (who pa : Nat) : (s.forgetAt who pa).fab = s.fab := rfl
@[simp] theorem State.forgetAt_reports (s : State) (who pa : Nat) : (s.forgetAt who pa).reports = s.reports := rfl
@[simp] theorem State.forgetAt_inputs (s : State) (who pa : Nat) : (s.forgetAt who pa).inputs = s.inputs := rfl
@[simp] theorem State.forgetAt_fresh (s : State) (who pa : Nat) : (s.forgetAt who pa).fresh = s.fresh := rfl
@[simp] theorem State.forgetAt_seq (s : State) (who pa : Nat) : (s.forgetAt who pa).seq = s.seq := rfl

/-! `State.record` -/
@[simp] theorem State.record_g (s : State) (w : Writer) (pa word : Nat) : (s.record w pa word).g = s.g := rfl
@[simp] theorem State.record_others (s : State) (w : Writer) (pa word : Nat) : (s.record w pa word).others = s.others := rfl
@[simp] theorem State.record_entry (s : State) (w : Writer) (pa word : Nat) : (s.record w pa word).entry = s.entry := rfl
@[simp] theorem State.record_teams (s : State) (w : Writer) (pa word : Nat) : (s.record w pa word).teams = s.teams := rfl
@[simp] theorem State.record_launches (s : State) (w : Writer) (pa word : Nat) : (s.record w pa word).launches = s.launches := rfl
@[simp] theorem State.record_onchip (s : State) (w : Writer) (pa word : Nat) : (s.record w pa word).onchip = s.onchip := rfl
@[simp] theorem State.record_eng (s : State) (w : Writer) (pa word : Nat) : (s.record w pa word).eng = s.eng := rfl
@[simp] theorem State.record_fl (s : State) (w : Writer) (pa word : Nat) : (s.record w pa word).fl = s.fl := rfl
@[simp] theorem State.record_ctxs (s : State) (w : Writer) (pa word : Nat) : (s.record w pa word).ctxs = s.ctxs := rfl
@[simp] theorem State.record_ck (s : State) (w : Writer) (pa word : Nat) : (s.record w pa word).ck = s.ck := rfl
@[simp] theorem State.record_dev (s : State) (w : Writer) (pa word : Nat) : (s.record w pa word).dev = s.dev := rfl
@[simp] theorem State.record_quarters (s : State) (w : Writer) (pa word : Nat) : (s.record w pa word).quarters = s.quarters := rfl
@[simp] theorem State.record_fw (s : State) (w : Writer) (pa word : Nat) : (s.record w pa word).fw = s.fw := rfl
@[simp] theorem State.record_fab (s : State) (w : Writer) (pa word : Nat) : (s.record w pa word).fab = s.fab := rfl
@[simp] theorem State.record_reports (s : State) (w : Writer) (pa word : Nat) : (s.record w pa word).reports = s.reports := rfl
@[simp] theorem State.record_inputs (s : State) (w : Writer) (pa word : Nat) : (s.record w pa word).inputs = s.inputs := rfl
@[simp] theorem State.record_fresh (s : State) (w : Writer) (pa word : Nat) : (s.record w pa word).fresh = s.fresh := rfl
@[simp] theorem State.record_seq (s : State) (w : Writer) (pa word : Nat) : (s.record w pa word).seq = s.seq := rfl

/-- Waiting at a home changes nothing of the memory system but the list of what waits (R164). -/
theorem State.await_memory (s : State) (who pa : Nat) : (s.await who pa).m = { s.m with waiting := (s.await who pa).m.waiting } := by
  unfold State.await; split <;> rfl

end Sys2Proof.Machine
end

