-- ==== Sys2Proof/Laws/Store.lean ====
section
/-!
SUPPORT. Sys2Proof/Laws/Store.lean: reading after writing a `Store`, and the canonical form under every operation of Machine/Store.lean.
-/

namespace Sys2Proof.Machine

open Sys2Proof

variable {w : Nat}

/-! ## Reading after writing; these hold of every list, canonical or not -/

@[simp] theorem Store.get_nil (n : Nat) : Store.get ([] : Store w) n = 0#w := rfl

theorem Store.get_cons (k : Nat) (v : BitVec w) (t : Store w) (n : Nat) :
    Store.get ((k, v) :: t) n = if n = k then v else Store.get t n := rfl

theorem Store.get_enter (m : Store w) (n : Nat) (v : BitVec w) (k : Nat) :
    Store.get (Store.enter m n v) k = if k = n then v else Store.get m k := by
  induction m with
  | nil => simp [Store.enter, Store.get_cons]
  | cons p t ih =>
    obtain ⟨j, x⟩ := p
    simp only [Store.enter]
    split
    · simp [Store.get_cons]
    · split
      · rename_i h; subst h; simp only [Store.get_cons]; split <;> simp
      · simp only [Store.get_cons, ih]; split <;> split <;> simp_all

/-- A filter on places keeps what it admits and zeroes the rest. -/
theorem Store.get_filter (q : Nat → Bool) (m : Store w) (n : Nat) :
    Store.get (m.filter fun p => q p.1) n = if q n then Store.get m n else 0#w := by
  induction m with
  | nil => simp
  | cons p t ih =>
    obtain ⟨j, x⟩ := p
    by_cases h : q j = true
    · rw [List.filter_cons_of_pos (by simpa using h)]
      simp only [Store.get_cons, ih]
      split
      · rename_i e; subst e; simp [h]
      · rfl
    · rw [List.filter_cons_of_neg (by simpa using h), ih]
      simp only [Store.get_cons]
      split
      · split
        · rename_i e; subst e; contradiction
        · rfl
      · rfl

/-- A read after a write. -/
theorem Store.get_put (m : Store w) (n : Nat) (v : BitVec w) (k : Nat) :
    Store.get (Store.put m n v) k = if k = n then v else Store.get m k := by
  unfold Store.put
  split
  · rename_i h
    rw [Store.get_filter (fun j => decide (j ≠ n)), h]
    simp
  · exact Store.get_enter m n v k

@[simp] theorem Store.get_put_same (m : Store w) (n : Nat) (v : BitVec w) : Store.get (Store.put m n v) n = v := by simp [Store.get_put]

theorem Store.get_put_other {m : Store w} {n k : Nat} {v : BitVec w} (h : k ≠ n) : Store.get (Store.put m n v) k = Store.get m k := by
  simp [Store.get_put, h]

/-- A read after a range has been zeroed. -/
theorem Store.get_clear (m : Store w) (lo n k : Nat) :
    Store.get (Store.clear m lo n) k = if lo ≤ k ∧ k < lo + n then 0#w else Store.get m k := by
  unfold Store.clear
  rw [Store.get_filter (fun j => decide (j < lo) || decide (lo + n ≤ j))]
  by_cases h : lo ≤ k ∧ k < lo + n
  · have : ¬ (k < lo ∨ lo + n ≤ k) := by omega
    simp [h, this]
  · have : k < lo ∨ lo + n ≤ k := by omega
    simp [h, this]

/-! ## The canonical form -/

theorem Store.wfFrom_mono {a b : Nat} {m : Store w} (h : a ≤ b) (hm : Store.wfFrom b m = true) : Store.wfFrom a m = true := by
  cases m with
  | nil => rfl
  | cons p t =>
    simp only [Store.wfFrom, Bool.and_eq_true, decide_eq_true_eq] at hm ⊢
    exact ⟨⟨by omega, hm.1.2⟩, hm.2⟩

/-- A canonical map from `a` on reads zero below `a`. -/
theorem Store.get_below {a n : Nat} {m : Store w} (h : n < a) (hm : Store.wfFrom a m = true) : Store.get m n = 0#w := by
  induction m generalizing a with
  | nil => rfl
  | cons p t ih =>
    simp only [Store.wfFrom, Bool.and_eq_true, decide_eq_true_eq] at hm
    rw [Store.get_cons, if_neg (by omega)]
    exact ih (by omega) hm.2

theorem Store.wfFrom_filter (q : Nat × BitVec w → Bool) {a : Nat} {m : Store w} (hm : Store.wfFrom a m = true) :
    Store.wfFrom a (m.filter q) = true := by
  induction m generalizing a with
  | nil => rfl
  | cons p t ih =>
    simp only [Store.wfFrom, Bool.and_eq_true, decide_eq_true_eq] at hm
    by_cases h : q p = true
    · rw [List.filter_cons_of_pos h]
      simp only [Store.wfFrom, Bool.and_eq_true, decide_eq_true_eq]
      exact ⟨hm.1, ih hm.2⟩
    · rw [List.filter_cons_of_neg h]
      exact Store.wfFrom_mono (by omega) (ih hm.2)

theorem Store.wfFrom_enter {a n : Nat} {v : BitVec w} {m : Store w} (hm : Store.wfFrom a m = true) (hn : a ≤ n) (hv : v ≠ 0#w) :
    Store.wfFrom a (Store.enter m n v) = true := by
  induction m generalizing a with
  | nil => simp [Store.enter, Store.wfFrom, hn, hv]
  | cons p t ih =>
    simp only [Store.wfFrom, Bool.and_eq_true, decide_eq_true_eq] at hm
    simp only [Store.enter]
    split
    · simp only [Store.wfFrom, Bool.and_eq_true, decide_eq_true_eq]
      exact ⟨⟨hn, hv⟩, ⟨by omega, hm.1.2⟩, hm.2⟩
    · split
      · rename_i h; subst h
        simp only [Store.wfFrom, Bool.and_eq_true, decide_eq_true_eq]
        exact ⟨⟨hn, hv⟩, hm.2⟩
      · simp only [Store.wfFrom, Bool.and_eq_true, decide_eq_true_eq]
        exact ⟨hm.1, ih hm.2 (by omega)⟩

@[simp] theorem Store.wf_nil : Store.wf ([] : Store w) = true := rfl

/-- A filter keeps the canonical form. -/
theorem Store.wf_filter (q : Nat × BitVec w → Bool) {m : Store w} (hm : Store.wf m = true) : Store.wf (m.filter q) = true :=
  Store.wfFrom_filter q hm

/-- A write keeps the canonical form. -/
theorem Store.wf_put {m : Store w} {n : Nat} {v : BitVec w} (hm : Store.wf m = true) : Store.wf (Store.put m n v) = true := by
  unfold Store.put
  split
  · exact Store.wf_filter _ hm
  · rename_i h; exact Store.wfFrom_enter hm (Nat.zero_le n) h

/-- Zeroing a range keeps the canonical form. -/
theorem Store.wf_clear {m : Store w} {lo n : Nat} (hm : Store.wf m = true) : Store.wf (Store.clear m lo n) = true := Store.wf_filter _ hm

/-- A fold of writes keeps the canonical form. -/
theorem Store.wf_foldl_put {α : Type} (k : α → Nat) (v : α → BitVec w) (l : List α) {m : Store w} (hm : Store.wf m = true) :
    Store.wf (l.foldl (fun m x => Store.put m (k x) (v x)) m) = true := by
  induction l generalizing m with
  | nil => exact hm
  | cons x t ih => exact ih (Store.wf_put hm)

theorem Store.wf_merge {m : Store w} {lo : Nat} {x : Store w} (hm : Store.wf m = true) : Store.wf (Store.merge m lo x) = true :=
  Store.wf_foldl_put (fun p : Nat × BitVec w => lo + p.1) (fun p => p.2) x hm

theorem Store.wf_replace {m : Store w} {lo n : Nat} {x : Store w} (hm : Store.wf m = true) : Store.wf (Store.replace m lo n x) = true :=
  Store.wf_merge (Store.wf_clear hm)

theorem Store.wf_putLE {m : Store 8} {a n v : Nat} (hm : Store.wf m = true) : Store.wf (Store.putLE m a n v) = true := by
  induction n generalizing m a v with
  | zero => exact hm
  | succ n ih => exact ih (Store.wf_put hm)

theorem Store.wf_putBytes {m : Store 8} {a : Nat} {bs : List Byte} (hm : Store.wf m = true) : Store.wf (Store.putBytes m a bs) = true := by
  induction bs generalizing m a with
  | nil => exact hm
  | cons b t ih => exact ih (Store.wf_put hm)

/-- The places of a range, moved to start at 0, are in canonical form. -/
theorem Store.wf_slice {m : Store w} {lo n : Nat} (hm : Store.wf m = true) : Store.wf (Store.slice m lo n) = true := by
  have step : ∀ {a : Nat} (m : Store w), lo ≤ a → Store.wfFrom a m = true → (∀ p ∈ m, lo ≤ p.1) →
      Store.wfFrom (a - lo) (m.map fun p => (p.1 - lo, p.2)) = true := by
    intro a m ha hm hp
    induction m generalizing a with
    | nil => rfl
    | cons p t ih =>
      simp only [Store.wfFrom, Bool.and_eq_true, decide_eq_true_eq] at hm
      have h0 := hp p (by simp)
      have h1 := ih (a := p.1 + 1) (by omega) hm.2 (fun q hq => hp q (by simp [hq]))
      simp only [List.map_cons, Store.wfFrom, Bool.and_eq_true, decide_eq_true_eq]
      refine ⟨⟨by omega, hm.1.2⟩, ?_⟩
      have e : p.1 + 1 - lo = p.1 - lo + 1 := by omega
      rw [e] at h1; exact h1
  unfold Store.slice Store.wf
  have hf := Store.wfFrom_filter (fun p => decide (lo ≤ p.1) && decide (p.1 < lo + n)) hm
  have hlo : Store.wfFrom lo (m.filter fun p => decide (lo ≤ p.1) && decide (p.1 < lo + n)) = true := by
    have hp : ∀ p ∈ m.filter (fun p => decide (lo ≤ p.1) && decide (p.1 < lo + n)), lo ≤ p.1 := by
      intro p hp; simp at hp; exact hp.2.1
    cases hx : m.filter (fun p => decide (lo ≤ p.1) && decide (p.1 < lo + n)) with
    | nil => rfl
    | cons p t =>
      rw [hx] at hf hp
      simp only [Store.wfFrom, Bool.and_eq_true, decide_eq_true_eq] at hf ⊢
      exact ⟨⟨hp p (by simp), hf.1.2⟩, hf.2⟩
  have := step _ (Nat.le_refl lo) hlo (by intro p hp; simp at hp; exact hp.2.1)
  simpa using this

/-! ## Multi-byte values -/

/-- A byte after a multi-byte write: byte `k - a` of the value inside, the old byte outside. -/
theorem Store.get_putLE (m : Store 8) (a n v k : Nat) :
    Store.get (Store.putLE m a n v) k = if a ≤ k ∧ k < a + n then byteOf v (k - a) else Store.get m k := by
  induction n generalizing m a v with
  | zero => rw [Store.putLE, if_neg (by omega)]
  | succ n ih =>
    rw [Store.putLE, ih, Store.get_put]
    by_cases h : k = a
    · subst h
      rw [if_neg (by omega), if_pos rfl, if_pos (by omega), Nat.sub_self, byteOf, Nat.pow_zero, Nat.div_one]
    · by_cases h1 : a + 1 ≤ k ∧ k < a + 1 + n
      · have h2 : a ≤ k ∧ k < a + (n + 1) := by omega
        rw [if_pos h1, if_pos h2]
        have e : k - a = (k - (a + 1)) + 1 := by omega
        rw [e, byteOf, byteOf, Nat.pow_succ, Nat.mul_comm, Nat.div_div_eq_div_mul]
      · have h2 : ¬ (a ≤ k ∧ k < a + (n + 1)) := by omega
        rw [if_neg h1, if_neg h2, if_neg h]

end Sys2Proof.Machine
end

