-- ==== Sys2Proof/Laws/Group.lean ====
section
/-!
SUPPORT. Sys2Proof/Laws/Group.lean: what the named operations on a group do: writes of places and predicates, split entries, and the frames of the
scoreboard operations.
-/

namespace Sys2Proof.Machine

open Sys2Proof

/-! ## Lanes -/

theorem lanes_eq : lanes = List.range 32 := rfl

theorem mem_lanesOf {m : W32} {l : Nat} : l ∈ lanesOf m ↔ l < 32 ∧ m.getLsbD l = true := by
  simp [lanesOf, lanes]

/-- A fold of writes of one place's lanes: the value in the lanes of the list, the old value elsewhere. -/
theorem get_foldl_lanes {w : Nat} (p : Nat) (f : Nat → BitVec w) (ls : List Nat) (st : Store w) (k : Nat) (hk : ∀ l ∈ ls, l < 32) :
    Store.get (ls.foldl (fun st l => Store.put st (32 * p + l) (f l)) st) k =
      if k / 32 = p ∧ k % 32 ∈ ls then f (k % 32) else Store.get st k := by
  induction ls generalizing st with
  | nil => simp
  | cons a t ih =>
    have ha : a < 32 := hk a (by simp)
    rw [List.foldl_cons, ih _ (fun l hl => hk l (by simp [hl])), Store.get_put]
    by_cases h : k = 32 * p + a
    · have h1 : k / 32 = p := by omega
      have h2 : k % 32 = a := by omega
      simp [h, show (32 * p + a) / 32 = p by omega, show (32 * p + a) % 32 = a by omega]
    · by_cases hp : k / 32 = p
      · have : k % 32 ≠ a := by omega
        simp [h, hp, this]
      · simp [h, hp]

/-- A place after a write of a place. -/
theorem Group.getPlace_setPlace (g : Group) (p : Nat) (m : W32) (f : Nat → W32) (q l : Nat) (hl : l < 32) :
    (g.setPlace p m f).getPlace q l = if q = p then afterWrite g p m f l else g.getPlace q l := by
  unfold Group.setPlace
  by_cases hp : p < 1024
  · simp only [hp, if_true]
    unfold afterWrite Group.getPlace
    by_cases hq : q < 1024
    · simp only [hq, if_true, hp]
      rw [get_foldl_lanes p f _ _ _ (fun x hx => (mem_lanesOf.mp hx).1)]
      have h1 : (32 * q + l) / 32 = q := by omega
      have h2 : (32 * q + l) % 32 = l := by omega
      rw [h1, h2]
      by_cases hqp : q = p
      · subst hqp
        simp [mem_lanesOf, hl]
      · simp [hqp]
    · have : q ≠ p := by omega
      simp [hq, this]
  · simp only [hp, if_false]
    unfold afterWrite
    simp only [hp, if_false]
    cases hm : lowest m with
    | none => by_cases hqp : q = p <;> simp [hqp]
    | some k =>
      unfold Group.getPlace
      by_cases hq : q < 1024
      · have : q ≠ p := by omega
        simp [hq, this]
      · simp only [hq, if_false, Store.get_put]
        by_cases hqp : q = p
        · simp [hqp]
        · have : q - 1024 ≠ p - 1024 := by omega
          simp [hqp, this]

/-- What a write of a place leaves: everything of the group but its registers. -/
theorem Group.setPlace_frame (g : Group) (p : Nat) (m : W32) (f : Nat → W32) :
    { g.setPlace p m f with vregs := [], uregs := [] } = { g with vregs := [], uregs := [] } := by
  unfold Group.setPlace
  split
  · rfl
  · split <;> rfl

/-- Two groups that agree in everything but the registers and the scoreboard. -/
def Group.alike (a b : Group) : Prop :=
  { a with vregs := [], uregs := [], wins := [], owed := [] } = { b with vregs := [], uregs := [], wins := [], owed := [] }

theorem Group.alike.refl (a : Group) : Group.alike a a := rfl
theorem Group.alike.symm {a b : Group} (h : Group.alike a b) : Group.alike b a := Eq.symm h
theorem Group.alike.trans {a b c : Group} (h : Group.alike a b) (k : Group.alike b c) : Group.alike a c := Eq.trans h k

theorem Group.setPlace_alike (g : Group) (p : Nat) (m : W32) (f : Nat → W32) : Group.alike (g.setPlace p m f) g := by
  unfold Group.setPlace Group.alike
  split
  · rfl
  · split <;> rfl

theorem Group.assign_alike (g : Group) (id p : Nat) (m : W32) (f : Nat → W32) : Group.alike (g.assign id p m f) g :=
  Group.alike.trans (Group.setPlace_alike ..) rfl

theorem Group.assignLong_alike (g : Group) (id p : Nat) (m : W32) (f : Nat → W32) : Group.alike (g.assignLong id p m f) g :=
  Group.alike.trans (Group.setPlace_alike ..) rfl

@[simp] theorem Group.getPlace_supersede (g : Group) (id p : Nat) (m : W32) (q l : Nat) :
    (g.supersede id p m).getPlace q l = g.getPlace q l := rfl

/-- A place after an ordinary instruction's write. -/
theorem Group.getPlace_assign (g : Group) (id p : Nat) (m : W32) (f : Nat → W32) (q l : Nat) (hl : l < 32) :
    (g.assign id p m f).getPlace q l = if q = p then afterWrite g p m f l else g.getPlace q l := by
  unfold Group.assign
  rw [Group.getPlace_setPlace _ _ _ _ _ _ hl]
  rfl

/-- A place after a long-latency instruction's write at once. -/
theorem Group.getPlace_assignLong (g : Group) (id p : Nat) (m : W32) (f : Nat → W32) (q l : Nat) (hl : l < 32) :
    (g.assignLong id p m f).getPlace q l = if q = p then afterWrite g p m f l else g.getPlace q l := by
  unfold Group.assignLong
  rw [Group.getPlace_setPlace _ _ _ _ _ _ hl]
  rfl

/-- Groups alike name the same places. -/
theorem Group.alike.regPlace {a b : Group} (h : Group.alike a b) (r : Reg) : a.regPlace r = b.regPlace r := by
  unfold Group.alike at h
  have hw := congrArg (fun g => g.win) h
  have hn := congrArg (fun g => g.nregs) h
  dsimp only at hw hn
  unfold Group.regPlace Group.phys
  rw [hw, hn]

/-! ## Predicates -/

theorem getLsbD_maskOf (f : Nat → Bool) (l : Nat) (hl : l < 32) : (maskOf f).getLsbD l = f l := by
  have key : ∀ (ls : List Nat) (m : W32), (∀ x ∈ ls, x < 32) → (∀ x ∈ ls, m.getLsbD x = false) → ls.Nodup →
      (ls.foldl (fun m l => if f l then m ||| laneBit l else m) m).getLsbD l = (m.getLsbD l || (decide (l ∈ ls) && f l)) := by
    intro ls
    induction ls with
    | nil => simp
    | cons a t ih =>
      intro m hb hz hd
      have ha : a < 32 := hb a (by simp)
      have hbit : ∀ x, x < 32 → (laneBit a).getLsbD x = decide (x = a) := by
        intro x hx
        simp only [laneBit, BitVec.getLsbD_shiftLeft]
        by_cases h : x = a
        · simp [h, ha]
        · by_cases h2 : x < a
          · simp [h, h2]
          · have : x - a ≠ 0 := by omega
            simp [h, BitVec.getLsbD_one, this]
      rw [List.foldl_cons]
      have hd' := List.nodup_cons.mp hd
      rw [ih]
      · by_cases hf : f a = true
        · simp only [hf, if_true, BitVec.getLsbD_or, hbit l hl]
          by_cases h : l = a
          · subst h; simp [hf]
          · simp [h]
        · simp only [hf, Bool.false_eq_true, if_false]
          by_cases h : l = a
          · subst h; simp [hf]
          · simp [h]
      · exact fun x hx => hb x (by simp [hx])
      · intro x hx
        have hxa : x ≠ a := by intro e; subst e; exact hd'.1 hx
        split
        · rw [BitVec.getLsbD_or, hz x (by simp [hx]), hbit x (hb x (by simp [hx]))]; simp [hxa]
        · exact hz x (by simp [hx])
      · exact hd'.2
  unfold maskOf
  rw [key lanes 0#32 (by simp [lanes]) (by simp) (by simp [lanes, List.nodup_range])]
  simp [lanes, hl]

/-- A predicate after a write of a predicate. -/
theorem Group.pred_setPred (g : Group) (k j : BitVec 3) (m v : W32) :
    (g.setPred k m v).pred j = if j = k ∧ k ≠ 0#3 then (g.pred k &&& ~~~m) ||| (v &&& m) else g.pred j := by
  unfold Group.setPred
  by_cases hk : k = 0#3
  · simp [hk]
  · simp only [hk, if_false]
    by_cases hj : j = k
    · subst hj
      simp [Group.pred, hk]
    · unfold Group.pred
      have : j.toNat ≠ k.toNat := by intro e; exact hj (BitVec.eq_of_toNat_eq e)
      simp [hj, Store.get_put, this]

/-! ## Split entries -/

/-- Entry `e` is one of the four of the table. -/
theorem Group.split_of_set (g : Group) (e k : Nat) (o : Option Split) :
    (g.setSplit e o).split k = if k = e ∧ e < g.splits.length then o else g.split k := by
  unfold Group.setSplit Group.split
  by_cases h : k = e
  · subst h
    by_cases hl : k < g.splits.length
    · simp [hl]
    · simp [hl]
  · simp [h, List.getElem?_set_ne (Ne.symm h)]

theorem Group.split_lt {g : Group} {e : Nat} {x : Split} (h : g.split e = some x) : e < g.splits.length := by
  unfold Group.split at h
  by_cases hl : e < g.splits.length
  · exact hl
  · simp [List.getElem?_eq_none (by omega : g.splits.length ≤ e)] at h

theorem Group.split_onSplit (g : Group) (e k : Nat) (f : Split → Split) :
    (g.onSplit e f).split k = if k = e then (g.split e).map f else g.split k := by
  unfold Group.onSplit
  cases h : g.split e with
  | none =>
    by_cases hk : k = e
    · subst hk; simp [h]
    · simp [hk]
  | some x =>
    simp only [Option.map_some]
    rw [Group.split_of_set]
    simp [Group.split_lt h]

/-- A hold that ends changes no PC, mask or mode state. -/
theorem Group.settle_split (old new : Group) (k : Nat) :
    ((Group.settle old new).split k).map (fun x => (x.pc, x.mask, x.ms)) = (new.split k).map (fun x => (x.pc, x.mask, x.ms)) := by
  unfold Group.settle
  generalize List.range 4 = ls
  suffices h : ∀ (g : Group), ((ls.foldl (fun g e =>
      if old.held e && !new.held e then g.onSplit e fun x => if x.rp = some x.pc then x.release else x else g) g).split k).map
        (fun x => (x.pc, x.mask, x.ms)) = (g.split k).map (fun x => (x.pc, x.mask, x.ms)) from h new
  induction ls with
  | nil => intro g; rfl
  | cons e t ih =>
    intro g
    rw [List.foldl_cons, ih]
    split
    · rw [Group.split_onSplit]
      by_cases hk : k = e
      · subst hk
        simp only [if_true, Option.map_map]
        congr 1
        funext x
        simp only [Function.comp]
        split <;> rfl
      · simp [hk]
    · rfl

/-- Two groups that agree in everything but their split table. -/
def Group.sameBut (a b : Group) : Prop := { a with splits := [] } = { b with splits := [] }

theorem Group.onSplit_sameBut (g : Group) (e : Nat) (f : Split → Split) : Group.sameBut (g.onSplit e f) g := by
  unfold Group.onSplit Group.sameBut Group.setSplit
  split <;> rfl

theorem Group.settle_sameBut (old new : Group) : Group.sameBut (Group.settle old new) new := by
  unfold Group.settle
  generalize List.range 4 = ls
  suffices h : ∀ (g : Group), Group.sameBut (ls.foldl (fun g e =>
      if old.held e && !new.held e then g.onSplit e fun x => if x.rp = some x.pc then x.release else x else g) g) g from h new
  induction ls with
  | nil => intro g; rfl
  | cons e t ih =>
    intro g
    rw [List.foldl_cons]
    refine (ih _).trans ?_
    split
    · exact Group.onSplit_sameBut ..
    · rfl

end Sys2Proof.Machine
end

