-- ==== Sys2Proof/Laws/Issue.lean ====
section
/-!
SUPPORT. Sys2Proof/Laws/Issue.lean: what issuing an instruction does and leaves, and what a register write, a predicate write and the step to the next
word do to the state.
-/

namespace Sys2Proof.Machine

open Sys2Proof

/-! ## Frames compose -/

theorem KeepsRest.refl (s : State) : KeepsRest s s :=
  ⟨rfl, rfl, rfl, rfl, rfl, rfl, rfl, rfl, rfl, rfl, rfl, rfl, rfl, rfl, rfl, rfl⟩

theorem KeepsRest.trans {a b c : State} (h : KeepsRest a b) (k : KeepsRest b c) : KeepsRest a c :=
  ⟨k.others.trans h.others, k.entry.trans h.entry, k.teams.trans h.teams, k.launches.trans h.launches, k.onchip.trans h.onchip,
   k.memory.trans h.memory, k.engines.trans h.engines, k.flash.trans h.flash, k.contexts.trans h.contexts, k.device.trans h.device,
   k.quarters.trans h.quarters, k.firmware.trans h.firmware, k.fabric.trans h.fabric, k.reports.trans h.reports,
   k.checkpoints.trans h.checkpoints, k.inputs.trans h.inputs⟩

/-- A change of the group in focus alone keeps the rest. -/
theorem KeepsRest.of_g {s t : State} (h : t = { s with g := t.g }) : KeepsRest s t := by
  rw [h]
  exact ⟨rfl, rfl, rfl, rfl, rfl, rfl, rfl, rfl, rfl, rfl, rfl, rfl, rfl, rfl, rfl, rfl⟩

/-! ## The parts of `start` -/

/-- The event counters alone change. -/
theorem State.event_dev (s : State) (core : Nat) (c : BitVec 12) (code : Nat) :
    (s.event core c code).dev.uncounted = s.dev.uncounted := by
  unfold State.event
  split
  · rfl
  · refine foldl_keep (fun s : State => s.dev.uncounted) _ ?_ _ _
    intros; dsimp only; split <;> rfl

theorem State.event_eq (s : State) (core : Nat) (c : BitVec 12) (code : Nat) :
    s.event core c code = { s with dev := (s.event core c code).dev } := by
  unfold State.event
  split
  · rfl
  · refine foldl_inv (fun t : State => t = { s with dev := t.dev }) _ ?_ _ _ rfl
    intro t x h
    dsimp only
    split
    · rw [h]
    · exact h

theorem State.ranOn_ck (s : State) (core : Nat) (c : BitVec 12) :
    (s.ranOn core c).ck.unrun = s.ck.unrun := by
  unfold State.ranOn State.onCore
  split
  · rfl
  · dsimp only
    split <;> split <;> rfl

theorem Group.wake_still (g : Group) : g.wake.still = g.still := by
  unfold Group.wake Group.still
  simp only [List.map_map]
  congr 1
  apply List.map_congr_left
  intro o _
  cases o <;> rfl

theorem State.wakeAll_others (s : State) : s.wakeAll.others.map Group.still = s.others.map Group.still := by
  simp only [State.wakeAll, State.mapGroups, List.map_map]
  apply List.map_congr_left
  intro g _
  simp only [Function.comp]
  split
  · exact Group.wake_still g
  · rfl

theorem State.wakeAll_frame (s : State) : KeepsRest s s.wakeAll :=
  ⟨State.wakeAll_others s, by simp, by simp, by simp, by simp, by simp, by simp, by simp, by simp, by simp, by simp, by simp, by simp, by simp,
   by simp, by simp⟩

theorem occur_next (s : State) (k : State → State) : occur s k = .next (k { s.wakeAll with fresh := s.fresh + 1 }) := rfl

/-- Issuing keeps everything outside the group. -/
theorem State.start_frame (s : State) (i : Instr) : KeepsRest s (s.start i) := by
  refine ⟨?_, by simp, by simp, by simp, by simp, by simp, by simp, by simp, by simp, ?_, by simp, by simp, by simp, by simp, ?_, by simp⟩
  · unfold State.start
    rw [State.wakeAll_others]
    simp
  · rw [State.start_dev]
  · unfold State.start
    rw [State.wakeAll_ck, State.ranOn_ck]
    simp

/-! ## The group in focus after issue -/

/-- The part of a split that an instruction sees. -/
def Split.view (x : Split) : W64 × W32 × ModeState × Option W64 := (x.pc, x.mask, x.ms, x.rp)

theorem Group.wake_split (g : Group) (e : Nat) : (g.wake.split e).map Split.view = (g.split e).map Split.view := by
  unfold Group.wake Group.split
  simp only [List.getElem?_map]
  cases g.splits[e]? with
  | none => rfl
  | some o => cases o <;> rfl

theorem Group.begin_split (g : Group) (e k : Nat) (i : Instr) : ((g.begin e i).split k).map Split.view = (g.split k).map Split.view := by
  unfold Group.begin
  rw [Group.split_onSplit]
  by_cases h : k = e
  · subst h
    simp only [if_true, Option.map_map]
    rfl
  · simp only [h, if_false]
    rfl

theorem Group.begin_eq (g : Group) (e : Nat) (i : Instr) : ∃ l, g.begin e i = { g with wins := g.countWins e i, splits := l } := by
  unfold Group.begin Group.onSplit Group.setSplit
  split
  · exact ⟨_, rfl⟩
  · exact ⟨g.splits, rfl⟩

theorem State.wakeAll_g (s : State) : s.wakeAll.g = s.g ∨ s.wakeAll.g = s.g.wake := by
  simp only [State.wakeAll, State.mapGroups]
  split <;> simp

@[simp] theorem State.ranOn_begin_g (s : State) (i : Instr) : ((s.begin i).ranOn s.g.core s.g.ctx).g = s.g.begin s.entry i := by
  simp [State.begin]

/-- The group in focus after issue: its windows counted, its splits as they were but for waits and ages. -/
theorem start_g (s : State) (i : Instr) :
    (∃ l, (s.start i).g = { s.g with wins := s.g.countWins s.entry i, splits := l }) ∧
      ∀ e, ((s.start i).g.split e).map Split.view = (s.g.split e).map Split.view := by
  unfold State.start
  obtain ⟨l, hl⟩ := Group.begin_eq s.g s.entry i
  rcases State.wakeAll_g ((s.begin i).ranOn s.g.core s.g.ctx) with h | h
  · rw [h, State.ranOn_begin_g]
    exact ⟨⟨l, hl⟩, fun e => Group.begin_split ..⟩
  · rw [h, State.ranOn_begin_g]
    refine ⟨⟨_, by rw [hl]; rfl⟩, fun e => ?_⟩
    rw [Group.wake_split, Group.begin_split]

theorem start_keepsGroup (s : State) (i : Instr) : KeepsGroup s (s.start i) := by
  obtain ⟨⟨l, h⟩, -⟩ := start_g s i
  unfold KeepsGroup
  rw [h]; rfl

theorem start_getPlace (s : State) (i : Instr) (p l : Nat) : (s.start i).g.getPlace p l = s.g.getPlace p l := by
  obtain ⟨⟨l, h⟩, -⟩ := start_g s i
  rw [h]; rfl

theorem start_pred (s : State) (i : Instr) (k : BitVec 3) : (s.start i).g.pred k = s.g.pred k := by
  obtain ⟨⟨l, h⟩, -⟩ := start_g s i
  rw [h]; rfl

theorem start_preds (s : State) (i : Instr) : (s.start i).g.preds = s.g.preds := by
  obtain ⟨⟨l, h⟩, -⟩ := start_g s i
  rw [h]

theorem start_regPlace (s : State) (i : Instr) (r : Reg) : (s.start i).g.regPlace r = s.g.regPlace r := by
  obtain ⟨⟨l, h⟩, -⟩ := start_g s i
  rw [h]; rfl

@[simp] theorem start_fresh (s : State) (i : Instr) : (s.start i).fresh = s.fresh + 1 := by simp [State.start, State.begin]
@[simp] theorem start_seq (s : State) (i : Instr) : (s.start i).seq = s.seq + 1 := by simp [State.start, State.begin]

/-- The issuing split as it issues. -/
theorem start_cur (s : State) (i : Instr) (h : (s.g.split s.entry).isSome) : (s.start i).cur.view = s.cur.view := by
  obtain ⟨-, hs⟩ := start_g s i
  have := hs s.entry
  unfold State.cur
  rw [State.start_entry]
  cases h1 : s.g.split s.entry with
  | none => simp [h1] at h
  | some x =>
    rw [h1] at this
    cases h2 : (s.start i).g.split s.entry with
    | none => rw [h2] at this; simp at this
    | some y =>
      rw [h2] at this
      simpa using this

end Sys2Proof.Machine
end

