-- ==== Sys2Proof/Laws/Write.lean ====
section
/-!
SUPPORT. Sys2Proof/Laws/Write.lean: an instruction that issues answers with its effect; the effect of a register write, a predicate write and the step to the
next word, as the claims say it.
-/

namespace Sys2Proof.Machine

open Sys2Proof

/-! ## Issuing answers a next state -/

theorem issues_split {s : State} {i : Instr} (h : s.issues i = true) : (s.g.split s.entry).isSome = true := by
  simp only [State.issues, Bool.and_eq_true] at h
  exact h.1.1.1

/-- Under `issues` an instruction has its effect once its own wait is over. -/
theorem issueOr_next {i : Instr} {s : State} {go : State → Bool} {wait k : State → State} (h : s.issues i = true)
    (hg : go (s.start i) = true) : issueOr i s go wait k = .next (k (s.start i)) := by
  simp only [State.issues, Bool.and_eq_true] at h
  obtain ⟨⟨⟨h1, h2⟩, h3⟩, h4⟩ := h
  unfold issueOr
  rw [if_neg (by rw [Option.isSome_iff_ne_none] at h1; simpa using h1), if_neg (by simp [h2])]
  cases hd : s.decodeTrap i with
  | some c => rw [hd] at h3; simp at h3
  | none => simp only [h4, Bool.not_true, Bool.false_eq_true, if_false, hg, if_true]

theorem issue_next {i : Instr} {s : State} {k : State → State} (h : s.issues i = true) : issue i s k = .next (k (s.start i)) :=
  issueOr_next h rfl

theorem issueWhen_next {i : Instr} {s : State} {go : State → Bool} {k : State → State} (h : s.issues i = true) (hg : go (s.start i) = true) :
    issueWhen i s go k = .next (k (s.start i)) := issueOr_next h hg

theorem issueReady_next {i : Instr} {s : State} {go : State → Bool} {k : State → State} (h : s.issues i = true) (hg : go (s.start i) = true) :
    issueReady i s go k = .next (k (s.start i)) := issueOr_next h hg

/-! ## Register writes -/

/-- Only the group in focus changed, and of it only registers and scoreboard. -/
structure Wrs (u t : State) (ps : List Nat) : Prop where
  rest : t = { u with g := t.g }
  like : Group.alike t.g u.g
  regs : KeepsRegs u t ps

theorem Wrs.refl (u : State) : Wrs u u [] := ⟨rfl, rfl, fun _ _ _ _ => rfl⟩

theorem Wrs.trans {a b c : State} {p q : List Nat} (h : Wrs a b p) (k : Wrs b c q) : Wrs a c (p ++ q) := by
  refine ⟨?_, Group.alike.trans k.like h.like, fun x l hl hx => ?_⟩
  · rw [k.rest]; rw [h.rest]
  · simp only [List.mem_append, not_or] at hx
    rw [k.regs x l hl hx.2, h.regs x l hl hx.1]

theorem Wrs.regPlace {u t : State} {ps : List Nat} (h : Wrs u t ps) (r : Reg) : t.g.regPlace r = u.g.regPlace r := Group.alike.regPlace h.like r

/-- The places of one register field. -/
theorem places_narrow (s : State) (d : Reg) : s.places d false = (s.g.regPlace d).toList := by
  unfold State.places Group.dst
  cases s.g.regPlace d <;> rfl

theorem wrIn_wrs (s : State) (d : Reg) (m : W32) (f : Nat → W32) : Wrs s (s.wrIn d m f) (s.places d false) := by
  rw [places_narrow]
  unfold State.wrIn
  cases hp : s.g.regPlace d with
  | none => exact Wrs.refl s
  | some p =>
    refine ⟨rfl, Group.assign_alike .., fun q l hl hq => ?_⟩
    simp only [Option.toList_some, List.mem_singleton] at hq
    simp [Group.getPlace_assign, hl, hq]

theorem wrIn_wrote (s : State) (d : Reg) (m : W32) (f : Nat → W32) : WroteIn s (s.wrIn d m f) d m f := by
  intro p hp l hl
  unfold State.wrIn
  rw [hp]
  simp [Group.getPlace_assign, hl]

theorem places_wide (s : State) (d : Reg) (p q : Nat) (hp : s.g.regPlace d = some p) (hq : s.g.regPlace (d + 1#6) = some q) :
    s.places d true = [p, q] := by
  unfold State.places Group.dst
  rw [hp, hq]; rfl

/-- A pair field names a register after its first. -/
theorem pair_second {d : Reg} (h : pairOk d = true) (hd : d ≠ 63#6) (g : Group) : ∃ q, g.regPlace (d + 1#6) = some q := by
  have hlt : (d + 1#6).toNat < 63 := by
    have : d.toNat ≠ 63 := fun e => hd (BitVec.eq_of_toNat_eq e)
    simp only [pairOk, Bool.or_eq_true, Bool.and_eq_true, decide_eq_true_eq] at h
    have := d.isLt
    rw [BitVec.toNat_add]
    simp only [BitVec.toNat_ofNat]
    omega
  unfold Group.regPlace
  split
  · exact ⟨_, rfl⟩
  · exact ⟨_, rfl⟩

theorem wrIn64_wrs (s : State) (d : Reg) (m : W32) (f : Nat → W64) : Wrs s (s.wrIn64 d m f) (s.places d false ++ s.places (d + 1#6) false) := by
  unfold State.wrIn64
  split
  · exact ⟨rfl, rfl, fun _ _ _ _ => rfl⟩
  · have h1 := wrIn_wrs s d m fun l => (f l).setWidth 32
    have h2 := wrIn_wrs (s.wrIn d m fun l => (f l).setWidth 32) (d + 1#6) m fun l => (f l >>> 32).setWidth 32
    have e : (s.wrIn d m fun l => (f l).setWidth 32).places (d + 1#6) false = s.places (d + 1#6) false := by
      rw [places_narrow, places_narrow, h1.regPlace]
    rw [e] at h2
    exact h1.trans h2

theorem wrIn64_wrote (s : State) (d : Reg) (m : W32) (f : Nat → W64) : WroteIn64 s (s.wrIn64 d m f) d m f := by
  intro hd hne
  unfold State.wrIn64
  rw [if_neg hd]
  have h1 := wrIn_wrs s d m fun l => (f l).setWidth 32
  have h2 := wrIn_wrs (s.wrIn d m fun l => (f l).setWidth 32) (d + 1#6) m fun l => (f l >>> 32).setWidth 32
  have e : (s.wrIn d m fun l => (f l).setWidth 32).places (d + 1#6) false = s.places (d + 1#6) false := by
    rw [places_narrow, places_narrow, h1.regPlace]
  rw [e] at h2
  constructor
  · intro p hp l hl
    rw [h2.regs p l hl]
    · exact wrIn_wrote s d m _ p hp l hl
    · rw [places_narrow]
      intro hm
      simp only [Option.mem_toList] at hm
      exact hne (hp.trans hm.symm)
  · intro q hq l hl
    have := wrIn_wrote (s.wrIn d m fun l => (f l).setWidth 32) (d + 1#6) m (fun l => (f l >>> 32).setWidth 32) q (by rw [h1.regPlace, hq]) l hl
    rw [this]
    unfold afterWrite
    have keep : ∀ l, l < 32 → (s.wrIn d m fun l => (f l).setWidth 32).g.getPlace q l = s.g.getPlace q l := fun l hl =>
      h1.regs q l hl (by rw [places_narrow]; intro hm; simp only [Option.mem_toList] at hm; exact hne (hm.trans hq.symm))
    split
    · split
      · rfl
      · exact keep l hl
    · split
      · rfl
      · exact keep l hl

/-! ## The step to the next word -/

theorem goto_g (s : State) (pc : W64) : Group.sameBut (s.goto pc).g s.g := by
  unfold State.goto State.onG
  rw [State.issued_g]
  exact (Group.onSplit_sameBut ..).trans ((Group.settle_sameBut ..).trans (Group.onSplit_sameBut ..))

theorem goto_eq (s : State) (pc : W64) : s.goto pc = { s with g := (s.goto pc).g, dev := (s.goto pc).dev } := by
  unfold State.goto State.issued State.counted
  rw [State.event_eq]
  rfl

theorem goto_getPlace (s : State) (pc : W64) (p l : Nat) : (s.goto pc).g.getPlace p l = s.g.getPlace p l := by
  have h := goto_g s pc
  unfold Group.sameBut at h
  have hv := congrArg (fun g => g.vregs) h
  have hu := congrArg (fun g => g.uregs) h
  dsimp only at hv hu
  unfold Group.getPlace
  rw [hv, hu]

/-- A change of a split that a part of it does not show. -/
theorem Group.onSplit_keeps {β : Type} (v : Split → β) (g : Group) (e k : Nat) {f : Split → Split} (h : ∀ x, v (f x) = v x) :
    ((g.onSplit e f).split k).map v = (g.split k).map v := by
  rw [Group.split_onSplit]
  split
  · next he => rw [Option.map_map, show v ∘ f = v from funext h, he]
  · rfl

/-- The step to an address changes the group and counts an event; nothing else. -/
theorem goto_frame (s : State) (pc : W64) : KeepsRest s (s.goto pc) := by
  refine ⟨by simp, by simp, by simp, by simp, by simp, by simp, by simp, by simp, by simp, ?_, by simp, by simp, by simp, by simp, by simp, by simp⟩
  exact State.event_dev ..

theorem goto_split (s : State) (pc : W64) (e : Nat) :
    ((s.goto pc).g.split e).map (fun x => (x.pc, x.mask, x.ms)) =
      if e = s.entry then (s.g.split e).map (fun x => (pc, x.mask, x.ms)) else (s.g.split e).map (fun x => (x.pc, x.mask, x.ms)) := by
  unfold State.goto State.onG
  rw [State.issued_g]
  refine (Group.onSplit_keeps (fun x => (x.pc, x.mask, x.ms)) _ _ _ (f := fun x => { x with age := 0 }) fun _ => rfl).trans ?_
  dsimp only
  rw [Group.settle_split, Group.split_onSplit]
  by_cases h : e = s.entry
  · subst h
    simp only [if_true, Option.map_map]
    rfl
  · simp [h]

/-! ## A register instruction as a whole -/

theorem alike_split {a b : Group} (h : Group.alike a b) (e : Nat) : a.split e = b.split e := by
  unfold Group.alike at h
  have := congrArg (fun g => g.splits) h
  dsimp only at this
  unfold Group.split
  rw [this]

theorem alike_preds {a b : Group} (h : Group.alike a b) : a.preds = b.preds := by
  unfold Group.alike at h
  exact congrArg (fun g => g.preds) h

theorem sameBut_preds {a b : Group} (h : Group.sameBut a b) : a.preds = b.preds := by
  unfold Group.sameBut at h
  exact congrArg (fun g => g.preds) h

/-- Groups alike have the same outer part. -/
theorem alike_outer {a b : Group} (h : Group.alike a b) : a.outer = b.outer := by
  unfold Group.alike at h
  exact congrArg (fun g : Group => { g with preds := [], splits := [] }) h

theorem sameBut_outer {a b : Group} (h : Group.sameBut a b) : a.outer = b.outer := by
  unfold Group.sameBut at h
  exact congrArg (fun g : Group => { g with vregs := [], uregs := [], preds := [], wins := [], owed := [] }) h

/-- What an instruction of the group in focus did after issue: changes of the group alone. -/
structure InGroup (u t : State) : Prop where
  rest : t = { u with g := t.g }
  outer : t.g.outer = u.g.outer
  splits : ∀ e, t.g.split e = u.g.split e

theorem Wrs.inGroup {u t : State} {ps : List Nat} (h : Wrs u t ps) : InGroup u t := ⟨h.rest, alike_outer h.like, alike_split h.like⟩

/-- After issue and changes of the group alone, the step to an address. -/
theorem goto_of_start {s u : State} {i : Instr} (h : InGroup (s.start i) u) (pc : W64) :
    KeepsRest s (u.goto pc) ∧ KeepsGroup s (u.goto pc) ∧ GoesTo s (u.goto pc) pc := by
  have hent : u.entry = s.entry := by rw [h.rest]; simp
  refine ⟨?_, ?_, ?_, ?_⟩
  · exact ((State.start_frame s i).trans (KeepsRest.of_g h.rest)).trans (goto_frame u pc)
  · unfold KeepsGroup
    rw [sameBut_outer (goto_g u pc), h.outer]
    exact start_keepsGroup s i
  · rw [goto_split, if_pos hent.symm, h.splits]
    have := (start_g s i).2 s.entry
    have := congrArg (Option.map fun (v : W64 × W32 × ModeState × Option W64) => (pc, v.2.1, v.2.2.1)) this
    simp only [Option.map_map] at this
    exact this
  · intro e he
    rw [goto_split, if_neg (by rw [hent]; exact he), h.splits]
    have := (start_g s i).2 e
    have := congrArg (Option.map fun (v : W64 × W32 × ModeState × Option W64) => (v.1, v.2.1, v.2.2.1)) this
    simp only [Option.map_map] at this
    exact this

theorem cur_of_start {s u : State} {i : Instr} (hs : (s.g.split s.entry).isSome = true) (h : InGroup (s.start i) u) :
    u.cur.view = s.cur.view := by
  have hent : u.entry = s.entry := by rw [h.rest]; simp
  rw [← start_cur s i hs]
  unfold State.cur
  rw [h.splits, hent, State.start_entry]

/-- A register instruction: issue, writes of registers, the next word. -/
theorem onlyWrote_done {s u : State} {i : Instr} {ps : List Nat} (hs : (s.g.split s.entry).isSome = true) (h : Wrs (s.start i) u ps) :
    OnlyWrote s u.done ps := by
  obtain ⟨h1, h2, h3⟩ := goto_of_start h.inGroup (u.cur.pc + 4#64)
  refine ⟨h1, h2, fun p l hl hp => ?_, ?_, ?_⟩
  · unfold State.done
    rw [goto_getPlace, h.regs p l hl hp, start_getPlace]
  · unfold KeepsPreds State.done
    rw [sameBut_preds (goto_g ..), alike_preds h.like, start_preds]
  · have hc : u.cur.pc = s.cur.pc := congrArg (fun v : W64 × W32 × ModeState × Option W64 => v.1) (cur_of_start hs h.inGroup)
    unfold GoesOn State.done
    rw [hc] at h3 ⊢
    exact h3

theorem done_wroteIn {s u : State} {d : Reg} {m : W32} {f : Nat → W32} (h : WroteIn s u d m f) : WroteIn s u.done d m f := by
  intro p hp l hl
  unfold State.done
  rw [goto_getPlace]
  exact h p hp l hl

theorem done_wroteIn64 {s u : State} {d : Reg} {m : W32} {f : Nat → W64} (h : WroteIn64 s u d m f) : WroteIn64 s u.done d m f :=
  fun hd hne => ⟨done_wroteIn (h hd hne).1, done_wroteIn (h hd hne).2⟩

end Sys2Proof.Machine
end

