-- ==== Sys2Proof/Tests/Slice0.lean ====
section
/-!
SUPPORT. Sys2Proof/Tests/Slice0.lean: words written out from the spec's encodings, ill-formed terms that the checks refuse, and for each statement of
Certificates/Slice0 states that meet its hypotheses.
-/

namespace Sys2Proof.Tests

open Sys2Proof Sys2Proof.Machine

-- one theorem at a time: each evaluation in the kernel would otherwise take a thread of its own, and with it a stack
set_option Elab.async false

/-! ## Small states -/

/-- A group of 32 lanes at PC 0x100, level SYS, on core 0, of a launch of context 0. -/
def grp : Group := { loaderGroup 1 2 with splits := [some { Split.init with pc := 0x100, mask := 0xFFFFFFFF#32 }, none, none, none] }

/-- The machine with this group in focus. -/
def base : State := { State.reset with g := grp, launches := [loaderLaunch], teams := [loaderTeam 2], seq := 2 }

/-- The group changed. -/
def ofG (f : Group → Group) : State := base.onG f

/-- The split in focus changed. -/
def ofSplit (f : Split → Split) : State := ofG fun g => g.onSplit 0 f

/-- An element type. -/
def typed (t : Nat) : State := ofG fun g => { g with mode := BitVec.ofNat 32 (16 * t) }

/-- A uniform register r56 + k. -/
def withU (s : State) (k : Nat) (v : W32) : State := s.onG fun g => { g with uregs := Store.put g.uregs k v }

/-- A vector register in every lane. -/
def withV (s : State) (k : Nat) (v : W32) : State := s.onG fun g => g.setPlace (g.phys k) 0xFFFFFFFF fun _ => v

/-- No lane has GUARD. -/
def noLane (s : State) : State := s.onG fun g => { g with mode := g.mode ||| 8 }

/-- The instruction issues, and a condition holds at issue. -/
def ready (s : State) (ok : State → Bool) (i : Instr) : Bool := s.issues i && ok (s.start i)

/-- The next state of an instruction, if it has one, meets a test. -/
def after (i : Instr) (s : State) (p : State → Bool) : Bool := match exec i s with | .next t => p t | _ => false

/-- No other group, no image, and nothing logged or owed by the group in focus. -/
def fresh (s : State) : Bool :=
  s.others.isEmpty && decide (s.g.gid ≤ s.seq) && s.ck.bounds.isEmpty && s.ck.images.isEmpty && s.g.log.isEmpty && s.g.owed.isEmpty &&
    [s.g.bankA, s.g.bankS, s.g.bankF].all fun b => b.log.isEmpty && b.owed.isEmpty

theorem names_given {s : State} (h : fresh s = true) : NamesGiven s := by
  simp only [fresh, Bool.and_eq_true, List.isEmpty_iff, List.all_cons, List.all_nil, decide_eq_true_eq] at h
  refine ⟨?_, by simp [State.groups, h], ?_, by simp [h], by simp [h]⟩
  · rintro g (rfl | h' | ⟨b, h', -⟩ | ⟨x, h', -⟩)
    · refine ⟨by simp [h], by simp [h], fun b => ?_⟩
      unfold Group.bankOf
      repeat' split
      all_goals simp [h]
    all_goals simp [h] at h'
  · have ho : s.others = [] := by simp [h]
    simp only [State.groups, ho, List.filter_cons, List.filter_nil]
    split <;> simp

/-! ## Witnesses: register and control instructions -/

theorem witness_integer : ([.add 1 2 3, .sub 1 2 3, .mul 1 2 3, .mulh 1 2 3, .mad 1 2 3, .min 1 2 3, .max 1 2 3, .abs 1 2, .addi 1 2 (-1), .div 1 2 3, .rem 1 2 3,
    .and 1 2 3, .or 1 2 3, .xor 1 2 3, .andn 1 2 3, .orn 1 2 3, .andi 1 2 3, .ori 1 2 3, .xori 1 2 3, .shl 1 2 3, .shr 1 2 3, .rot 1 2 3, .shli 1 2 3,
    .shri 1 2 3, .brev 1 2, .bfx 1 2 3, .bfi 1 2 3, .popc 1 2, .clz 1 2, .ctz 1 2, .mov 1 2, .movi 1 2, .ihi 1 2, .sel 1 2 3, .dot4 1 2 3, .bperm 1 2 3] :
    List Instr).all (ready (typed 2) (pairs [1, 2, 3])) = true := by decide +kernel

theorem witness_wide : ([.add 0 2 54, .div 56 58 60, .brev 63 54, .bfx 2 54 3, .mov 60 63, .addx 0 2 4, .lea 0 2 3 1] : List Instr).all
    (ready (typed 3) (pairs [0, 2, 54, 56, 58, 60, 63])) = true := by decide +kernel

theorem witness_compare : ([.cmp 5 7 2 3, .cmpi 0 0 2 (-1)] : List Instr).all (ready (typed 2) (pairs [2, 3])) = true := by decide +kernel

theorem witness_float : ([.fadd 1 2 3, .fsub 1 2 3, .fmul 1 2 3, .ffma 1 2 3, .fmin 1 2 3, .fmax 1 2 3, .frnd 1 2, .fscale 1 2 3, .fabs 1 2, .fneg 1 2,
    .fclass 1 2, .fcmp 6 1 2 3, .frcp 1 2 0, .frsq 1 2 0, .fsqrt 1 2 0, .fexp2 1 2 0, .flog2 1 2 15, .fsin 1 2 0, .fcos 1 2 0] : List Instr).all
    (ready (typed 10) fun u => floats [1, 2, 3] u && decide (u.w ≠ 64)) = true := by decide +kernel

theorem witness_convert : ready (typed 10) (pairs [2]) (.cvt 1 2 11) = true ∧ eltWidth 11 = 64 ∧ pairOk 0 = true ∧ ready (typed 10) (pairs [2]) (.cvt 0 2 3) = true ∧
    ready (typed 10) (·.blockType) (.cvtdx 1 2 2) = true ∧ ready (typed 8) (·.blockType) (.cvtmx 1 2 5) = true := by decide +kernel

theorem witness_lanes : ([.qswapH 1 2, .qswapV 1 2, .qswapD 1 2, .qbcast 1 2 3, .shfl 1 2 3, .shflu 1 2 3, .shfld 1 2 3, .shflx 1 2 3, .voteAll 1 2,
    .voteAny 1 2, .voteBallot 1 2, .matchLanes 1 2, .plog 0 1 2 6, .gscanIncl 1 2 5, .gscanExcl 1 2 0, .gred 1 2 0] : List Instr).all
    (ready (typed 2) (pairs [1, 2, 3])) = true := by decide +kernel

theorem witness_pair_checks : ready (typed 3) (fun u => !u.pairsOk [1, 2, 3]) (.add 1 2 3) = true ∧
    ready (typed 2) (fun u => !(u.isFloat && u.pairsOk [1, 2, 3])) (.fadd 1 2 3) = true := by decide +kernel

/-- Half of the lanes have GUARD, through p1. -/
def half : State := ofG fun g => { g with mode := 0x21, preds := Store.put g.preds 1 0xFFFF }

theorem witness_branches : ([.br 2, .brc 3 (-1), .brx 56, .exit] : List Instr).all half.issues = true ∧ lowest half.grd = some 0 ∧
    ((half.start (.brx 56)).rd64 56 0).toNat % 4 = 0 ∧ (noLane half).grd = 0xFFFF0000#32 ∧ (noLane (typed 2)).grd = 0#32 ∧
    (noLane (typed 2)).issues (.brx 56) = true := by decide +kernel

theorem witness_division : half.issues (.br 2) = true ∧ half.grd ≠ 0#32 ∧ half.act &&& ~~~half.grd ≠ 0#32 ∧ half.g.freeSplit = some 1 := by decide +kernel

theorem witness_yield : base.issues .nop = true ∧ base.issues (.yield 63 63) = true ∧ base.issues (.yield 1 63) = true ∧ (base.cur.pc + 4#64).toNat % 4 = 0 := by
  decide +kernel

/-- A mode stack of a depth. -/
def stacked (n : Nat) : State := ofSplit fun x => { x with ms := { stack := List.replicate n 0x20#32, priv := 0x20 } }

theorem witness_mode : ([.setm 31 0x20, .setm 2 0xC0, .setmR 31 56, .getm 1, .pushm] : List Instr).all base.issues = true ∧ (stacked 4).issues .pushm = true ∧
    (stacked 4).cur.ms.stack.length = 4 ∧ (stacked 4).issues .popm = true ∧ (stacked 4).cur.ms.stack = [0x20, 0x20, 0x20] ++ [0x20] ∧ base.issues .popm = true ∧
    base.cur.ms.stack = [] := by decide +kernel

/-- A group with `n` registers and a call frame list. -/
def called (n : Nat) (fs : List Nat) (cd : Nat) : State := ofG fun g => { g with nregs := n, win := { g.win with frames := fs, cd := cd } }

theorem witness_calls : (called 128 [] 0).issues (.call 7 2) = true ∧ (called 128 [] 0).issues (.callx 56 0) = true ∧ (called 128 [] 0).g.converged = true ∧
    ([] ++ [8 * (7 + 1)] : List Nat).sum + 56 ≤ 128 ∧ (called 128 [] 65535).issues (.call 0 2) = true ∧ (called 128 [8] 1).issues .ret = true ∧
    (called 128 [8] 1).g.win.frames = [] ++ [8] ∧ (called 128 [] 0).issues .ret = true ∧ (((called 128 [] 0).start (.call 7 2)).callFrame 7).2 = .ok ∧
    ((called 64 [8] 1).onG fun g => { g with win := { g.win with wsl := 0, wsp := 64 } }).g.win.wsp.toNat ≥ 32 ∧
    ((called 64 [8] 1).onG fun g => { g with win := { g.win with wsl := 64, wsp := 64 } }).spillOldest =
      (((called 64 [8] 1).onG fun g => { g with win := { g.win with wsl := 64, wsp := 64 } }), .fault 0x14 64 0) := by decide +kernel

/-- The loaded machine with its group on a control core, with a call frame list; its slices begin at a mapped page. -/
def calledIn (n : Nat) (fs : List Nat) (cd : Nat) (wsp : W32) : State :=
  base.loaded.onG fun g => { g with core := 256, nregs := n, win := { g.win with frames := fs, cd := cd, wsp := wsp } }

theorem witness_spills : (let s := calledIn 128 [8, 64] 2 32
    s.issues (.call 0 2) = true ∧ s.g.converged = true ∧ 128 < ([8, 64] ++ [8]).sum + 56 ∧ ((s.start (.call 0 2)).callFrame 0).2 = .ok ∧ s.spillOldest.2 = .ok) ∧
    (let s := calledIn 128 [] 1 0
     s.issues .ret = true ∧ s.g.converged = true ∧ (s.start .ret).callerFrame.2 = .ok) := by decide +kernel

/-! ## Witnesses: exceptions, special registers, contexts -/

/-- A group at a level, in a trap bank. -/
def atLevel (lv bk : Nat) : State := ofG fun g => { g with stat := BitVec.ofNat 32 (lv + 4 * bk) }

/-- A trap report. -/
def rep : TrapReport := { cause := 0x19, async := false, val := 0, ins := 0, fmask := 1, wdet := 0, logged := none, entry := 0 }

/-- A group that a GMIG is about to move, so that its traps must wait. -/
def unquiet : State := ofG fun g => { g with gmove := some { id := 1, dest := none, reason := 3, dst := .none, grd := 1 } }

theorem witness_trap_routing : ((atLevel 0 0).g.bank, (atLevel 0 0).g.level) = (0, 0) ∧ ((atLevel 1 0).g.bank, (atLevel 1 0).g.level) = (0, 1) ∧
    ((atLevel 2 0).g.bank, (atLevel 2 0).g.level) = (0, 2) ∧ (atLevel 0 1).g.bank = 1 ∧ (atLevel 1 2).g.bank = 2 ∧ (atLevel 2 3).g.bank = 3 ∧
    (atLevel 2 3).quiet = true ∧ (atLevel 2 3).g.trap = none ∧ unquiet.quiet = false ∧ unquiet.g.trap = none := by decide +kernel

theorem witness_trap_entry : base.g.trap = none ∧ base.quiet = true ∧ base.trapBank rep.cause ≠ 0 := by decide +kernel

theorem witness_return_undoes_entry : base.g.splits.length = 4 ∧ base.g.mode = (base.g.mode &&& 0x3FFF#32) ||| (base.g.mode &&& 0x4000#32) ∧
    base.g.stat.toNat < 16 ∧ rep.logged = none ∧ (∀ e, e < 4 → ∀ x, base.g.split e = some x → x.pc = sext57 x.pc ∧ x.hold < 2 ^ 17 ∧ x.age < 2 ^ 9 ∧ x.rp = none ∧
      x.ms.stack = [] ∧ x.ms.priv = (x.ms.priv &&& 0x3FFF#32) ||| (base.g.mode &&& 0x4000#32) ∧ x.wait = .none) := by decide +kernel

theorem witness_trap : [base, atLevel 2 3, { atLevel 2 3 with g := { (atLevel 2 3).g with ctx := 1 } }].all (fun s =>
      s.issues (.trap 0xFFF) && (s.start (.trap 0xFFF)).done.quiet) = true ∧ base.trapBank 0x19 ≠ 0 ∧ (atLevel 2 3).trapBank 0x19 = 0 ∧
    unquiet.issues (.trap 0xFFF) = true ∧ (unquiet.start (.trap 0xFFF)).done.quiet = false := by decide +kernel

/-- The state in the handler that a trap at SYS entered. -/
def handler : State := base.report rep

theorem witness_tret : base.issues .tret = true ∧ base.g.bank = 0 ∧ handler.issues .tret = true ∧ handler.g.bank = 2 ∧ handler.g.converged = true ∧
    tstatBad 2 (Store.get handler.g.bankS.cells 3).toNat = false ∧ tsplBad handler.g.bankS.cells = false ∧ handler.g.log = [] ∧ handler.g.owed = [] ∧
    handler.g.bankS.log = [] ∧ handler.g.bankS.win.wsp ≤ handler.g.win.wsp ∧
    (let bad := handler.onG fun g => { g with bankS := { g.bankS with cells := Store.put g.bankS.cells 3 (0x60000#64) } }
     tstatBad bad.g.bank (Store.get bad.g.bankS.cells 3).toNat = true ∧ bad.issues .tret = true) := by decide +kernel

theorem witness_privilege : ((atLevel 0 0).g.split (atLevel 0 0).entry).isSome = true ∧ (atLevel 0 0).mayIssue = true ∧ (atLevel 0 0).g.level < 1 ∧
    ([.tlbinv 0 1, .ctxstart 1 2, .ctxkill 1 2, .rcfence 1 2, .eres 1 2 3, .drain 1 2, .wsset 0 4 8 3, .ckclose 1 2 3, .halt, .csrr 0 0x200, .csrw 1 0x401] :
      List Instr).all Instr.wellFormed = true ∧ (atLevel 0 0).appCounter 0 0x200 = false ∧ csrLevel 0x200 = 1 ∧ csrLevel 0x3FF = 2 := by decide +kernel

theorem witness_csr_reads : csrWide 0x008 = true ∧ ready base always (.csrr 0 0x008) = true ∧ csrWide 0x001 = false ∧ ready base always (.csrr 1 0x001) = true := by
  decide +kernel

theorem witness_csr_writes : (noLane base).issues (.csrw 1 0x007) = true ∧ (noLane base).issuer = none ∧ base.issues (.csrw 1 0x007) = true ∧
    base.issuer = some 0 ∧ base.csrBad 0x007 ((base.start (.csrw 1 0x007)).csrValue 1 0x007 0) = false ∧ base.accessesDone = true ∧
    base.issues (.csrw 56 0x230) = true ∧ (withU base 0 0xFFFFFFFF#32).csrBad 0x230 ((withU base 0 0xFFFFFFFF#32).csrValue 56 0x230 0) = true := by decide +kernel

/-- The machine with context 1 Live, one draining pair (2, 7), and a context word in r56. -/
def ctxs (w : W32) : State :=
  { withU base 0 w with ctxs := [Ctx.zero, { Ctx.zero with c := 1, cur := 3 }, { Ctx.zero with c := 2, cur := 8, live := false, draining := [7] }] }

theorem witness_contexts : ([.ctxstart 1 56, .ctxkill 1 56, .rcfence 1 56] : List Instr).all (ctxs 1).issues = true ∧ (noLane (ctxs 1)).issuer = none ∧
    ([.ctxstart 1 56, .ctxkill 1 56, .rcfence 1 56] : List Instr).all (noLane (ctxs 1)).issues = true ∧ (ctxs 1).issuer = some 0 ∧
    ((ctxs 1).start (.ctxkill 1 56)).rd 56 0 = 1 ∧ (ctxs 1).isLive 1 = true ∧ (ctxs 0x7002).drains 2 7 = true ∧ ((ctxs 0x7002).start (.rcfence 1 56)).rcGo 56 = true ∧
    (ctxs 0x3001).liveTag 1 3 = true ∧ ((ctxs 1).ctx 1).map (·.live) = some true ∧ (let s := { ctxs 3 with m := { base.m with mem := [(192, 1#8)] } }
     (s.start (.ctxstart 1 56)).readEntry 3 0 = none ∧ s.issues (.ctxstart 1 56) = true) := by decide +kernel

/-- The management core. -/
def mgmt : State := ofG fun g => { g with core := mgmtCore, stat := 2 }

theorem witness_translation_halt : base.issues (.tlbinv 0 56) = true ∧ (noLane base).issues (.tlbinv 0 56) = true ∧ (noLane base).issuer = none ∧
    (base.start (.tlbinv 0 56)).tlbGo 0 56 = true ∧ tlbTrap ((base.start (.tlbinv 0 56)).rd64 0 0) ((base.start (.tlbinv 0 56)).rd 56 0) = none ∧
    (tlbTrap 0 0xFFFFFFFF#32).isSome = true ∧ base.issues (.eres 1 2 3) = true ∧ (noLane base).issues (.eres 1 2 3) = true ∧ eresTrap 0 0 = none ∧
    (eresTrap 0 2).isSome = true ∧ (atLevel 2 0).issues .halt = true ∧ (atLevel 2 0).g.core ≠ mgmtCore ∧ mgmt.issues .halt = true ∧ mgmt.accessesDone = true := by
  decide +kernel

/-! ## Witnesses: memory, fences, tagged words, barriers -/

/-- The team has 4 KiB of scratchpad. -/
def padded : State := { base with teams := [{ loaderTeam 2 with size := 4096 }] }

theorem witness_memory_issues : ([.ld 1 56 255 0, .st 1 56 256 0, .ldStr 1 56 0 8, .stStr 1 56 0 8, .ldAcq 1 56 0 2, .stRel 1 56 0 2, .ldh 1 56 0 15, .lds 1 2 0 0,
    .sts 1 2 0 0, .ldc 1 2 0 0, .stc 1 2 0 0, .ldx 1 2 0 0, .stx 1 2 0 0, .ldl 1 2 0 0, .stl 1 2 0 0, .amo 1 56 2 0 6, .amos 1 56 2 0 0, .red 56 2 0 5,
    .cas 1 56 2 0] : List Instr).all (fun i => (typed 2).issues i && ((typed 2).start i).memLegal i) = true ∧
    ((typed 3).start (.ld 1 56 0 0)).memLegal (.ld 1 56 0 0) = false ∧ (typed 3).issues (.ld 1 56 0 0) = true := by
  decide +kernel

/-- The loaded machine with a scratchpad for its team, a window in its quarter's chip scratchpad and slices; lanes 0 and 1 have GUARD. -/
def mapped (t : Nat) : State :=
  let s := State.reset.loaded
  let u : State := { s with teams := s.teams.map (fun x => { x with size := 4096 }), ctxs := s.ctxs.map (fun x => { x with chips := [0x10000, 0, 0, 0] }),
                            launches := s.launches.map fun x => { x with packet := Store.put x.packet 22 1 } }
  u.onG fun g => { g with mode := BitVec.ofNat 32 (16 * t + 1), preds := Store.put g.preds 1 3 }

/-- A table entry is another. -/
def pteAt (pa v : Nat) (s : State) : State := { s with m := s.m.putHome false pa 8 v }

/-- Every lane that takes part reaches its place. -/
def reaches (s : State) (i : Instr) : Bool :=
  match accSpec i s.md with
  | none => false
  | some p =>
    let u := s.start i
    s.issues i && u.memLegal i && (u.targets u.g i p [(0, 8), (1, 16)] (lanesOf u.grd)).2.all fun x => match x.2 with | .ok .. | .pair .. => true | _ => false

theorem witness_memory_targets : ([.ld 1 56 255 0, .st 1 56 256 0, .ldStr 1 56 0 8, .stStr 1 56 0 8, .ldAcq 1 56 0 2, .stRel 1 56 0 2, .ldh 1 56 0 15, .lds 1 2 0 0,
    .sts 1 2 0 0, .ldc 1 2 0 0, .stc 1 2 0 0, .ldx 1 2 0 0, .stx 1 2 0 0, .ldl 1 2 0 0, .stl 1 2 0 0, .amo 1 56 2 0 6, .red 56 2 0 5,
    .cas 1 56 2 0] : List Instr).all (reaches (mapped 2)) = true ∧ reaches (mapped 3) (.ldl 2 4 0 0) = true ∧
    reaches (pteAt 0x3000 0x800000400002CF (mapped 2)) (.amos 1 56 2 0 0) = true := by decide +kernel

theorem witness_names : NamesGiven base ∧ NamesGiven (mapped 2) ∧ NamesGiven padded := ⟨names_given (by decide +kernel), names_given (by decide +kernel), names_given (by decide +kernel)⟩

/-- A load of a word from a family of addresses. -/
def accOf (f : Family) (k : ReqKind) : AccSpec := weakSpec k f 2

theorem witness_access_checks : 0 < (accOf .scratch .load).size ∧ (accOf .scratch .load).fam = .scratch ∧ (2#64).toNat % (accOf .scratch .load).size ≠ 0 ∧
    (4092#64).toNat % (accOf .scratch .load).size = 0 ∧ padded.scratchPlace padded.g 4096 = none ∧ (padded.teamOf padded.g).map (·.size) = some 4096 ∧
    (accOf .scratch .load).kind ≠ .store ∧ (accOf .scratch .store).kind = .store ∧
    (padded.arm { loaderTeam 2 with size := 4096 } 0 1 0).armedIn 2 8 4 = some 0 ∧ (accOf .chip .load).fam = .chip ∧ (accOf .slice .load).fam = .slice ∧ pktSlice (padded.packetOf padded.g) ≤ 4 ∧
    (accOf .global .load).fam = .global ∧ canonical 0x8000000000000000#64 = false := by decide +kernel

/-- An access in the log. -/
def entry (i : Instr) (pend flight : W32) (addr val : Store 64) (d : Dst) : LogEntry :=
  { id := 0, seq := 7, i := i, mode := 0x20, entry := 0, lanes := 0xFFFFFFFF, pend := pend, flight := flight, addr := addr, val := val, val2 := [],
    dst := d, aux := 0 }

/-- The access in the log of the group. -/
def logged (e : LogEntry) : State := padded.onG fun g => { g with log := [e] }

theorem witness_lanes_start : (let e := entry (.sts 1 2 0 0) 5 0 [(2, 4092#64)] [] .none
    let s := logged e
    let p := (accSpec e.i e.mode).getD (accOf .global .load)
    s.g.entryOf e.seq = some e ∧ accSpec e.i e.mode = some p ∧ p.fam = .scratch ∧ e.flight = 0#32 ∧ s.g.helpers = 0#32 ∧ lanesOf e.pend = [0, 2] ∧
      (s.target s.g e.i p 0 0).2 = .ok .scratch 0 0 false ∧ (s.target s.g e.i p 2 4092).2 = .ok .scratch 4092 4092 false) ∧
    (let e := entry (.sts 1 2 0 0) 4 0 [(2, 4090#64)] [] .none
     lanesOf e.pend = [2] ∧ ((logged e).target (logged e).g e.i ((accSpec e.i e.mode).getD (accOf .global .load)) 2 4090).2 = .bad 1 0x05 4090 0) := by decide +kernel

/-- A request of lane 0. -/
def reqOf (k : ReqKind) (sp : Space) (key size : Nat) (done : Bool) : Req :=
  { outsideReq padded 0 0 0 (0, key, false, List.replicate size 0#8) with
    rid := 9, gid := 1, log := 7, kind := k, space := sp, size := size, val := 0x11223344, accepted := false, performed := done, elt := 2, lanes := 0xFFFFFFFF }

/-- The machine with that request on its way, for an access in the log. -/
def asked (e : LogEntry) (r : Req) : State := { logged e with m := { base.m with reqs := [r] } }

/-- A store on its way. -/
def storing (sp : Space) (key : Nat) : State := asked (entry (.sts 1 2 0 0) 1 1 [] [] .none) (reqOf .store sp key 4 false)

theorem witness_write_at_home : (1 ≤ 2 ∧ 0x40000002 % 4 + 2 ≤ 4) ∧ (0x40000008 % 8 = 0) ∧ base.m.dirOf (lineOf 0x40000000) = none ∧
    base.m.l2Line (lineOf 0x40000000) = none := by decide +kernel

theorem witness_stores : (let s := storing .scratch 0x3FFC
    let r := reqOf .store .scratch 0x3FFC 4 false
    s.m.reqs.find? (fun q => decide (q.rid = 9)) = some r ∧ s.liveTag r.ctx r.inc = true ∧ s.reqWaits r = false ∧ s.armedHit r = none ∧ s.placeReady r = true ∧
      s.reqBlocked r = false) ∧
    (let s := storing .vm 0x40000000
     let r := reqOf .store .vm 0x40000000 4 false
     s.m.reqs.find? (fun q => decide (q.rid = 9)) = some r ∧ s.liveTag r.ctx r.inc = true ∧ s.reqWaits r = false ∧ s.placeReady r = true ∧ s.reqBlocked r = false ∧
       s.armedHit r = none ∧ s.stackHeld r.key = false ∧ s.lineTurn (lineOf r.key) 0 = true ∧ s.m.dirOf (lineOf r.key) = none) ∧
    (let r := { reqOf .store .vm 0x40000000 4 false with accepted := true, arrived := 1 }
     let s := asked (entry (.sts 1 2 0 0) 1 1 [] [] .none) r
     s.placeReady r = true ∧ s.reqBlocked r = false ∧ s.turnOf r = true) ∧
    (let r := reqOf .store .scratch 4 4 false
     let s := (asked (entry (.sts 1 2 0 0) 1 1 [] [] .none) r).arm { loaderTeam 2 with size := 4096 } 0 1 0
     (s.armedHit r).map (·.slot) = some 0 ∧ s.liveTag r.ctx r.inc = true ∧ s.reqWaits r = false ∧ s.find r.gid = some s.g ∧ (s.g.entryOf r.log).isSome = true ∧
       s.g.trap = none) ∧
    { storing .vm 0x40000000 with ctxs := [{ Ctx.zero with cur := 1 }] }.liveTag 0 0 = false := by decide +kernel

theorem witness_atomics : (let e := entry (.amo 1 56 2 0 0) 1 1 [] [] (.one 1)
    let r := reqOf .atomic .vm 0x40000000 4 false
    let s := asked e r
    s.m.reqs.find? (fun q => decide (q.rid = 9)) = some r ∧ s.liveTag r.ctx r.inc = true ∧ s.reqWaits r = false ∧ s.placeReady r = true ∧ s.turnOf r = true ∧
      s.m.poisoned r.key r.size = false ∧ s.m.dirOf (lineOf r.key) = none ∧ s.m.l2Line (lineOf r.key) = none ∧ s.find r.gid = some s.g ∧
      s.g.entryOf r.log = some e) := by decide +kernel

/-- A load or an atomic whose register is owed. -/
def owing (i : Instr) (r : Req) : State :=
  (asked (entry i 1 1 [] [] (.one 1)) r).onG fun g => { g with owed := [{ place := 1, lanes := 1, id := 7 }] }

theorem witness_responses : (let r := reqOf .load .scratch 0x10 4 false
    let s := owing (.lds 1 2 0 0) r
    s.m.reqs.find? (fun q => decide (q.rid = 9)) = some r ∧ s.g.present = true ∧ s.g.gid = r.gid ∧ (s.g.entryOf r.log).map (·.dst) = some (.one 1) ∧
      s.liveTag r.ctx r.inc = true ∧ s.reqWaits r = false ∧ s.passOf r = [r] ∧ s.ownStores r = []) ∧
    (let r := reqOf .atomic .vm 0x40000000 4 true
     let s := owing (.amo 1 56 2 0 0) r
     s.m.reqs.find? (fun q => decide (q.rid = 9)) = some r ∧ (s.g.entryOf r.log).map (·.dst) = some (.one 1) ∧ r.performed = true) := by decide +kernel

/-- A fence of the group that the store of `storing` comes after. -/
def fenced : State := (storing .vm 0x40000000).onG fun g => { g with fences := [{ seq := 6, lanes := 0xFFFFFFFF, pred := 3, succ := 2, scope := 8 }] }

theorem witness_fences : base.issues (.pref 1 56 511) = true ∧ base.issues (.fence 8 63 63) = true ∧ fenced.find 1 = some fenced.g ∧
    fenced.m.reqs.find? (fun q => decide (q.rid = 9)) = some (reqOf .store .vm 0x40000000 4 false) ∧ fenced.liveTag 0 0 = true ∧
    base.issues (.xfence 8 7 0) = true ∧ (base.start (.xfence 8 7 0)).pathPending 0 8 = false ∧
    ((base.start (.xfence 8 7 0)).ownDirty base.g).all (base.lineReady base.g.gid) = true ∧
    base.issues (.pfence 1) = true ∧ base.issues (.pfence 0) = true ∧ (base.start (.pfence 1)).anyPending = false ∧ base.columnDirty = false ∧ base.appendsPending = false ∧
    base.issues (.icinv 6) = true ∧ (base.start (.icinv 6)).writesPending base.g base.here base.act = false := by decide +kernel

theorem witness_tagged : base.full 0 5 = true ∧ (base.setFull 0 5 false).full 0 5 = false ∧
    ([.ldfe 1 2, .ldfeE 1 2, .fesetE 2, .fesetF 2, .feq 1 2, .stfe 2 3] : List Instr).all padded.issues = true ∧
    ([.ldfe 1 2, .ldfeE 1 2, .fesetE 2, .fesetF 2, .feq 1 2, .stfe 2 3] : List Instr).all (fun i => (padded.start i).tagGo i 2) = true ∧
    (padded.start (.feq 1 2)).work ≠ 0#32 ∧ padded.queueOf 0 0 = [] ∧ padded.armedIn 2 0 4 = none ∧ padded.full 0 0 = true ∧ (padded.setFull 0 0 false).full 0 0 = false ∧
    (let s := padded.onG fun g => { g with mode := 0x21, preds := Store.put g.preds 1 1 }
     lanesOf (s.start (.ldfeE 1 2)).work = [0] ∧ s.issues (.ldfeE 1 2) = true) ∧ ((noLane padded).start (.feq 1 2)).work = 0#32 ∧ (noLane padded).issues (.feq 1 2) = true ∧
    (padded.start (.stfe 2 3)).releaseWaits padded.g padded.here padded.act 3 = false := by decide +kernel

theorem witness_barriers : ([.tbinit 2 3, .tbarr 1 2 3, .tbret 2, .tbwait 1 2 3] : List Instr).all (fun i => (padded.start i).barGo i 2 && decide ((padded.start i).issuer = some 0)) = true ∧
    (loaderTeam 2).swapped = false ∧ ([.tbinit 2 3, .tbarr 1 2 3, .tbret 2, .tbwait 1 2 3] : List Instr).all padded.issues = true ∧
    ([.tbinit 2 3, .tbarr 1 2 3, .tbret 2] : List Instr).all (noLane padded).issues = true ∧ (noLane padded).issuer = none ∧ padded.issuer = some 0 ∧
    (padded.teamOf padded.g).isSome = true ∧ padded.releaseWaits padded.g padded.here padded.act (padded.scopeOf padded.g 2) = false ∧
    (padded.start (.tbinit 2 57)).barCause (.tbinit 2 57) 0 1 = none ∧ (padded.start (.tbret 2)).barCause (.tbret 2) 8 0 = some 5 ∧
    (let s := padded.arm ((padded.teamOf padded.g).getD (loaderTeam 2)) 0 1 0
     s.issues (.tbwait 1 2 3) = true ∧ (s.start (.tbwait 1 2 3)).barCause (.tbwait 1 2 3) 0 0 = none) := by decide +kernel

/-! ## Witnesses: engines and the matrix unit -/

theorem witness_engine_issue : ([.cpyTile 1 0 63 0, .cpyLin 1 0 63 0, .cpyMem 1 0 63 0, .cpyoTile 1 0 63 0, .cpyoLin 1 0 63 0, .gath 1 0 63 0, .scat 1 0 63 0,
    .walkExact 1 0 63 0, .walkFloor 1 0 63 0] : List Instr).all (fun i => padded.issues i && (noLane padded).issues i &&
      decide ((padded.start i).engTrap ((cmdForm i).getD .linIn) 0 63 0 = none)) = true ∧ padded.isProducer = true ∧ padded.issuer = some 0 ∧
    padded.freeTether padded.g.core = some 0 ∧ (base.start (.cpyLin 1 0 63 0)).engTrap .linIn 0 63 0 = some (9, 0) ∧ base.issues (.cpyLin 1 0 63 0) = true ∧
    (padded.onG fun g => { g with gidx := 1 }).issues (.gath 1 0 63 0) = true := by decide +kernel

/-- A command in tether slot 0 of core 0. -/
def cmdAs (st : TState) (started : Bool) : Command :=
  { core := 0, k := 0, seq := 5, st := st, i := .cpyLin 1 0 63 0, gid := 1, tid := 2, ctx := 0, inc := 0, slot := 0, ostamp := 0, lanes := 1, part := 1,
    grd := 1, blk := [(64, 64#32)], dst := .one 1, bar := none, total := if started then 64 else 0, delivered := 0, walked := 0, code := 0, addr := 0,
    recorded := false, tmap := [], app := false, since := 0, deferred := none, faultAt := 0 }

/-- The machine with that command. -/
def tethered (c : Command) : State := { padded with eng := { base.eng with cmds := [c] } }

theorem witness_engine_sizes : (cmdAs .queued false).form = .linIn ∧ (cmdAs .queued false).lane = 0 ∧ (cmdAs .queued false).reg 2 0 = 64#32 ∧
    ({ cmdAs .queued false with i := .cpyoTile 1 0 63 0 } : Command).form = .tileOut ∧ ({ cmdAs .queued false with i := .gath 1 0 63 0 } : Command).form = .gath := by
  decide +kernel

theorem witness_engine_events : (tethered (cmdAs .queued false)).cmd 0 0 = some (cmdAs .queued false) ∧
    (tethered (cmdAs .queued false)).cmdStarts (cmdAs .queued false) = true ∧ (tethered (cmdAs .queued false)).met.cmdStarts (cmdAs .queued false) = true ∧
    (tethered (cmdAs .queued true)).met.cmdStarts (cmdAs .queued true) = true ∧ (cmdAs .queued true).total ≠ 0 ∧ (cmdAs .queued false).mapped = false ∧
    (tethered (cmdAs .queued false)).met.startCheck { cmdAs .queued false with st := .running } = .inl 64 ∧
    (tethered (cmdAs .running true)).powered (cmdAs .running true) = true ∧ ((tethered (cmdAs .running true)).ctx 0).isSome = true ∧
    (match (tethered (cmdAs .running true)).met.nextHit (cmdAs .running true) with | (_, .fault _ _ true) => true | _ => false) = true ∧
    (cmdAs .ending true).st = .ending ∧ (tethered (cmdAs .ending true)).g.gid = 1 ∧ (tethered (cmdAs .ending true)).cmd 0 0 = some (cmdAs .ending true) := by decide +kernel

/-- A command of the loaded machine's group. -/
def cmdIn (i : Instr) (blk : Store 32) (total : Nat) : Command := { cmdAs .running true with i := i, gid := 2, tid := 1, blk := blk, total := total }

/-- The loaded machine with a command in its tether slot 0. -/
def engineIn (c : Command) : State := { mapped 2 with eng := { (mapped 2).eng with cmds := [c] } }

theorem witness_engine_units : (let c := cmdIn (.cpyLin 1 0 63 0) [(64, 64#32)] 64
      ((engineIn c).met.nextUnit c).2 = .ok ∧ min 1 (c.total / 16) = 1) ∧
    (let c := cmdIn (.cpyLin 1 0 63 0) [(32, 0x80000000#32), (64, 64#32)] 64
     (match ((engineIn c).met.nextUnit c).2 with | .fault _ _ r => !r | _ => false) = true) ∧
    (let c := { cmdIn (.cpyTile 1 0 63 0) [] 0 with st := .queued }
     (engineIn c).met.cmdStarts c = true ∧ c.mapped = true ∧ ((engineIn c).met.readMapBytes c).2.1 = .ok ∧ (engineIn c).met.startCheck c = .inr 1) := by decide +kernel

/-- A reservation of one slab of two steps for an i8 matrix. -/
def reservation : Reserv := { core := 0, tid := 2, idx := 0, gen := 1, off := 0, size := 16384, fmt := 0, klen := 64 }

/-- The machine with that reservation. -/
def reserved : State := { padded with onchip := { base.onchip with reservs := [reservation] } }

theorem witness_reservations : ([.obres 1 2 3, .obrel 2] : List Instr).all reserved.issues = true ∧ ([.obres 1 2 3, .obrel 2] : List Instr).all (noLane reserved).issues =
    true ∧ reserved.issuer = some 0 ∧ reserved.teamOf reserved.g = some { loaderTeam 2 with size := 4096 } ∧ (obresTrap 0 16).isSome = true ∧ obresTrap 0 64 = none ∧
    reserved.freeOp 0 (layoutOf 0 64).size = some 16384 ∧ reserved.freeOp 0 0x40000 = none ∧
    8 ≤ ((List.range 8).map fun k => { reservation with idx := k }).length ∧
    (withU reserved 0 8).handleTrap 8 = none ∧ (withU reserved 0 8).handleBusy 2 8 = false ∧ (withU reserved 0 8).issues (.obrel 56) = true ∧
    (withU reserved 0 9).handleTrap 9 ≠ none := by decide +kernel

/-- An operation at the head of the group's matrix queue. -/
def mop (k : MKind) (h : Nat) : MOp :=
  { kind := k, seq := 3, tile := 0, handle := h, slab := 0, inc := 1, sparse := false, images := [[], []], done := 1, grd := 1, lanes := 1, word := 0, dst := 0,
    addr := 0x40000000, stride := 64, ostamp := 0, rows := 0, entry := 0, batch := none }

theorem witness_matrix_queue : ([.mma 0 0 56 0 1, .mmas 0 0 56 0 0, .mloop 0 0 56 0 1, .accz 0, .accwr 0 56, .accst 56 58, .accrd 0 56] : List Instr).all
      (fun i => reserved.issues i && (noLane reserved).issues i) = true ∧ reserved.g.mqueue.length < 16 ∧
    (let u := (withU reserved 0 8).start (.mma 0 0 56 0 1)
     u.mulTrap false 0 0 (u.rd 56 0) 0 = none) ∧ (reserved.start (.accz 0)).tileTrap 0 = none ∧ ((reserved.start (.accz 1)).tileTrap 1).isSome = true ∧
    (reserved.start (.accwr 0 56)).selTrap 0 = none := by decide +kernel

theorem witness_matrix_batches : ([.mbatch 1, .mwait 1 2] : List Instr).all (fun i => base.issues i && (noLane base).issues i) = true ∧ base.g.openBatches < 8 ∧
    base.g.unbatched = 0 ∧ base.g.batchBusy 0 = false ∧ (base.onG fun g => { g with mqueue := [mop .accz 0] }).g.unbatched = 1 ∧
    (16 : Nat) / 16 ≠ 0 ∧ base.g.batchBusy 16 = false := by decide +kernel

theorem witness_matrix_compression : (typed 3).issues (.mcomp 1 2 0) = true ∧ ((typed 3).start (.mcomp 1 2 0)).w = 64 ∧ (typed 2).issues (.mcomp 1 2 0) = true ∧
    ((typed 2).start (.mcomp 1 2 0)).w ≠ 64 ∧ (noLane (typed 2)).issues (.mcomp 1 2 0) = true ∧ (typed 2).issuer = some 0 := by decide +kernel

/-- The group's queue with one operation. -/
def queued (o : MOp) : State := reserved.onG fun g => { g with mqueue := [o] }

/-- A K-step whose slab carries a poison mark, in a live context that has consumed poison (`p`) or not. -/
def tainted (p : Bool) : State :=
  { queued (mop .step 8) with onchip := { reserved.onchip with opmark := [(reservation.layout.bsz, 1#1)] }, ctxs := [{ Ctx.zero with live := true, poisoned := p }] }

theorem witness_matrix_poison : (tainted true).unitGroup 0 = some (tainted true).g ∧ (tainted true).stepPoisoned reservation 1 = true ∧
    (tainted true).stepPoisoned reservation 0 = false ∧ ((tainted true).ctx base.g.ctx).map (·.poisoned) = some true ∧
    ((tainted false).ctx base.g.ctx).map (fun x => x.live && !x.poisoned) = some true ∧ (queued (mop .step 8)).stepPoisoned reservation 1 = false := by decide +kernel

theorem test_poisoned_step : (match exec (.matrixKstep 0) (tainted true) with | .next t => decide (t.g.mqueue = [] ∧ t.g.mpend = 8) | _ => false) = true := by decide +kernel

theorem witness_matrix_unit : (queued (mop .step 8)).unitGroup 0 = some (queued (mop .step 8)).g ∧ (queued (mop .step 8)).reserv 2 8 = some reservation ∧
    (mop .step 8).images[(mop .step 8).done]? = some [] ∧ (queued (mop .accz 0)).unitGroup 0 = some (queued (mop .accz 0)).g ∧
    (queued (mop .accst 0)).unitGroup 0 = some (queued (mop .accst 0)).g ∧ (mop .accst 0).rows.getLsbD 15 = false ∧
    (let o := { mop .accst 0 with addr := 0x8000000000000000 }
     ((queued o).met.storeFault (queued o).met.g o).2.map (·.2.2) = some false) ∧
    (let s : State := { queued (mop .accst 0) with ctxs := [{ Ctx.zero with ring := 0x5000 }] }
     (s.met.storeFault s.met.g (mop .accst 0)).2.map (·.2.2) = some true ∧ (s.ctx s.g.ctx).map (·.ring) = some 0x5000) ∧
    (let o := { mop .accst 0 with addr := 0, stride := 256, word := 0x200 }
     ((queued o).met.rowPieces (queued o).g o 3).2 = (List.range 16).map (fun p => .chip .scratch (768 + 16 * p)) ∧
       decide (((queued o).met.rowPieces (queued o).g o 3).1 = (queued o).met) = true) ∧ (queued (mop .step 8)).others = [] := by
  decide +kernel

theorem witness_step_arithmetic : (f32.val 0x7FC00000).isNan = true ∧ (f32.val 0).isNan = false ∧ f32.val 0xFF800000 = .inf true ∧
    FVal.mul (f32.val 0x7F800000) (f32.val 0x3F800000) = .inf false := by decide +kernel

/-! ## Witnesses: work in the memory stacks, launches -/

/-- The machine with an IRED command at a base die. -/
def ired (ls : List (Nat × List Nat)) : State :=
  { base with eng := { base.eng with ired := [{ cid := 1, gid := 1, core := 0, slot := 0, ctx := 0, inc := 0, fmt := 3, lines := ls, counter := 0, ls := 0, since := 0, begun := false }] } }

theorem witness_ired : base.issues (.ired 0 0 3) = true ∧ (noLane base).issues (.ired 0 0 3) = true ∧ ((noLane base).start (.ired 0 0 3)).work = 0#32 ∧
    (let s := withV (pteAt 0x3000 0x800000400002CF (mapped 2)) 6 0x1001
     let u := s.start (.ired 0 0 3)
     let e := u.iredEntry (.ired 0 0 3) 0 3
     s.issues (.ired 0 0 3) = true ∧ u.work = 3#32 ∧ u.iredWaits e = false ∧
       (match (u.iredLane u.g e 0).2, ((u.iredLane u.g e 0).1.iredLane u.g e 1).2 with | .ok _, .ok _ => true | _, _ => false) = true) ∧
    (let s := ired [(0x40000000, [0x40000040]), (0x40000080, [])]
     let c := (s.eng.ired.find? (fun x => decide (x.cid = 1))).getD { cid := 0, gid := 1, core := 0, slot := 0, ctx := 0, inc := 0, fmt := 3, lines := [], counter := 0, ls := 0, since := 0, begun := false }
     s.liveTag c.ctx c.inc = true ∧ 2 ≤ c.lines.length ∧ s.met.iredReady c (0x40000000, [0x40000040]) = true ∧ s.m.poisoned 0x40000000 64 = false ∧
       s.m.dirOf (lineOf 0x40000000) = none ∧ s.met.homeFree c.cid c.ctx 0x40000100 = true) ∧
    ((ired []).eng.ired.find? (fun x => decide (x.cid = 1))).map (·.lines) = some [] ∧
    (((ired [(0x800000, [])]).eng.ired.find? (fun x => decide (x.cid = 1))).bind fun c => c.lines.find? fun x => decide (x.1 = 0x800000)) = some (0x800000, []) := by
  decide +kernel

/-- The machine with a sequence queued at pseudo-channel 0. -/
def sequenced (j : BitVec 8) : State :=
  let q : NbSeq :=
    { sid := 1, pc := 0, gid := 1, ctx := 0, inc := j, ticket := 0, page := 0x40000000, ms := false, steps := 1, winc := 0, yields := 0, x0 := 0, x1 := 0, uops := [0],
      t := 0, idx := 0, acc := [], ops := 0, ls := 0, serving := false, since := 0 }
  { base with eng := { base.eng with nb := [q] } }

theorem witness_near_bank : ([.nbrun 1 0 0, .nbwait 1 2, .nbq 1 2] : List Instr).all (fun i => base.issues i && (noLane base).issues i) = true ∧ (base.start (.nbrun 1 0 0)).nbGo 0 = true ∧
    ((base.start (.nbrun 1 0 0)).nbCheck ((base.start (.nbrun 1 0 0)).nbOps 0 0)).2 = .trap 2 0 0 ∧
    (let s := withV (pteAt 0x4000 0x800000400005CF (pteAt 0x3000 0x4001 (mapped 2))) 4 0x10000000
     let u := s.start (.nbrun 1 0 0)
     s.issues (.nbrun 1 0 0) = true ∧ u.nbGo 0 = true ∧ s.issuer = some 0 ∧ (match (u.nbCheck (u.nbOps 0 0)).2 with | .page pa _ => decide (pa = 0x40000000) | _ => false) = true) ∧
    base.issuer = some 0 ∧ (base.start (.nbwait 1 2)).ticketBusy 0 = false ∧ (base.rd 2 0).toNat / 16 = 0 ∧
    ((sequenced 0).eng.nb.find? (fun x => decide (x.pc = 0))).isSome = true ∧ (sequenced 0).liveTag 0 0 = true ∧ (sequenced 1).liveTag 0 1 = false ∧
    (sequenced 0).stackHeld 0x40000000 = false ∧ (sequenced 0).met.pendingAt 0 = [] ∧ (sequenced 0).m.poisoned 0x40000000 16384 = false ∧
    (((sequenced 0).eng.nb.find? (fun x => decide (x.pc = 0))).map fun q => (q.uops[q.idx]?, (sequenced 0).met.rowHeld q 0)) = some (some 0, []) ∧ 0 ∉ (sequenced 0).eng.refresh ∧ (base.eng.nb.find? fun x => decide (x.pc = 0)) = none := by decide +kernel

/-- The machine with a landing and a held packet of context 0, and an endpoint bound to it. -/
def landings (closing : Option Nat) (since : W64) : State :=
  { base with
    eng := { base.eng with
      landings := [{ k := 1, stack := 0, ctx := 0, inc := 0, va := 0x1000, pas := [0x40000000], fmt := 0, expected := 1, landed := 1, buffer := [],
                     closing := closing, written := false }],
      held := [{ k := 2, ctx := 0, inc := 0, hdr := 0x2000, data := [], stack := none, since := since }] },
    fab := { base.fab with endpoints := [(5, 0, 0)] }, dev := { base.dev with time := 1000000 } }

theorem witness_landings : base.issues (.land 0 2 4) = true ∧ (noLane base).issues (.land 0 2 4) = true ∧ base.issuer = some 0 ∧ (base.start (.land 0 2 4)).landGo 2 4 = true ∧
    ([(1, .inr 0x0F), (0x80000001, .inl 2), (0x40000001, .inl 1), (0x01000001, .inl 0)] : List (W32 × (Nat ⊕ Nat))).all (fun p =>
      let s := withU (if p.2.isLeft then pteAt 0x3000 0x800000400002CF (mapped 2) else mapped 2) 2 p.1
      let u := s.start (.land 0 56 58)
      s.issues (.land 0 56 58) && u.landGo 56 58 && decide (s.issuer = some 0) &&
        match u.landCheck (u.landOps 56 58 0), p.2 with
        | (_, .units ps), .inl k => decide (ps.map (·.1) = [0x40000000]) && decide ((u.landOps 56 58 0).op = k)
        | (_, .trap c ..), .inr k => decide (c = k)
        | _, _ => false) = true ∧ (mapped 2).eng.held = [] ∧ (mapped 2).landing 0 0 = none ∧
    (landings none 0).fab.endpoints.find? (fun e => decide (e.1 = 5)) = some (5, 0, 0) ∧ (landings none 0).liveTag 0 0 = true ∧
    (hdrBad (0x1000000000000000000002000#128) = false ∧ (landings none 0).openLanding 0 0x2000 = none ∧
       ((landings none 0).openLanding 0 ((0x1000000000000000000001000#128).setWidth 64)).map (fun x => (x.fmt, x.pas, (landings none 0).met.landReady x.k x 0 1)) =
         some (0, [0x40000000], true) ∧ (landings none 0).m.poisoned 0x40000000 64 = false) ∧
    { landings none 0 with ctxs := [{ Ctx.zero with cur := 1 }] }.liveTag 0 0 = false ∧
    ((landings none 0).eng.held.find? fun p => decide (p.k = 2)).isSome = true ∧ (0#64).toNat + 1000000 ≤ (landings none 0).dev.time.toNat ∧ (landings none 0).landing 0 0x2000 = none ∧
    ((landings (some 1) 0).eng.landings.find? fun x => decide (x.k = 1)).map (fun x => (x.closing, x.written, (landings (some 1) 0).met.landDone x)) = some (some 1, false, true) ∧
    ((landings none 0).landing 0 0x1000).isSome = true := by decide +kernel

/-- A packet of one team with one group, for which every core has room. -/
def packet : Store 8 := Store.putLE (Store.putLE [] 8 4 1) 16 2 0

theorem witness_launch_allocates : base.issues (.launch 1 2 0) = true ∧ (noLane base).issues (.launch 1 2 0) = true ∧ base.issuer = some 0 ∧ ((withU base 0 1).start (.launch 1 56 0)).rd64 56 0 = 1 ∧
    (let s := mapped 2
     let u := s.start (.launch 1 56 0)
     s.issues (.launch 1 56 0) = true ∧ s.issuer = some 0 ∧ (u.homeProbe 0).2 = .ok 0x40000000 false ∧ (u.homeProbe 0).1.m.poisoned 0x40000000 128 = false ∧
       u.launchGo 56 = true) ∧ (1#64).toNat % 128 ≠ 0 ∧ pktTrap packet 0 = none ∧ pktTooBig packet = false ∧ base.wsetOk packet = true ∧ base.freeSlot = some 1 ∧ pktTooBig (Store.put packet 20 0xFF) = true ∧
    pktDeps packet = [] ∧ base.handle 0x80000200 = .unknown ∧
    { base with launches := (List.range 256).map fun k => { loaderLaunch with slot := k } }.freeSlot = none := by decide +kernel

/-- The group belongs to a persistent launch of 8 iterations, 4 to a tile, on one team. -/
def persistent : State :=
  { base with launches := [{ loaderLaunch with packet := Store.putLE (Store.putLE packet 68 4 8) 72 2 4 }] }

theorem witness_launch_status : ([.lwait 1 2 0, .lquery 1 2 0] : List Instr).all (fun i => base.issues i && (noLane base).issues i) = true ∧ base.issuer = some 0 ∧
    base.issues (.iter 0) = true ∧ pktIters (base.packetOf base.g) = 0 ∧ persistent.issues (.iter 0) = true ∧
    pktIters (persistent.packetOf persistent.g) = 8 ∧ (noLane persistent).issues (.iter 0) = true ∧ (persistent.teamOf persistent.g).isSome = true ∧
    0 < pktPerTile (persistent.packetOf persistent.g) ∧ base.issues (.fixup 1 2) = true ∧
    (noLane base).issues (.fixup 1 2) = true ∧ base.settleLwaits = base ∧ (base.launchStatus 0).getLsbD 31 = true ∧ (base.launchStatus 0x100).getLsbD 31 = false ∧
    (let s : State := { mapped 2 with launches := (mapped 2).launches.map fun x => { x with packet := Store.putLE (Store.putLE packet 68 4 8) 72 2 4 } }
     let u := s.start (.fixup 1 56)
     let r := u.fixupTarget (pktFixup (s.packetOf s.g))
     s.issues (.fixup 1 56) = true ∧ s.issuer = some 0 ∧ (u.rd 56 0).toNat = 0 ∧ r.2 = .ok .vm 0x40000000 0 false ∧ u.fixupGo 56 = true ∧
       r.1.m.poisoned 0x40000000 4 = false ∧ r.1.m.dirOf (lineOf 0x40000000) = none ∧ r.1.m.l2Line (lineOf 0x40000000) = none) := by decide +kernel

/-- The launch of slot 0 in a state. -/
def launched (st : LState) (left : Nat) : State := { base with launches := [{ loaderLaunch with st := st, ended := 1 - left }] }

theorem witness_launch_events : ((launched .running 0).slot 0).map (fun l => (l.st, l.left, pktDone l.packet)) = some (.running, 0, 0) ∧
    ((launched .waiting 1).slot 0).map (fun l => ((pktDeps l.packet).any (launched .waiting 1).depFault, (pktDeps l.packet).all (launched .waiting 1).depMet)) =
      some (false, true) ∧ (launched .waiting 1).liveTag 0 0 = true ∧
    ((launched .running 0).slot 0).map (launched .running 0).met.launchQuiet = some true ∧
    (let s : State := { launched .waiting 1 with launches := [{ loaderLaunch with st := .waiting, packet := Store.putLE (Store.put packet 11 1) 48 4 0x201 },
        { loaderLaunch with slot := 1, sequ := 2, st := .ended, fault := true }] }
     (s.slot 0).map (fun l => ((pktDeps l.packet).any s.depFault, s.met.launchQuiet l)) = some (true, true)) := by decide +kernel

/-! ## Witnesses: placement, splits, moves -/

/-- A queued launch in slot 0 with a packet, and no group. -/
def waitingToRun (p : Store 8) : State := { State.reset with launches := [{ loaderLaunch with st := .queued, packet := p, placed := 0 }] }

theorem witness_placement : (let s := (waitingToRun packet).met
    let l := ((s.slot 0).getD loaderLaunch)
    pktControl l.packet = false ∧ s.wantsPlace l = true ∧ s.evicting l = false ∧ s.unplaced l = [] ∧ s.gangCores l = some [0]) := by decide +kernel

theorem witness_placement_next : (let s := (waitingToRun packet).met
    s.isNext ((s.slot 0).getD loaderLaunch) = true) := by decide +kernel

/-- A launch whose one team a rollback has restored. -/
theorem witness_placement_again : (let s := { waitingToRun packet with teams := [{ loaderTeam 2 with core := 1023 }], launches := [{ loaderLaunch with packet := packet }] }.met
    let l := ((s.slot 0).getD loaderLaunch)
    s.wantsPlace l = true ∧ s.evicting l = false ∧ s.unplaced l ≠ [] ∧ s.gangCores l = some [0] ∧ s.isNext l = true) := by decide +kernel

theorem witness_control_placement : (let s := (waitingToRun (Store.putLE packet 12 4 0x800)).met
    let l := ((s.slot 0).getD loaderLaunch)
    pktControl l.packet = true ∧ s.wantsPlace l = true ∧ pktGang l.packet = 1 ∧ s.unplaced l = [] ∧
      (s.launches.any fun x => s.wantsPlace x && pktControl x.packet && x.before l) = false ∧ s.controlCore = some 256) := by decide +kernel

/-- A group that holds all registers of core 0, and a queued launch of higher priority of four teams for which no other cluster is open. -/
def crowded : State :=
  let p := Store.putLE (Store.putLE [] 8 4 4) 12 4 0x26000000
  let s := ofG fun g => { g with nregs := 4096, base := 4096 }
  let t : State := { s with launches := [loaderLaunch, { loaderLaunch with slot := 1, st := .queued, packet := p, placed := 0, order := 1 }] }
  (List.range 63).foldl (fun s k => s.onCore (4 * k + 4) fun r => { r with closed := true }) ((t.newImage 0 1 false grp.frames).newImage 0 2 true 1)

theorem witness_preemption : (crowded.met.slot 1).map (fun l => (pktControl l.packet, crowded.met.wantsPlace l, crowded.met.evicting l, crowded.met.isNext l)) =
    some (false, true, false, true) ∧ (crowded.met.slot 1).map crowded.met.gangCores = some none ∧
    (crowded.met.slot 1).map crowded.met.preemptPlan = some (some ([1], [0, 1, 2, 3])) := by decide +kernel

/-- The group was asked to yield by TIME 0. -/
def asked2 : State := ofG fun g => { g with yreq := 0x8000000000000000 }

/-- The group's eviction is forced; its team's images have entries on the core. -/
def evicting : State := ofG fun g => { g with forced := true, log := [] }

/-- No other group goes by the name. -/
theorem only_of_none {s : State} (h : s.others = []) (g : Group) (hg : g ∈ s.groups) : s.isOnly g := by
  intro x hx _ _
  simp only [State.groups, h, List.mem_singleton] at hx hg
  rw [hx, hg]

theorem witness_evictions : (asked2.met.find 1).map (fun g => (g.place, asked2.met.expired g.yreq)) = some (.resident, true) ∧
    ([false, true].all fun b =>
      let s : State := if b then evicting else { (evicting.newImage 0 2 true 1).newImage 0 9 false 431 with teams := padded.teams }
      match s.met.find 1 with
      | some g => g.forced && decide (g.place = .resident) && decide (g.core < 256) && s.met.evictable g && !s.met.teamHeld g && decide (s.met.canLeave g = b)
      | none => false) = true ∧
    ([false, true].all fun b =>
      let s : State := { ofG fun g => { g with place := .evicted } with teams := [{ loaderTeam 2 with swapped := b }] }
      match s.met.find 1 with
      | some g => s.met.resumes g && g.log.isEmpty && decide ((s.met.teamOf g).map (·.swapped) = some b) && (s.met.swapIn 2 0 0).isSome
      | none => false) = true ∧
    (let s : State := ofG fun g => { g with splits := [none, none, none, none] }
     (s.met.find 1).map s.met.groupOver = some true) ∧ evicting.met.others = [] := by decide +kernel

/-- What a core's record holds. -/
def coreAs (f : CoreRec → CoreRec) : State := base.onCore 3 f

theorem witness_drains : base.issues (.drain 1 2) = true ∧ (noLane base).issues (.drain 1 2) = true ∧ (withU base 0 3).issues (.drain 1 56) = true ∧
    ([3, 0x80000003, 0x40000000] : List W32).map (fun w => let u := (withU base 0 w).start (.drain 1 56)
      (u.drainGo 56, u.drainWord 56 0, u.drainTrap w)) = [(true, 3, none), (true, 0x80000003, none), (true, 0x40000000, some 2)] ∧
    (base.coreRec 3).closed = false ∧ base.draining 3 = false ∧ (coreAs fun k => { k with closed := true }).draining 3 = false ∧
    base.met.lapsed 3 = false ∧ base.met.fw.halted = false ∧ base.met.charged 3 = true ∧ base.met.lapseReady 3 = true ∧
    (coreAs fun k => { k with resumedAt := some 0 }).met.charged 3 = false ∧
    [false, true].map (fun b => let s := (coreAs fun k => { k with lapsed := true, opened := b }).met
      ((s.coreRec 3).lapsed, (s.coreRec 3).opened, s.groups.all fun g => g.log.isEmpty)) = [(true, false, true), (true, true, true)] ∧
    (∀ z ∈ base.met.quarters, 3 ∉ z.gated) ∧ base.fw.runs = true ∧ quarterOf 3 = 0 ∧
    base.quarters[3]? = some { lowered := false, trip := 105, gate := 110, gated := [] } := by decide +kernel

/-- Two splits at one PC. -/
def twin : State := ofG fun g => { g with splits := [some { Split.init with pc := 0x100, mask := 0xFFFF }, some { Split.init with pc := 0x100, mask := 0xFFFF0000 }, none, none] }

/-- A split that is held at its reconvergence point by one below it. -/
def heldSplit : State :=
  ofG fun g => { g with splits := [some { Split.init with pc := 0x100, mask := 0xFFFF, rp := some 0x100, hold := 65536 },
    some { Split.init with pc := 0x80, mask := 0xFFFF0000 }, none, none] }

theorem witness_split_events : (heldSplit.met.find 1).map (fun g => (g.held 0, (g.split 0).map (·.hold))) = some (true, some 65536) ∧
    (twin.met.find 1).map (fun g => ((g.split 0).map fun x => (x.pc, x.wait.merges), (g.split 1).map fun x => (x.pc, x.wait.merges), g.atClose 0, g.atClose 1)) =
      some (some (0x100, true), some (0x100, true), false, false) ∧
    (let s := ofSplit fun x => { x with wait := .yield 1 0x200 7 }
     (s.met.find 1).map (fun g => ((g.split 0).map (·.wait), g.owes 1 7)) = some (some (.yield 1 0x200 7), false)) ∧
    (let s := ofSplit fun x => { x with wait := .retryParked 3 }
     (s.met.find 1).map (fun g => ((g.split 0).map (·.wait), g.place)) = some (some (.retryParked 3), .resident) ∧
       (s.met.parkedOn 0).map (·.1) = [3] ∧ s.met.others = []) ∧
    (let s : State := ofG fun g => { g with trap := some rep }
     s.met.quiet = true ∧ s.g.trap = some rep ∧ s.g.place = .resident) ∧
    (let s : State := { ofG (fun g => { g with core := 256 }) with reports := [{ ctl := 256, cause := 0x1C, record := 0 }] }
     let w := s.met.writeRecords 256
     (w.reportGroup 256).map (fun g => (g.bank, g.trap)) = some (0, none) ∧ w.others = [] ∧
       (w.reports.filter fun r => decide (r.ctl = 256)).getLast? = some { ctl := 256, cause := 0x1C, record := 0 }) := by decide +kernel

/-- The team has registers and tiles to give. -/
def pooled : State := (State.newImage { base with teams := [{ loaderTeam 2 with xregs := 3, xtiles := 5 }], launches := [{ loaderLaunch with packet := Store.put (Store.put packet 20 3) 21 5 }] } 0 1 false grp.frames)

theorem witness_allotments : ([0, 1] : List (BitVec 6)).all (fun k =>
      let s := withU pooled 0 2
      let u := s.start (.xacq 1 56 k)
      s.issues (.xacq 1 56 k) && u.xacqGo 56 (decide (k = 1)) && decide (u.xacqTrap (decide (k = 1)) 2 = none) && decide ((u.value 56).toNat = 2)) = true ∧
    ([0, 1] : List (BitVec 6)).all (fun k =>
      let s := (withU pooled 0 2).onG fun g => { g with nregs := 128, ntiles := 3 }
      let u := s.start (.xrel 1 56 k)
      s.issues (.xrel 1 56 k) && decide (u.xrelTrap (decide (k = 1)) 2 = none) && u.unitsIdle (decide (k = 1)) 2) = true ∧
    (let s := { withU pooled 0 2 with teams := [{ loaderTeam 2 with xregs := 1 }] }
     s.issues (.xacq 1 56 0) = true ∧ (s.start (.xacq 1 56 0)).xacqGo 56 false = false) ∧
    ([false, true].all fun b =>
      let q : XWait := { gid := 1, n := 2, d := 1 }
      let s := { pooled with teams := [{ loaderTeam 2 with xregs := 3, xtiles := 5, queueR := [q], queueT := [q] }] }
      match s.met.find 1 with
      | some g => decide (g.place = .resident) && g.trap.isNone && decide (g.tid = 2) && !s.met.lapsed g.core && s.met.unitsFree g b 2
      | none => false) = true ∧
    (base.start (.xacq 1 56 0)).xacqTrap false 32 = some (0x15, some 32) ∧ pooled.others = [] := by decide +kernel

/-- A group that a GMIG is to take to core 9. -/
def going (dest : Option Nat) (pl : Place) : State :=
  ofG fun g => { g with place := pl, gmove := some { id := 2, dest := dest, reason := 1, dst := .none, grd := 1 } }

/-- The move of `going`. -/
def moveOf (dest : Option Nat) : GMove := { id := 2, dest := dest, reason := 1, dst := .none, grd := 1 }

theorem witness_moves : (let s : State := (mapped 2).onG fun g => { g with gidx := 1 }
    let t : State := { s with teams := s.teams.map fun x => { x with size := 0 } }
    let u := t.start (.gmig 1 56 4)
    t.issues (.gmig 1 56 4) = true ∧ u.gmigGo 56 = true ∧ u.gmigTrap = none ∧ (match (u.gmigXlate 56).2 with | .ok pa _ => decide (pa = 0x40000000) | _ => false) = true) ∧
    (let s : State := ofG fun g => { g with gidx := 1 }
     let u := s.start (.gmig 1 56 4)
     s.issues (.gmig 1 56 4) = true ∧ u.gmigTrap = none ∧ (match (u.gmigXlate 56).2 with | .fault .. => true | _ => false) = true) ∧
    (base.start (.gmig 1 56 4)).gmigTrap = some 0x0A ∧
    tierOf 0x8000000000 = none ∧ tierOf 0x8000000000000 = some .pool ∧ tierOf 0x40000000 = some .hbm ∧
    [none, some 9].map (fun d => ((going d .resident).met.find 1).map fun g => ((going d .resident).met.moveReady g (moveOf d), (going d .resident).met.roomFor g 9)) =
      [some (true, true), some (true, true)] ∧
    (let s := (going (some 9) .resident).onCore 9 fun k => { k with closed := true }
     (s.met.find 1).map (fun g => (s.met.moveReady g (moveOf (some 9)), s.met.roomFor g 9)) = some (true, false)) ∧
    (going (some 9) (.moving 9)).met.lapsed 9 = false ∧ (going (some 9) (.moving 9)).met.lapsed 0 = false ∧
    ((going (some 9) (.moving 9)).onCore 9 fun k => { k with lapsed := true }).met.lapsed 9 = true ∧
    (going (some 9) (.moving 9)).met.imageRoom 9 (going (some 9) (.moving 9)).g.frames = true ∧
    ((going (some 9) (.moving 9)).newImage 9 10 false 432).met.imageRoom 9 (going (some 9) (.moving 9)).g.frames = false := by decide +kernel

/-- A least value of a function on a list is a value of it. -/
theorem least_is_value (f : Nat → Nat) : ∀ (l : List Nat) (a : Nat), ∃ k ∈ a :: l, l.foldl (fun m k => min m (f k)) (f a) = f k
  | [], a => ⟨a, by simp⟩
  | x :: t, a => by
    rcases Nat.le_total (f a) (f x) with h | h
    · obtain ⟨k, hk, e⟩ := least_is_value f t a
      exact ⟨k, by simp only [List.mem_cons] at hk ⊢; exact hk.imp_right .inr, by simpa [Nat.min_eq_left h] using e⟩
    · obtain ⟨k, hk, e⟩ := least_is_value f t x
      exact ⟨k, List.mem_cons_of_mem a hk, by simpa [Nat.min_eq_right h] using e⟩

/-- Whatever the distances (log 12), an address has a lowest nearest core. -/
theorem nearest_core (pa : Nat) : ∃ k ∈ nearestCores pa, ∀ j ∈ nearestCores pa, ¬j < k := by
  have some_core : ∃ k, k ∈ nearestCores pa := by
    obtain ⟨k, hk, e⟩ := least_is_value (fun k => Config.distance k pa) (List.range 256) 0
    refine ⟨k, List.mem_filter.mpr ⟨?_, by simpa [nearestCores] using e.symm⟩⟩
    rcases List.mem_cons.mp hk with rfl | h
    · simp
    · exact h
  obtain ⟨k, hk⟩ := some_core
  induction k using Nat.strongRecOn with
  | ind k ih =>
    by_cases h : ∃ j ∈ nearestCores pa, j < k
    · obtain ⟨j, hj, l⟩ := h
      exact ih j l hj
    · exact ⟨k, hk, fun j hj l => h ⟨j, hj, l⟩⟩

theorem witness_lookup : mgmt.g.core = 288 ∧ ((List.range 256).all fun k => mgmt.roomFor mgmt.g k) = true ∧
    (∃ k, (ofG fun g => { g with core := k }).g.core ∈ nearestCores 0x40000000 ∧ ∀ j ∈ nearestCores 0x40000000, ¬j < k) ∧
    (let s := mgmt.onG fun g => { g with nregs := 5000 }
     ((List.range 256).any fun k => s.roomFor s.g k) = false) := by
  obtain ⟨k, h⟩ := nearest_core 0x40000000
  exact ⟨by decide +kernel, by decide +kernel, ⟨k, h⟩, by decide +kernel⟩

/-! ## Witnesses: coherence, parking, flash, checkpoints, the device -/

/-- A line that staging cache 0 (agent 32) owns, with one dirty word or none. -/
def staged (dirty : Bool) : State :=
  let w : DirtyWord := { word := 0x10000000, core := 0, slot := 0, ctx := 0, inc := 0, ostamp := 0, gid := 1, ls := 0 }
  let k : KeelLine := { cache := 0, line := 0x800000, ms := false, data := [], bad := 0, dirty := if dirty then [w] else [], since := 0, got := 0 }
  { base with m := { base.m with keel := [k], dir := [{ line := 0x800000, owner := some 32, sharers := [] }] }, dev := { base.dev with time := 5000 } }

/-- A line with two sharers. -/
def shared : State := { base with m := { base.m with dir := [{ line := 0x800000, owner := none, sharers := [3, 32] }] } }

/-- A line under a lease. -/
def leased (line : Nat) (s : State) : State := { s with m := { s.m with leases := [(line, 9000)] } }

theorem witness_directory : base.met.fillWaits (snoopName 0x800000) 31 0x800000 = false ∧ base.met.fillWaits 32 32 0x800000 = false ∧ base.met.stackHeld (128 * 0x800000) = false ∧
    base.met.m.keelLine 0 0x800000 = none ∧ base.met.m.keel = [] ∧ (shared.met.m.dirEntry 0x800000).owner = none ∧ 3 ∈ (shared.met.m.dirEntry 0x800000).sharers ∧
    (staged true).met.ownerHeld 0x800000 = false ∧ ((staged true).met.m.dirEntry 0x800000).owner = some 32 ∧
    (staged true).met.canWriteBack 32 0x800000 = true ∧ (leased 0x800000 (staged true)).met.canWriteBack 32 0x800000 = false ∧
    ((staged true).met.m.keelLine 0 0x800000).map (staged true).met.gleans = some true ∧
    ((leased 0x800000 (staged true)).met.m.keelLine 0 0x800000).map (leased 0x800000 (staged true)).met.gleans = some true ∧
    (((staged true).met.m.keel.filter fun k => decide (k.line = 0x800000) && !k.dirty.isEmpty).all ((staged true).met.lineReady 1)) = true := by decide +kernel

theorem witness_coherence : tierOf (128 * 0x100000000000) = some .pool ∧ base.met.ownerHeld 0x100000000000 = false ∧ base.met.leaseOver 0x100000000000 = true ∧
    (leased 0x100000000000 base).met.leaseOver 0x100000000000 = false ∧ base.met.windowsShut 0x800000 = true ∧
    (let p : PoolWrite := { pa := 0x8000000000000, size := 4, old := 0, rid := 4, gid := 1, log := 7, lanes := 1, ctx := 0, inc := 0, since := 0, path := 0 }
     let s := { base with fab := { base.fab with poolWrites := [p] } }
     s.met.fab.poolWrites.find? (fun p => decide (p.rid = 4)) = some p) ∧
    (let y : L2Line := { line := 0x800000, data := [(0, 1)], bad := 0, dirty := true, count := 0 }
     let s := { base with m := { base.m with l2 := [y] } }
     s.met.windowsShut 0x800000 = true ∧ s.m.l2Line 0x800000 = some y ∧ Store.wf y.data = true) := by decide +kernel

/-- A parked group. -/
def parked (time : W64) : State :=
  { base with g := { base.g with parking := some { reason := 1, start := 0, pend := 1, xfer := none } }, dev := { base.dev with time := time } }

/-- A load of a page that is being relocated, of a group that has parked for it or has not. -/
def deferring (p : Option Parking) : State :=
  let s := asked (entry (.ld 1 56 0 0) 1 0 [(0, 0x1000#64)] [] (.one 1)) { reqOf .load .vm 0x40000000000 4 false with va := 0x1000 }
  { s with fl := { s.fl with relocating := [0x40000000] } }.onG fun g => { g with parking := p }

theorem witness_parking : ((parked 0).met.find 1).map (fun g => (g.place, g.parking.map ((parked 0).met.stillParked g), g.log)) = some (.resident, some false, []) ∧
    (0#64).toNat + 100000000 ≤ (parked 100000000).dev.time.toNat ∧ (parked 0).dev.time.toNat < (0#64).toNat + 100000000 ∧ (parked 0).met.others = [] ∧
    ([none, some { reason := 1, start := 0, pend := 2, xfer := none }] : List (Option Parking)).all (fun p =>
      let t := (deferring p).met
      match t.m.reqs.find? fun r => decide (r.rid = 9) with
      | some r => decide (r.kind = .load) && t.liveTag r.ctx r.inc && t.deferred r && !t.reqWaits r && decide ((t.find r.gid).map (·.parking) = some p)
      | none => false) = true ∧
    base.met.lapsed 0 = false := by decide +kernel

/-- A load of a stack that sleeps, whatever its number, for more than 2 ms. -/
def sleeping : State :=
  let s := asked (entry (.ld 1 56 0 0) 1 1 [] [] (.one 1)) (reqOf .load .vm 0x40000000 4 false)
  { s with eng := { s.eng with selfRefresh := [stackAt 0x40000000] }, dev := { s.dev with time := 2000001 } }

theorem witness_thermal : sleeping.met.find 1 = some sleeping.met.g ∧ sleeping.met.g.parking = none ∧ sleeping.met.g.place = .resident ∧ sleeping.met.others = [] ∧
    0#64 ∈ sleeping.met.heldSince sleeping.met.g ∧ (0#64).toNat + 2000000 < sleeping.dev.time.toNat ∧
    sleeping.met.stillParked sleeping.met.g { reason := 2, start := 0, pend := 1, xfer := none } = true := by
  have held : 0#64 ∈ sleeping.met.heldSince sleeping.met.g := by
    refine List.mem_append_left _ (List.mem_map.mpr ⟨reqOf .load .vm 0x40000000 4 false, List.mem_filter.mpr ⟨by decide +kernel, ?_⟩, by decide +kernel⟩)
    have h : sleeping.met.stackHeld (reqOf .load .vm 0x40000000 4 false).key = true := by
      simp only [State.stackHeld, Bool.and_eq_true, List.any_eq_true, decide_eq_true_eq]
      exact ⟨by decide +kernel, stackAt 0x40000000, List.mem_singleton.mpr rfl, rfl⟩
    rw [h]
    decide +kernel
  refine ⟨by decide +kernel, by decide +kernel, by decide +kernel, by decide +kernel, held, by decide +kernel, ?_⟩
  simp only [State.stillParked, if_true, decide_eq_true_eq]
  exact List.ne_nil_of_mem held

theorem witness_errors : tierOf 0x40000000 = some .hbm ∧ tierOf (32 * 0x2000000) = some .hbm ∧ base.eng.held = [] ∧
    (let y : ColUnit := { core := 0, unit := 1, data := [(0, 1)] }
     let s := { base with onchip := { base.onchip with colbuf := [y] } }
     s.met.lapsed 0 = false ∧ s.onchip.colbuf.filter (fun y => decide (y.core = 0)) = [y] ∧ Store.wf y.data = true) ∧
    (base.channel 5).calAt.toNat + base.fab.calEvery.toNat ≤ ({ base with dev := { base.dev with time := 64000000 } } : State).dev.time.toNat := by decide +kernel

/-- An open stream of context 0 with 256 accepted bytes. -/
def stream (st : StreamState) : Stream :=
  { base := 0x40000000000, size := 0x200000, owner := 0, st := st, accepted := 256, durable := 128, sealv := 256, closes := [], leaves := [] }

/-- The loaded machine, with a stream that its owner maps at 0x40000000 and the block of an APPEND of 128 bytes in r8 to r12. -/
def mappedStream (durable : Nat) (st : StreamState) : State :=
  let s := withV (pteAt 0x3008 0x00A00400000008C1 (withV (mapped 2) 8 0x40000000)) 12 1
  { s with fl := { s.fl with streams := [{ stream st with durable := durable }] } }

/-- The machine with a stream, and an APPEND of 128 bytes in the log whose source is read. -/
def streaming (st : StreamState) : State :=
  let e := { entry (.append 1 8 0) 1 1 [(0, 128#64)] [(1, 1#64)] (.one 1) with aux := 0x40000000000 }
  { logged e with fl := { base.fl with streams := [stream st] } }

theorem witness_streams : ([.append 1 8 0, .apseal 1 8 0, .apwait 1 8 10 0] : List Instr).all (fun i => base.issues i && (noLane base).issues i) = true ∧
    base.settleApwaits = base ∧ base.issuer = some 0 ∧ (streaming .opened).stream 0x40000000000 = some (stream .opened) ∧ (streaming .opened).met.others = [] ∧
    ((streaming .opened).met.groups.find? fun g => g.present && g.log.any fun x => decide (x.seq = 7)) = some (streaming .opened).met.g ∧
    ((streaming .opened).met.g.entryOf 7).map (fun e => (e.i, decide (e.flight ≠ 0#32), Store.get e.val 1, (streaming .opened).met.g.appendsBefore e, Store.get e.val 0, e.aux)) =
      some (.append 1 8 0, true, 1, false, 0, 0x40000000000) ∧ (stream .opened).accepted + 128 ≤ (stream .opened).size := by decide +kernel

theorem witness_stream_commands : ([(128, .opened), (256, .opened), (256, .sealed)] : List (Nat × StreamState)).all (fun p =>
      let s := mappedStream p.1 p.2
      let u := s.start (.append 1 8 0)
      let v := s.start (.apseal 1 8 0)
      let x := { stream p.2 with durable := p.1 }
      s.issues (.append 1 8 0) && u.appendGo 8 && (match (u.appendCheck 8 0).2 with | .ok .. => true | _ => false) && s.issues (.apseal 1 8 0) && v.apsealGo 8 &&
        (match v.nameStream (v.rd64 8 0) with | .stream y => decide (y = x) | _ => false) && decide (s.issuer = some 0) && decide (v.stream x.base = some x)) = true ∧
    (base.start (.append 1 8 0)).appendGo 8 = true ∧ (match ((base.start (.append 1 8 0)).appendCheck 8 0).2 with | .trap .. => true | _ => false) = true ∧
    (base.start (.apseal 1 8 0)).apsealGo 8 = true ∧ (match (base.start (.apseal 1 8 0)).nameStream 0 with | .trap .. => true | _ => false) = true ∧
    fresh (mappedStream 128 .opened) = true := by decide +kernel

/-- Weight set 5 with generation 1, which the group may pin. -/
def published (pins : List Pin) : State :=
  { (ofG fun g => { g with pins := pins }) with
    fl := { base.fl with streams := [stream .sealed], sets := [{ ws := 5, cur := 1, recs := [{ gen := 1, stream := 0x40000000000, gbase := 0, pages := 1, gpins := 0, lpins := 0, released := [] }] }] } }

theorem witness_weight_sets : (let s := withU (published []) 0 5
    s.issues (.wsget 0 56 0) = true ∧ s.issuer = some 0 ∧ ((s.wset 5).bind fun ws => ws.rec_ ws.cur).isSome = true ∧ s.g.pins.length < 4) ∧
    (withU (published []) 0 0x80000005).issues (.wsget 0 56 0) = true ∧ (noLane (published [])).issues (.wsget 0 56 0) = true ∧
    (let s := withU (withU (published [{ ws := 5, gen := 1 }]) 0 5) 1 1
     let u := s.start (.wsrel 56 57 0)
     s.issues (.wsrel 56 57 0) = true ∧ u.readsPending u.g u.here u.act = false ∧ ({ ws := 5, gen := 1 } : Pin) ∈ s.g.pins) ∧
    base.issues (.wsset 0 4 8 0) = true ∧ (noLane base).issues (.wsset 0 4 8 0) = true ∧ wssetBad (base.rd 4 0) = false ∧ bits (base.rd 4 0).toNat 31 28 ≠ 1 ∧
    (let s := withU base 0 0x10000005
     let u := s.start (.wsset 0 56 8 0)
     s.issues (.wsset 0 56 8 0) = true ∧ u.releaseWaits u.g u.here u.act 6 = false) ∧
    (base.wsCreate 1 0).2.1 = 0 ∧ (base.wsCreate 513 0).2.1 = 1 ∧ (let s := pteAt 0x3008 0x00A0040000000063 (mappedStream 256 .sealed)
     (s.wsPublish 7 0x40000000000 0x40000000).2.1 = 0 ∧ (s.wsRegister true 0x3008 0x40000000000).2.1 = 0 ∧ (s.wsDelete 0x40000000000).2.1 = 0) ∧ (base.wsPublish 7 0x40000000000 0).2.1 = 6 ∧
    (base.wsDelete 0x40000000000).2.1 = 6 ∧ ((published []).wsDelete 0x40000000000).2.1 ≠ 0 ∧ ((published []).wsRegister false 0 0x40000000000).2.1 = 0 := by decide +kernel

theorem witness_relocation : [[], [0x40000000]].all (fun r =>
      let s := { published [] with fl := { (published []).fl with relocating := r } }.met
      decide ((s.streamAt (4096 * 0x40000000)).map (·.st) = some .sealed) && !s.pagePinned 0x40000000 && decide (s.fl.place 0x40000000 = 0x40000000) &&
        s.pageQuiet 0x40000000 && (s.pageLeaves 0x40000000).isEmpty && Memory.wf s.m.mem && s.fl.moved.isEmpty) = true ∧
    tierOf (4096 * 0x40000800) = some .flash ∧ tierOf (4096 * 0x40000000) = some .flash ∧ (published []).met.streamAt (4096 * 0x40000800) = none := by decide +kernel

/-- The loaded machine with a residency handle of the one page at 0, which asks to move to LPDDR6, and its move. -/
def resident (m : Option (Option W64)) (leaves : List (Nat × W64)) : State :=
  let s := pteAt 0x5000 0x00800000400000CF (pteAt 0x4000 0x5001 (pteAt 0x3000 0x4001 (mapped 2)))
  { s with fl := { s.fl with
      handles := [{ ctx := 0, idx := 0, gen := 1, live := true, base := 0, pages := 1, prio := 0, placement := 2, compress := false }],
      moves := match m with | some t => [{ ctx := 0, idx := 0, toHbm := false, since := 0, leaves := leaves, switching := t }] | none => [] } }

/-- The leaves of that tensor as its move notes them. -/
def noted : List (Nat × W64) :=
  match (resident none []).met.tensor 0 0 with
  | some x => (((resident none []).met.tensorLeaves x).getD []).map fun p => (p.1.slot, pteCore p.1.pte)
  | none => []

theorem witness_residency : ([.thset 1 2 4, .thclr 1 2] : List Instr).all (fun i => base.issues i && (noLane base).issues i) = true ∧ base.issuer = some 0 ∧
    (thsetTrap 1 1 0).isSome = true ∧ thsetTrap 0x1000 1 0 = none ∧ (resident none []).tensorOf 0x100 = (resident none []).tensor 0 0 ∧
    ((resident none []).tensor 0 0).isSome = true ∧ base.tensorOf 0 = none ∧ (resident none []).met.mayMove 0 0 = true ∧
    (((resident none []).met.tensor 0 0).bind (resident none []).met.wish) = some false ∧
    (((resident none []).met.tensor 0 0).bind (resident none []).met.tensorLeaves).isSome = true ∧
    (base.setHandle 0x1000 1 0).2.getLsbD 31 = false ∧ ((resident none []).setHandle 0 1 0).2.getLsbD 31 = true := by decide +kernel

theorem witness_moves_of_tensors : ([none, some 0] : List (Option W64)).all (fun t =>
      let s := (resident (some t) noted).met
      match s.moveOf 0 0, s.tensor 0 0 with
      | some m, some x => (match s.tensorLeaves x with
        | some ls => !m.changed ls && decide (m.switching = t) && !s.switchOver m && s.switchReady m x ls 0x10000000000 && Move.changed { m with leaves := [] } ls
        | none => false)
      | _, _ => false) = true ∧
    (let s := ({ mapped 2 with fl := { (resident (some none) []).fl with handles := ((resident none []).fl.handles.map fun x => { x with base := 0x8000000000 }) } } : State).met
     (s.tensor 0 0).bind s.tensorLeaves = none ∧ (s.tensor 0 0).isSome = true) ∧
    (let s := (pteAt 0x5000 0x01900100000000CF (mapped 2)).met
     let p := BitVec.ofNat 64 (s.m.homeRead 0x5000 8)
     let l : Leaf := { pte := p, level := 1, slot := 0x5000 }
     p.getLsbD 0 = true ∧ pteRule 1 p = 0 ∧ p.getLsbD 56 = true ∧ freshFrames false (4096 * 0x10000001) 1 [(l, 0)] = true ∧ s.fl.zframes = [] ∧ s.leafFree (expandName 0x5000) l = true) := by
  decide +kernel

/-- A machine with a core that has failed its scan, and one that is being scanned. -/
def scanned (time : W64) : State :=
  { ((base.onCore 3 fun k => { k with failed := true }).onCore 4 fun k => { k with scan := some 0 }) with dev := { base.dev with time := time } }

theorem witness_checkpoints : base.issues (.ckclose 1 2 3) = true ∧ (noLane base).issues (.ckclose 1 2 3) = true ∧ (base.start (.ckclose 1 2 3)).ckGo 2 3 = true ∧
    base.ctx 0 ≠ none ∧ base.g.log = [] ∧ (base.groupsOf 0).all (fun g => decide (g.gid = 1)) = true ∧ base.ctx 5 = none ∧
    (let s := withU base 0 1
     s.issues (.ckclose 1 2 56) = true ∧ (s.start (.ckclose 1 2 56)).ckGo 2 56 = true ∧ ((s.start (.ckclose 1 2 56)).rd 56 0).getLsbD 0 = true) ∧
    base.issues (.shseal 1) = true ∧ base.g.onControl = false ∧ (base.start (.shseal 1)).drainedGroup (base.start (.shseal 1)).g = true ∧ mgmt.g.onControl = true ∧
    mgmt.issues (.shseal 1) = true ∧ base.met.imageOf 1 false = none ∧ { base with teams := [] }.met.teamOf base.g = none ∧
    (let s := base.newImage 0 1 false grp.frames
     (s.met.imageOf 1 false).map (fun y => y.newest.isNone) = some true ∧ s.issues (.shseal 1) = true) := by decide +kernel

theorem witness_intervals : (base.met.ctx 0).map (fun x => (x.live, decide (x.openedAt.toNat + 2 ^ 28 ≤ 2 ^ 28))) = some (true, true) ∧ base.met.closeReady 0 = true ∧
    (let r : LogRec := { c := 0, n := 1, line := 0, old := [], bank := [], mask := 0 }
     let s := { base with ck := { base.ck with shares := [(0, 1)], logs := [r] } }
     (s.met.ctx 0).map s.met.shareReached = some true) ∧
    (let s := { base with ck := { base.ck with intervals := [{ c := 0, n := 0, st := .closed, closedAt := 0, cores := [] }] } }
     (s.met.oldestClosed 0).map (fun i => (s.met.scansPassed i, s.met.sealsAt 0 i.n)) = some (true, [])) ∧
    (let s := { State.reset with ctxs := [{ Ctx.zero with cur := 1, live := false, rolling := true }] }
     s.met.tagGone 0 0 = true ∧ s.met.tagGone 0 1 = true ∧ s.met.undoReady 0 = true ∧ (s.met.lastBound 0).groups = []) := by decide +kernel

theorem witness_scans : base.met.scanning = false ∧ base.met.scannable = none ∧ base.met.ck.scanTime ≤ base.met.dev.time ∧ (base.met.coreRec base.met.ck.scanNext).failed = false ∧
    base.met.ck.scanSkipped = [] ∧
    ({ base with ck := { base.ck with scanSkipped := [7] } } : State).met.scannable = some 7 ∧ ((scanned 8000000).coreRec 4).scan = some 0 ∧
    (0#64).toNat + 8000000 ≤ (scanned 8000000).dev.time.toNat ∧ (scanned 7999999).dev.time.toNat < (0#64).toNat + 8000000 ∧
    ((scanned 0).coreRec 3).failed = true ∧ Store.get (scanned 0).ck.spares (quarterOf 3) ≠ 0 ∧ (∀ y ∈ (scanned 0).ctxs, y.rolling = false) := by decide +kernel

/-- A delivery of the words 1, 2, 3 to address 2 of context 0. -/
def deliver : Delivery := { who := 3, ctx := 0, inc := 0, va := 2, data := [1, 2, 3] }

/-- The loaded machine with an endpoint bound to its context, and a byte from outside for a page of its table. -/
def bound (pte : Nat) : State := let s := pteAt 0x3000 pte (mapped 2); { s with fab := { s.fab with endpoints := [(5, 0, 0)], requesters := [(5, 0, 0)] } }

theorem witness_device : base.liveTag 0 1 = false ∧ (base.ctx 0).isSome = true ∧ (base.fab.endpoints.find? fun y => decide (y.1 = 5)) = none ∧
    (bound 0x800000400000CF).fab.deliveries = [] ∧ (bound 0x800000400000CF).liveTag 0 0 = true ∧
    (match ((bound 0x800000400000CF).met.deliverTo deliver (wordPieces 3 2 0 [1, 2, 3])).2 with | .inl ps => ps.length | .inr _ => 0) = 2 ∧
    (let s := pteAt 0x5000 0x01900100000000CF (pteAt 0x4000 0x5001 (bound 0x4001))
     (s.met.deliverTo deliver (wordPieces 3 2 0 [1, 2, 3])).2 = .inr true ∧ s.liveTag 0 0 = true) ∧
    { bound 0 with ctxs := [{ Ctx.zero with cur := 1 }] }.liveTag 0 0 = false ∧
    (let s := { base with ctxs := base.ctxs ++ [{ Ctx.zero with c := 2, cur := 8, live := false, draining := [7], fencers := [{ gid := 1, entry := 0, bank := 0, inc := 7, ended := false }] }] }
     (s.met.ctx 2).map (fun x => x.fencers.map (·.inc)) = some [7] ∧ s.met.drains 2 7 = true ∧ s.met.tagGone 2 7 = true) ∧
    ({ base with fw := { base.fw with recovery := true } } : State).fw.recovery = true ∧ base.fw.fused ≤ 0#32 := by decide +kernel

/-! ## Witnesses: waits, poison, moves of pages, images -/

theorem witness_decode_checks :
    (let bad := fun (t : Nat) (ok : State → Bool) (is : List Instr) => is.all fun i => (typed t).issues i && !ok ((typed t).start i)
     bad 3 (pairs [1, 2, 3]) [.add 1 2 3, .sub 1 2 3, .mul 1 2 3, .mulh 1 2 3, .mad 1 2 3, .div 1 2 3, .rem 1 2 3, .min 1 2 3, .max 1 2 3, .and 1 2 3, .or 1 2 3,
       .xor 1 2 3, .andn 1 2 3, .orn 1 2 3, .sel 1 2 3] = true ∧
     bad 3 (pairs [1, 2]) [.abs 1 2, .addi 1 2 3, .andi 1 2 3, .ori 1 2 3, .xori 1 2 3, .shl 1 2 3, .shr 1 2 3, .rot 1 2 3, .shli 1 2 3, .shri 1 2 3, .brev 1 2,
       .bfx 1 2 3, .bfi 1 2 3, .mov 1 2, .qswapH 1 2, .qswapV 1 2, .qswapD 1 2, .qbcast 1 2 3, .shfl 1 2 3, .shflu 1 2 3, .shfld 1 2 3, .shflx 1 2 3,
       .gscanIncl 1 2 0, .gscanExcl 1 2 0, .gred 1 2 0] = true ∧
     bad 3 (pairs [1]) [.popc 2 1, .clz 2 1, .ctz 2 1, .cmpi 0 1 1 3, .matchLanes 2 1] = true ∧ bad 3 (pairs [1, 2]) [.cmp 0 1 1 2] = true ∧
     bad 2 (floats [1, 2, 3]) [.fadd 1 2 3, .fsub 1 2 3, .fmul 1 2 3, .ffma 1 2 3, .fmin 1 2 3, .fmax 1 2 3] = true ∧
     bad 2 (floats [1, 2]) [.fabs 1 2, .fneg 1 2, .frnd 1 2, .fscale 1 2 3, .frcp 1 2 0, .frsq 1 2 0, .fsqrt 1 2 0] = true ∧
     bad 11 (fun u => floats [2, 4] u && decide (u.w ≠ 64)) [.fexp2 2 4 0, .flog2 2 4 0, .fsin 2 4 0, .fcos 2 4 0] = true ∧
     bad 2 (floats [1, 2]) [.fcmp 0 1 1 2] = true ∧ bad 2 (floats [1]) [.fclass 2 1] = true ∧
     bad 10 (fun u => u.pairsOk [2] && pairOk 1) [.cvt 1 2 11] = true ∧ bad 2 (fun u => u.isFloat && decide (u.w ≠ 64)) [.cvtdx 1 2 2, .cvtmx 1 2 5] = true) := by
  decide +kernel

theorem witness_scans_and_reductions : ([.gscanIncl 1 2 0, .gscanExcl 1 2 1, .gred 1 2 2] : List Instr).all (ready (typed 10) (pairs [1, 2])) = true ∧
    (half.grd ≠ 0#32 ∧ (noLane half).grd ≠ half.grd) := by decide +kernel

theorem witness_slices : (let s := calledIn 128 [8, 64] 2 32
    let ws := frameWords s.g 0 (s.g.win.rb + 8) 8
    let r := s.probeAll .write ws
    r.2.1 = .ok ∧ (r.2.2.map (·.1)).Nodup ∧ r.2.2.length = 8 ∧ r.2.2.all (fun p => decide (p.1 % 4 = 0) && !inStore p.1 && (r.1.m.dirOf (lineOf p.1)).isNone &&
      (r.1.m.l2Line (lineOf p.1)).isNone && r.2.2.all fun q => decide (p.2 = q.2)) = true ∧ r.1.m.races = []) ∧
    (let s := (calledIn 128 [] 1 0).start .ret
     let top := s.g.win.wb
     let r := s.refill top
     let y := s.sliceProbe .read (s.sliceVa s.g ((lowest s.act).getD 0) s.g.win.wsp.toNat)
     r.2.1 = .ok ∧ s.g.nregs ≤ 1024 ∧ y.2.1 = .ok ∧ (y.1.probeAll .read (frameWords s.g s.g.win.wsp.toNat top r.2.2)).2.1 = .ok ∧ r.2.2 ≤ s.g.nregs) := by decide +kernel

/-- The machine of `ctxs` with a request of the pair (2, 7), or one whose RCFENCE has held since before the pair became Unused. -/
def fencing (ended : Bool) : State :=
  if ended then { ctxs 0x7002 with ctxs := [Ctx.zero, { Ctx.zero with c := 2, cur := 8, live := false, fencers := [{ gid := 1, entry := 0, bank := 0, inc := 7, ended := true }] }] }
  else { ctxs 0x7002 with m := { base.m with reqs := [{ reqOf .store .vm 0x40000000 4 false with ctx := 2, inc := 7 }] } }

/-- A boolean reading of `NothingLeft`. -/
theorem nothing_left {s : State} {c : BitVec 12} {j : BitVec 8} (h : (s.m.reqs.isEmpty && s.eng.cmds.isEmpty && s.eng.nb.isEmpty && s.eng.ired.isEmpty &&
    s.eng.landings.isEmpty && s.eng.held.isEmpty && s.fab.deliveries.isEmpty && s.fab.poolWrites.isEmpty && s.m.keel.isEmpty) = true) : NothingLeft s c j := by
  simp only [Bool.and_eq_true, List.isEmpty_iff] at h
  constructor <;> simp [h]

theorem witness_rcfence : NothingLeft (ctxs 0x7002) 2 7 ∧ ¬NothingLeft (fencing false) 2 7 ∧ (fencing false).issues (.rcfence 1 56) = true ∧
    (fencing false).drains 2 7 = true ∧ (fencing true).issues (.rcfence 1 56) = true ∧ (fencing true).issuer = some 0 ∧
    ((fencing true).ctxs.flatMap (·.fencers)).map (fun f => (f.gid, f.entry, f.bank, f.ended)) = [(1, 0, 0, true)] ∧ (fencing true).g.gid = 1 ∧ (fencing true).entry = 0 ∧
    (fencing true).g.bank = 0 ∧ { ctxs 1 with m := { base.m with poison := [0] } }.entryPoisoned 0 = true := by
  refine ⟨nothing_left (by decide +kernel), fun h => ?_, by decide +kernel⟩
  exact h.requests { reqOf .store .vm 0x40000000 4 false with ctx := 2, inc := 7 } (by decide +kernel) ⟨rfl, rfl⟩

/-- Core 3 holds a group that can leave, which the DRAIN of the group in focus waits for. -/
def draining : State :=
  let s := (withU base 0 3).newImage 3 5 false grp.frames
  { s with others := [{ grp with gid := 5, core := 3, slot := 1 }] }

theorem witness_drain_holds : draining.issues (.drain 1 56) = true ∧ draining.issuer = some 0 ∧ (draining.start (.drain 1 56)).drainGo 56 = false ∧
    ((draining.start (.drain 1 56)).drainWord 56 0).toNat % 1024 = 3 ∧ (draining.start (.drain 1 56)).draining 3 = false ∧
    (draining.resident 3).map (fun g => (g.gid, draining.canLeave g, g.yreq.getLsbD 63)) = [(5, true, false)] := by decide +kernel

/-- A lapsed core whose record is open, with an image of a group of context 0. -/
def torn : State := (base.newImage 3 1 false grp.frames).onCore 3 fun k => { k with lapsed := true, opened := true }

theorem witness_torn_resume : (torn.met.coreRec 3).lapsed = true ∧ (torn.met.coreRec 3).opened = true ∧ torn.met.fw.halted = false ∧
    torn.met.ck.images.map (fun i => (i.core, i.team, (torn.met.find i.owner).map (·.ctx))) = [(3, false, some 0)] ∧ (torn.met.ctx 0).map (·.live) = some true ∧
    Store.wf base.dev.evcnt = true ∧ Store.wf (base.coreRec 3).counts = true ∧ base.fw.halted = false := by decide +kernel

theorem witness_escalation : ((deferring (some { reason := 1, start := 0, pend := 1, xfer := none })).g.log.map fun e => ((accSpec e.i e.mode).isSome, e.pend, e.flight)) =
      [(true, 1#32, 0#32)] ∧
    (let x : ParkedXfer := { va := 0x100, ins := 0x76000002, entry := 0 }
     let s : State := { base with g := { base.g with parking := some { reason := 3, start := 0, pend := 0xFFFFFFFF, xfer := some x } } }
     s.g.log = [] ∧ s.g.parking.map (·.xfer) = some (some x)) := by decide +kernel

/-- A poisoned sector at an address. -/
def poisonedAt (pa : Nat) (s : State) : State := { s with m := { s.m.evictL2 (lineOf pa) with poison := [pa / 32] } }

theorem witness_poisoned_tables : (poisonedAt 0x5000 { resident none [] with fl := { (resident none []).fl with handles := [] } }).thsetPoison 0 1 = true ∧
    (resident none []).thsetPoison 0 1 = false ∧ (resident none []).issues (.thset 1 2 56) = true ∧
    (let s := poisonedAt 0x3008 (mappedStream 256 .sealed)
     (s.stream 0x40000000000).any (fun x => s.publishPoison x 0x40000000) = true) ∧
    (mappedStream 256 .sealed).publishPoison (stream .sealed) 0x40000000 = false := by decide +kernel

theorem witness_retarget : (let s := resident none []
    let p := BitVec.ofNat 64 (s.m.homeRead 0x5000 8)
    let l : Leaf := { pte := p, level := 1, slot := 0x5000 }
    Memory.wf s.m.mem = true ∧ (s.m.l2.all fun y => y.data.all fun q => decide (q.1 < 128)) = true ∧ inStore l.slot = false ∧ s.m.dirOf (lineOf l.slot) = none ∧ ptePa p = 0x40000000 ∧ pageBytes 1 = 4096 ∧ s.wildFrame l = false ∧
      (0x10000000000 : Nat) % 4096 = 0) := by decide +kernel

theorem witness_page_expansion : ([true, false].all fun b =>
      let s : State := if b then pteAt 0x5000 0x01900100000000CF (mapped 2) else leased (lineOf 0x5000) (pteAt 0x5000 0x01900100000000CF (mapped 2))
      let l : Leaf := { pte := BitVec.ofNat 64 (s.met.m.homeRead 0x5000 8), level := 1, slot := 0x5000 }
      decide (s.met.leafFree (expandName 0x5000) l = b) && Memory.wf s.m.mem && (s.m.l2.all fun y => y.data.all fun q => decide (q.1 < 128)) && (s.m.dirOf (lineOf 0x5000)).isNone) = true := by decide +kernel

theorem witness_move_given_up : (let s := (resident (some none) noted).met
    ((s.moveOf 0 0).map s.mustAbandon = some false) ∧
    (((resident (some none) []).met.moveOf 0 0).map (resident (some none) []).met.mustAbandon = some true) ∧
    ((resident (some (some 0)) noted).met.moveOf 0 0).map (fun m => (resident (some (some 0)) noted).met.switchOver m) = some false) := by decide +kernel

/-- A group and its team with images on core 0. -/
def imaged : State := ((padded.newImage 0 1 false grp.frames).newImage 0 2 true 1)

theorem witness_seals : imaged.issues (.shseal 1) = true ∧ imaged.g.onControl = false ∧ (imaged.start (.shseal 1)).drainedGroup (imaged.start (.shseal 1)).g = true ∧
    imaged.g.log = [] ∧ (imaged.met.teamOf imaged.g).map (·.tid) = some 2 ∧ (imaged.met.imageOf 1 false).isSome = true ∧ (imaged.met.imageOf 2 true).isSome = true ∧
    ((imaged.met.imageOf 1 false).bind (·.newest)).isNone = true := by decide +kernel

theorem witness_repair : (let s : State := { scanned 0 with ck := { (scanned 0).ck with passed := Store.put [] 0 1 } }
    (s.coreRec 3).failed = true ∧ Store.get s.ck.spares (quarterOf 3) ≠ 0 ∧ Store.get s.ck.passed (quarterOf 3) ≠ 0) ∧
    ((scanned 0).onCore 4 fun k => { k with scan := some 0 }).met.scanning = true ∧ (scanned 0).met.ck.scanTime ≤ (scanned 0).met.dev.time := by decide +kernel

theorem witness_drained_pair : (let s := { base with ctxs := base.ctxs ++ [{ Ctx.zero with c := 2, cur := 8, live := false, draining := [7], fencers := [{ gid := 1, entry := 0, bank := 0, inc := 7, ended := false }] }] }
    (s.met.ctx 2).map (fun x => x.fencers.map (·.inc)) = some [7] ∧ s.met.drains 2 7 = true) ∧
    NothingLeft ({ base with ctxs := base.ctxs ++ [{ Ctx.zero with c := 2, cur := 8, live := false, draining := [7] }] } : State) 2 7 :=
  ⟨by decide +kernel, nothing_left (by decide +kernel)⟩

theorem witness_session : ({ base with fw := { base.fw with spdm := { base.fw.spdm with keyed := true } } } : State).fw.spdm.keyed = true ∧ base.fw.spdm.keyed = false := by
  decide +kernel

theorem witness_red : (let e := entry (.red 56 2 0 0) 1 1 [] [] .none
    let r := { reqOf .atomic .vm 0x40000000 4 false with log := 7 }
    let s := asked e r
    s.m.reqs.find? (fun q => decide (q.rid = 9)) = some r ∧ s.liveTag r.ctx r.inc = true ∧ s.reqWaits r = false ∧ s.stackHeld r.key = false ∧ s.placeReady r = true ∧
      s.turnOf r = true ∧ s.m.poisoned r.key r.size = false ∧ r.lane < 32 ∧ (s.find r.gid).map (fun g => (g.entryOf r.log).map (·.i)) = some (some (.red 56 2 0 0)) ∧
      (leased (lineOf r.key) s).placeReady r = false) := by decide +kernel

theorem witness_vm_load : (let r := { reqOf .load .vm 0x40000000 4 false with va := 0x40000000 }
    let s := owing (.ld 1 56 0 0) r
    s.m.reqs.find? (fun q => decide (q.rid = 9)) = some r ∧ s.liveTag r.ctx r.inc = true ∧ s.reqWaits r = false ∧ s.passOf r = [r] ∧ s.ownStores r = [] ∧
      s.readable r = true ∧ r.waited = false ∧ r.ofPool = false ∧ s.m.dirOf (lineOf r.key) = none ∧ s.m.poisoned r.key r.size = false ∧ s.met.wild r.ctx r.va r.key = false) := by
  decide +kernel

/-! ## Witnesses: encodings and steps -/

theorem witness_round_trip : (Instr.add 3 4 5).wellFormed = true ∧ (decode 0x02188280#32).toOption = some (.add 3 4 5) := by decide +kernel

/-- The machine after reset with ADD where its step fetches. -/
def placed : State := State.reset.withFetchWord 32 0x02188280

theorem witness_step_issues : placed.fw.stopped = false ∧ placed.mergeDue = none ∧ placed.inputs = [.issue 2 0 []] ∧ placed.slotCycle 2 0 [] = (2, 0) ∧
    (let s : State := { placed with inputs := [] }
     s.fresh % 4 ≠ 3 ∧ s.auto = none ∧ s.readySplit = some (2, 0) ∧
       let u := (s.aged 2 0 []).focus 2 0
       u.g.gid = 2 ∧ (u.g.split 0).isSome = true ∧ u.mayIssue = true ∧ (match u.fetch.2 with | .word w => decide ((decode w).toOption = some (.add 3 4 5)) | _ => false) = true ∧
         (match u.translate u.g.asker .exec u.cur.pc with
          | (v, .ok pa _) => !v.fetchWaits pa && !v.m.poisoned pa 4 && !v.wild v.g.ctx v.cur.pc pa && (v.m.iline v.g.core (lineOf pa)).isNone &&
              decide ((decode (BitVec.ofNat 32 (v.m.homeRead pa 4))).toOption = some (.add 3 4 5))
          | _ => false) = true) := by
  decide +kernel

theorem witness_no_word : (match ((({ placed with inputs := [] } : State).aged 2 0 []).focus 2 0).onG (fun g => g.onSplit 0 fun x => { x with pc := 0x8000000000000000 }) |>.fetch with
    | (_, .trap _) => true | _ => false) = true := by decide +kernel

theorem witness_stopped : ({ base with fw := { base.fw with stopped := true } } : State).fw.stopped = true := by decide +kernel

theorem witness_canonical : Store.wf ({ placed with m := { placed.m with mem := [(3, 1#8), (192, 255#8)] } } : State).m.mem = true ∧ Store.wf placed.onchip.opbuf = true ∧
    Store.wf ([(3, 0#8)] : Store 8) = false ∧ Store.wf ([(4, 1#8), (3, 1#8)] : Store 8) = false := by decide +kernel


/-! ## Decoding: the words of the spec's worked encodings -/

/-- Each word decodes to the instruction beside it, and the encoder gives the word back. -/
def decodesAll (l : List (W32 × Instr)) : Bool := l.all fun x => decide ((decode x.1).toOption = some x.2) && decide (encode x.2 = x.1)

/-- Why the word of these fields is no instruction. -/
def refused (w : W32) : Option DecodeError := match decode w with | .ok _ => none | .error e => some e

theorem test_decode_integer : decodesAll [(0x0220A305, .mad 4 5 6), (0x0C104005, .shli 2 2 5), (0x1098E064, .cmpi 2 3 7 100), (0x14192345, .ihi 3 0x12345), (0x0220432E, .lea 4 2 6 2), (0x02698022, .ctz 13 12), (0x0231022F, .lea 6 8 4 3)] = true := by decide

theorem test_decode_float : decodesAll [(0x42516018, .frcp 10 11 3), (0x4408400A, .cvt 1 2 10)] = true := by decide

theorem test_decode_lanes : decodesAll [(0x62084188, .plog 1 2 3 8), (0x6020A020, .gscanIncl 4 5 0), (0x6030BC09, .shflu 6 5 56), (0x60080028, .gscanExcl 1 0 0), (0x60482012, .voteBallot 9 1), (0x60594030, .gred 11 10 0)] = true := by decide

theorem test_decode_control : decodesAll [(0x727FFFFB, .brc 1 (-5)), (0x74C00010, .call 3 16), (0x76000002, .ret), (0x76000003, .exit), (0x764F4005, .yield 9 58), (0x7A000002, .pushm), (0x7A000003, .popm)] = true := by decide

theorem test_decode_windows : decodesAll [(0xEC272000, .xacq 4 57 0), (0xEC2F2081, .xrel 5 57 1)] = true := by decide

theorem test_decode_memory : decodesAll [(0x88084006, .ldAcq 1 2 0 6), (0x8C084003, .ldh 1 2 0 3), (0x90188102, .lds 3 4 16 2), (0x92188200, .sts 3 4 32 0), (0xA020C390, .amo 4 6 7 2 0), (0xA250C608, .cas 10 6 12 1), (0xA600C380, .red 6 7 0 0)] = true := by decide

theorem test_decode_order : decodesAll [(0xA8006042, .fence 6 1 2), (0xAA000302, .xfence 3 0 2), (0xAA000660, .xfence 6 6 0), (0xAC000001, .pfence 1), (0xAC080006, .icinv 6)] = true := by decide

theorem test_decode_sync : decodesAll [(0xAE284001, .ldfeE 5 2), (0xAE004282, .stfe 2 5), (0xB0308381, .tbarr 6 4 7), (0xB0408302, .tbwait 8 4 6), (0xB007E400, .tbinit 63 8)] = true := by decide

theorem test_decode_streamer : decodesAll [(0xB24A0F10, .cpyTile 9 16 30 2), (0xB4611C81, .cpyoLin 12 8 57 0), (0xB6529F80, .gath 10 20 63 0), (0xBA5B1F81, .walkFloor 11 24 63 0)] = true := by decide

theorem test_decode_matrix : decodesAll [(0xC0171C80, .obres 2 56 57), (0xC4191C11, .mma 3 8 56 2 1), (0xC8101D08, .mloop 2 0 58 1 0), (0xCA280000, .mbatch 5), (0xCC372000, .mwait 6 57), (0xD2008600, .accst 4 12), (0xD6A20008, .mcomp 20 16 1)] = true := by decide

theorem test_decode_near_bank : decodesAll [(0xE0010011, .ired 8 2 1), (0xE2120008, .nbrun 2 16 1), (0xE4184000, .nbwait 3 2), (0xE6184000, .nbq 3 2), (0xE620C401, .land 4 6 8)] = true := by decide

theorem test_decode_launch : decodesAll [(0xE8170000, .launch 2 56 0), (0xE8184001, .lwait 3 2 0), (0xE8184002, .lquery 3 2 0), (0xEA200000, .iter 4), (0xEA30A001, .fixup 6 5)] = true := by decide

theorem test_decode_system : decodesAll [(0xF4204300, .thset 4 2 6), (0xF42F2001, .thclr 5 57), (0xF0200280, .csrr 4 5), (0xF0311801, .csrw 6 0x230), (0xF0000902, .trap 0x12), (0xF0000003, .tret), (0xF2004300, .tlbinv 2 6)] = true := by decide

theorem test_decode_contexts : decodesAll [(0xF21F0001, .ctxstart 3 56), (0xF2390484, .eres 7 8 9), (0xF21F2005, .drain 3 57), (0xF2000006, .halt)] = true := by decide

theorem test_decode_flash : decodesAll [(0xF6210010, .append 4 8 2), (0xF6284001, .apseal 5 2 0), (0xF6304382, .apwait 6 2 7 0), (0xF8670000, .wsget 12 56 0), (0xF8070681, .wsrel 56 13 0), (0xF8204402, .wsset 4 2 8 0), (0xFA180001, .shseal 3), (0xFA1F1C80, .ckclose 3 56 57)] = true := by decide

theorem test_decode_events : Instr.isEvent .timeTick = true ∧ Instr.wellFormed .timeTick = false := by decide

/-! ## Words that are no instruction (R19, R22, R37) and ill-formed terms, one for each check -/

theorem test_refuse_major : refused 0x00000000 = some (.unassignedMajor 0) ∧ refused 0x16000000 = some (.unassignedMajor 0x0B) ∧
    refused 0xFE000000 = some (.unassignedMajor 0x7F) := by decide

/-- Minor 0x0B of major 0x01, and minor 0x7F of major 0x20. -/
theorem test_refuse_minor : refused 0x0200000B = some (.undefinedMinor 1) ∧ refused 0x4000007F = some (.undefinedMinor 0x20) := by decide

/-- A set bit of b of ABS, of imm13[12:6] of SHLI, and of a of NOP. -/
theorem test_refuse_reserved : refused 0x0200008A = some .reservedField ∧ refused 0x0C000040 = some .reservedField ∧
    refused 0x76002004 = some .reservedField := by decide

theorem test_ill_formed_codes : ([.cmp 6 0 1 2, .cmpi 7 0 1 2, .cvt 1 2 12, .cvtdx 1 2 3, .cvtmx 1 2 6, .gscanIncl 1 2 6, .gscanExcl 1 2 7, .gred 1 2 6, .brc 4 0,
    .ldStr 1 2 0 9, .stStr 1 2 0 9, .ldAcq 1 2 0 9, .stRel 1 2 0 9, .ldh 1 2 0 0, .pref 2 2 0, .amo 1 2 3 0 7, .amos 1 2 3 0 7, .red 2 3 0 6, .fence 9 0 0,
    .xfence 9 0 0, .xfence 0 8 0, .xfence 0 0 8, .pfence 2, .icinv 7, .ired 8 0 4, .xacq 1 2 2, .xrel 1 2 2] : List Instr).all
    (fun i => decide (i.reject = some .badCode) && !i.wellFormed) = true := by decide

theorem test_ill_formed_pairs : ([.addx 1 2 4, .addx 2 1 4, .addx 2 4 62, .lea 1 2 3 0, .lea 2 55 3 0, .brx 57, .callx 1 0, .yield 1 61, .ld 1 3 0 0, .st 1 62 0 0,
    .ldStr 1 3 0 0, .stStr 1 3 0 0, .ldAcq 1 3 0 0, .stRel 1 3 0 0, .ldh 1 3 0 1, .pref 0 3 0, .amo 1 3 2 0 0, .amos 1 3 2 0 0, .red 3 2 0 0, .cas 1 2 3 0,
    .cas 1 3 2 0, .mloop 0 8 1 0 0, .accst 1 2, .accst 2 1, .land 1 1 2, .land 1 2 1, .launch 1 1 0, .iter 1, .gmig 1 1 0, .csrr 1 0, .csrw 1 0x230, .tlbinv 1 0,
    .thset 1 1 2, .thset 1 2 1, .apseal 1 1 0, .apwait 1 1 2 0] : List Instr).all (fun i => decide (i.reject = some .badPair) && !i.wellFormed) = true := by decide

theorem test_ill_formed_blocks : ([.cpyTile 1 4 2 0, .cpyLin 1 56 2 0, .cpyMem 1 4 2 0, .cpyoTile 1 56 2 0, .cpyoLin 1 4 2 0, .walkExact 1 4 2 0, .walkFloor 1 63 2 0,
    .gath 1 2 3 0, .scat 1 56 3 0, .mma 0 4 2 0 0, .mmas 0 63 2 0 0, .mloop 0 4 2 0 0, .accrd 56 0, .accwr 4 0, .ired 40 0 0, .nbrun 1 56 0, .append 1 4 0,
    .wsget 2 1 0, .wsset 2 1 4 0, .wsset 4 1 56 0] : List Instr).all (fun i => decide (i.reject = some .badBlock) && !i.wellFormed) = true := by decide

theorem test_ill_formed_registers : ([.csrr 2 0x00A, .csrr 2 0xFFF, .csrw 2 0x000, .csrw 2 0x001, .csrw 2 0xFFF] : List Instr).all
    (fun i => decide (i.reject = some .badRegister) && !i.wellFormed) = true := by decide

/-- Three bytes are no word (R19), and the four bytes of a word lie lowest byte first. -/
theorem test_bytes : (decodeBytes [0, 0, 0]).toOption = none ∧ (decodeBytes [0x00, 0x21, 0x18, 0x02]).toOption = some (.add 3 1 2) := by decide
end Sys2Proof.Tests
end

section
/-! ## Instruction words: decode and encode (R19–R22, R37, R39)

A word is its fields (R20), and a field made of two parts is those parts. A row of the opcode map reads the fields of a word into an instruction; the
instruction's own word is made of the same fields, so it is that word again, and a row reads an instruction's own word back into it. -/

namespace Sys2Proof

/-! ### Words and their fields -/

/-- The parts of a field made of `u` bits above `v` bits. The widths are arguments: `simp` matches the rules once they are numerals. -/
theorem subfields (u v : Nat) :
    (∀ (x : BitVec u) (y : BitVec v) (s n : Nat), v ≤ s → (x ++ y).extractLsb' s n = x.extractLsb' (s - v) n) ∧
    (∀ (x : BitVec u) (y : BitVec v) (s n : Nat), s + n ≤ v → (x ++ y).extractLsb' s n = y.extractLsb' s n) ∧
    ∀ (x : BitVec u) (y : BitVec v) (z : BitVec (u + v)), x ++ y = z ↔ x = z.extractLsb' v u ∧ y = z.extractLsb' 0 v := by
  refine ⟨fun _ _ _ _ => BitVec.extractLsb'_append_eq_of_le, fun _ _ _ _ => BitVec.extractLsb'_append_eq_of_add_le, fun x y z => ⟨?_, ?_⟩⟩
  · rintro rfl
    exact ⟨BitVec.extractLsb'_append_eq_left.symm, BitVec.extractLsb'_append_eq_right.symm⟩
  · rintro ⟨rfl, rfl⟩
    exact BitVec.extractLsb'_append_extractLsb'

/-- A part of a part of a field. -/
theorem extractLsb'_extractLsb' {k : Nat} (z : BitVec k) {s n s' n' : Nat} (h : s + n ≤ n') :
    (z.extractLsb' s' n').extractLsb' s n = z.extractLsb' (s' + s) n := by
  ext i hi
  have hin : s + i < n' := by omega
  simp [hin, Nat.add_assoc]

theorem fMaj_eq {w : W32} {n : Nat} (h : (fMaj w).toNat = n) : fMaj w = BitVec.ofNat 7 n := by
  simp [← h]

theorem wordRRR_eq_iff (w : W32) (maj : BitVec 7) (d a b : Reg) (m : BitVec 7) :
    wordRRR maj d a b m = w ↔ maj = fMaj w ∧ d = fD w ∧ a = fA w ∧ b = fB w ∧ m = fMin w := by
  constructor
  · rintro rfl
    simp
  · rintro ⟨rfl, rfl, rfl, rfl, rfl⟩
    ext k hk
    simp only [wordRRR, fMaj, fD, fA, fB, fMin, BitVec.getElem_cast, BitVec.getElem_append, BitVec.getElem_extractLsb']
    grind

theorem wordRRI_eq_iff (w : W32) (maj : BitVec 7) (d a : Reg) (i : BitVec 13) :
    wordRRI maj d a i = w ↔ maj = fMaj w ∧ d = fD w ∧ a = fA w ∧ i = fI13 w := by
  constructor
  · rintro rfl
    simp
  · rintro ⟨rfl, rfl, rfl, rfl⟩
    ext k hk
    simp only [wordRRI, fMaj, fD, fA, fI13, BitVec.getElem_cast, BitVec.getElem_append, BitVec.getElem_extractLsb']
    grind

theorem wordRI_eq_iff (w : W32) (maj : BitVec 7) (d : Reg) (i : BitVec 19) :
    wordRI maj d i = w ↔ maj = fMaj w ∧ d = fD w ∧ i = fI19 w := by
  constructor
  · rintro rfl
    simp
  · rintro ⟨rfl, rfl, rfl⟩
    ext k hk
    simp only [wordRI, fMaj, fD, fI19, BitVec.getElem_cast, BitVec.getElem_append, BitVec.getElem_extractLsb']
    grind

theorem wordB_eq_iff (w : W32) (maj : BitVec 7) (c : BitVec 3) (o : BitVec 22) :
    wordB maj c o = w ↔ maj = fMaj w ∧ c = fCond w ∧ o = fOff22 w := by
  constructor
  · rintro rfl
    simp
  · rintro ⟨rfl, rfl, rfl⟩
    ext k hk
    simp only [wordB, fMaj, fCond, fOff22, BitVec.getElem_cast, BitVec.getElem_append, BitVec.getElem_extractLsb']
    grind

theorem wordM_eq_iff (w : W32) (maj : BitVec 7) (d a : Reg) (o : BitVec 9) (l : BitVec 4) :
    wordM maj d a o l = w ↔ maj = fMaj w ∧ d = fD w ∧ a = fA w ∧ o = fOff9 w ∧ l = fLow4 w := by
  constructor
  · rintro rfl
    simp
  · rintro ⟨rfl, rfl, rfl, rfl, rfl⟩
    ext k hk
    simp only [wordM, fMaj, fD, fA, fOff9, fLow4, BitVec.getElem_cast, BitVec.getElem_append, BitVec.getElem_extractLsb']
    grind

theorem wordS_eq_iff (w : W32) (maj : BitVec 7) (d : Reg) (c : BitVec 12) (m : BitVec 7) :
    wordS maj d c m = w ↔ maj = fMaj w ∧ d = fD w ∧ c = fCsr w ∧ m = fMin w := by
  constructor
  · rintro rfl
    simp
  · rintro ⟨rfl, rfl, rfl, rfl⟩
    ext k hk
    simp only [wordS, fMaj, fD, fCsr, fMin, BitVec.getElem_cast, BitVec.getElem_append, BitVec.getElem_extractLsb']
    grind

/-! ### A word that a row reads is the word of what it gives -/

/-- If what a row of the opcode map reads from a word is an instruction, the word is that instruction's. -/
structure Reads (w : W32) (r : Except DecodeError Instr) : Prop where
  encode_eq : ∀ i, r = .ok i → encode i = w

/-- A minor, or the reserved fields of one (`whenZero`), is tested before a row gives its instruction. -/
theorem reads_ite {w : W32} {c : Prop} {_ : Decidable c} {x y : Except DecodeError Instr} (hx : c → Reads w x) (hy : Reads w y) :
    Reads w (if c then x else y) := by
  split
  · exact hx ‹c›
  · exact hy

/-- Major by major, then test by test of its row: the word of an instruction that the row gives is the word read, as its fields are those the row has read
and its constants those it has tested. -/
theorem reads_decodeRow (w : W32) : Reads w (decodeRow w) := by
  unfold decodeRow
  split <;> rename_i hmaj
  case h_80 =>
    refine ⟨fun i h => ?_⟩
    cases h
  all_goals
    replace hmaj := fMaj_eq hmaj
    repeat' refine reads_ite (fun _ => ?_) ?_
  all_goals
    refine ⟨fun i h => ?_⟩
    cases h
  all_goals
    simp_all [encode.eq_def, wordRRR_eq_iff, wordRRI_eq_iff, wordRI_eq_iff, wordB_eq_iff, wordM_eq_iff, wordS_eq_iff]
  -- What is left are fields made of parts.
  all_goals
    simp_all [extractLsb'_extractLsb', subfields 1 5, subfields 2 4, subfields 2 5, subfields 3 3, subfields 3 4, subfields 4 2, subfields 4 3, subfields 5 2,
      subfields 5 14, subfields 6 1, subfields 7 4, subfields 7 6, subfields 11 4, subfields 13 6, subfields 15 4, subfields 17 2]

theorem encode_of_isEvent {i : Instr} (h : i.isEvent = true) : encode i = 0#32 := by
  cases i <;> cases h <;> rfl

theorem isEvent_of_decodeRow {w : W32} {i : Instr} (h : decodeRow w = .ok i) : i.isEvent = false := by
  cases hev : i.isEvent with
  | false => rfl
  | true =>
    have hw : w = 0#32 := ((reads_decodeRow w).encode_eq i h).symm.trans (encode_of_isEvent hev)
    rw [hw] at h
    cases h

/-! ### A row reads an instruction's own word back into it -/

/-- The minors of GSCAN and GRED, `x` above an operator, are none of QBCAST's, which is tested before them. -/
theorem gscanMinor_ne_qbcast (x : BitVec 4) (o : BitVec 3) (hx : x ≠ 0#4) : (x ++ o).extractLsb' 2 5 ≠ 1#5 := by
  intro h
  have hhi := congrArg (fun m : BitVec 5 => m.extractLsb' 1 4) h
  exact hx (by simpa [extractLsb'_extractLsb', subfields 4 3] using hhi)

/-- Row by row of the opcode map; the rows without an encoding fall to `h`. -/
theorem decodeRow_encode (i : Instr) (h : i.isEvent = false) : decodeRow (encode i) = .ok i := by
  cases i
  -- Format RRR, integer.
  case add | sub | addx | mul | mulh | mad | div | rem | min | max | abs | and | or | xor | andn | orn | shl | shr | rot | popc | clz | ctz | brev |
      bfx | bfi | sel | cmp | mov | lea | dot4 | bperm =>
    simp [encode.eq_def, whenZero, subfields 3 3, subfields 5 2, decodeRow_01, decode01]
  -- Format RRI.
  case addi | andi | ori | xori | shli | shri | cmpi =>
    simp [encode.eq_def, whenZero, subfields 7 6, subfields 3 3, decodeRow_02, decodeRow_03, decodeRow_04, decodeRow_05, decodeRow_06, decodeRow_07,
      decodeRow_08, decode02, decode03, decode04, decode05, decode06, decode07, decode08]
  -- Format RI.
  case movi | ihi | setm | fence | xfence | pfence | icinv =>
    simp [encode.eq_def, whenZero, subfields 1 5, subfields 5 14, subfields 3 4, subfields 7 6, subfields 13 6, subfields 7 4, subfields 11 4,
      subfields 15 4, subfields 17 2, decodeRow_09, decodeRow_0A, decodeRow_3C, decodeRow_54, decodeRow_55, decodeRow_56, decode09, decode0A,
      decode3C, decode54, decode55, decode56]
  -- Format RRR, floating point.
  case fadd | fsub | fmul | ffma | fmin | fmax | fabs | fneg | fcmp | fclass | frnd | fscale | frcp | frsq | fsqrt | fexp2 | flog2 | fsin | fcos | cvt
      | cvtdx | cvtmx =>
    simp [encode.eq_def, whenZero, subfields 3 3, subfields 4 3, subfields 2 5, subfields 5 2, decodeRow_20, decodeRow_21, decodeRow_22, decodeRow_23,
      decodeRow_24, decode20, decode21, decode22, decode23, decode24]
  -- Format RRR, lanes.
  case qswapH | qswapV | qswapD | qbcast | shfl | shflu | shfld | shflx | voteAll | voteAny | voteBallot | gscanIncl | gscanExcl | gred | matchLanes |
      plog =>
    simp [encode.eq_def, whenZero, gscanMinor_ne_qbcast, subfields 5 2, subfields 3 3, subfields 4 3, subfields 3 4, decodeRow_30, decodeRow_31, decode30,
      decode31]
  -- Format B.
  case br | brc | call =>
    simp [encode.eq_def, whenZero, decodeRow_38, decodeRow_39, decodeRow_3A, decode38, decode39, decode3A]
  -- Format RRR, control.
  case brx | ret | exit | nop | yield | callx | setmR | getm | pushm | popm =>
    simp [encode.eq_def, whenZero, subfields 4 3, subfields 1 5, decodeRow_3B, decodeRow_3D, decode3B, decode3D]
  -- Format M.
  case ld | st | ldStr | stStr | ldAcq | stRel | ldh | pref | lds | sts | ldc | stc | ldx | stx | ldl | stl =>
    simp [encode.eq_def, whenZero, subfields 4 2, decodeRow_40, decodeRow_41, decodeRow_42, decodeRow_43, decodeRow_44, decodeRow_45, decodeRow_46,
      decodeRow_47, decodeRow_48, decodeRow_49, decodeRow_4A, decodeRow_4B, decodeRow_4C, decodeRow_4D, decodeRow_4E, decodeRow_4F, decode40,
      decode41, decode42, decode43, decode44, decode45, decode46, decode47, decode48, decode49, decode4A, decode4B, decode4C, decode4D, decode4E,
      decode4F]
  -- Format RRR, memory.
  case amo | cas | amos | red | ldfe | ldfeE | stfe | fesetE | fesetF | feq | tbinit | tbarr | tbwait | tbret =>
    simp [encode.eq_def, whenZero, subfields 4 3, decodeRow_50, decodeRow_51, decodeRow_52, decodeRow_53, decodeRow_57, decodeRow_58, decode50, decode51,
      decode52, decode53, decode57, decode58]
  -- Format RRR, streamer.
  case cpyTile | cpyLin | cpyMem | cpyoTile | cpyoLin | gath | scat | walkExact | walkFloor =>
    simp [encode.eq_def, subfields 4 3, decodeRow_59, decodeRow_5A, decodeRow_5B, decodeRow_5C, decodeRow_5D, decode59, decode5A, decode5B, decode5C,
      decode5D]
  -- Format RRR, matrix unit.
  case obres | obrel | mma | mmas | mloop | mbatch | mwait | accrd | accwr | accst | accz | mcomp =>
    simp [encode.eq_def, whenZero, subfields 2 4, subfields 4 2, subfields 6 1, subfields 4 3, decodeRow_60, decodeRow_61, decodeRow_62, decodeRow_63,
      decodeRow_64, decodeRow_65, decodeRow_66, decodeRow_67, decodeRow_68, decodeRow_69, decodeRow_6A, decodeRow_6B, decode60, decode61, decode62,
      decode63, decode64, decode65, decode66, decode67, decode68, decode69, decode6A, decode6B]
  -- Format RRR, near memory and launch.
  case ired | nbrun | nbwait | nbq | land | launch | lwait | lquery | iter | fixup | xacq | xrel | gmig =>
    simp [encode.eq_def, whenZero, subfields 4 3, decodeRow_70, decodeRow_71, decodeRow_72, decodeRow_73, decodeRow_74, decodeRow_75, decodeRow_76,
      decodeRow_77, decode70, decode71, decode72, decode73, decode74, decode75, decode76, decode77]
  -- Format S.
  case csrr | csrw | trap | tret =>
    simp [encode.eq_def, whenZero, decodeRow_78, decode78]
  -- Format RRR, system and storage.
  case tlbinv | ctxstart | ctxkill | rcfence | eres | drain | halt | thset | thclr | append | apseal | apwait | wsget | wsrel | wsset | ckclose |
      shseal =>
    simp [encode.eq_def, whenZero, subfields 4 3, decodeRow_79, decodeRow_7A, decodeRow_7B, decodeRow_7C, decodeRow_7D, decode79, decode7A, decode7B,
      decode7C, decode7D]
  all_goals cases h

/-! ### The decoder -/

theorem wellFormed_iff (i : Instr) : i.wellFormed = true ↔ i.isEvent = false ∧ i.reject = none := by
  simp [Instr.wellFormed]

theorem decode_eq_ok_iff (w : W32) (i : Instr) : decode w = .ok i ↔ decodeRow w = .ok i ∧ i.reject = none := by
  unfold decode
  cases decodeRow w with
  | error e => simp
  | ok j =>
    dsimp only
    cases hrej : j.reject with
    | none =>
      refine ⟨fun h => ?_, fun h => h.1⟩
      cases h
      exact ⟨rfl, hrej⟩
    | some e =>
      refine ⟨fun h => ?_, fun h => ?_⟩
      · cases h
      · obtain ⟨⟨⟩, hnone⟩ := h
        rw [hrej] at hnone
        cases hnone

/-- Settles O51: a row reads back an instruction's own word, and a word is that of the instruction its row reads. -/
theorem encodeDecodeAgree : Obligations.EncodeDecodeAgree := by
  refine ⟨fun i hi => ?_, fun w i hd => ?_⟩
  · obtain ⟨hev, hrej⟩ := (wellFormed_iff i).mp hi
    exact (decode_eq_ok_iff _ i).mpr ⟨decodeRow_encode i hev, hrej⟩
  · obtain ⟨hrow, hrej⟩ := (decode_eq_ok_iff w i).mp hd
    exact ⟨(wellFormed_iff i).mpr ⟨isEvent_of_decodeRow hrow, hrej⟩, (reads_decodeRow w).encode_eq i hrow⟩

theorem decode_of_encode {w : W32} {i : Instr} (hi : i.wellFormed = true) (hw : encode i = w) : decode w = .ok i :=
  hw ▸ encodeDecodeAgree.1 i hi

/-- Settles O52: each word is that of its instruction, which reads back from it (O51); majors 0x00 and 0x7F have no row. -/
theorem decodedWords : Obligations.DecodedWords :=
  ⟨decode_of_encode (i := .add 3 1 2) rfl (by decide), decode_of_encode (i := .addi 56 5 (-1)) rfl (by decide),
   decode_of_encode (i := .ld 8 2 32 4) rfl (by decide), decode_of_encode (i := .setm 3 0xAA) rfl (by decide),
   decode_of_encode (i := .fence 6 0x3F 0x3F) rfl (by decide), decode_of_encode (i := .br (-3)) rfl (by decide),
   decode_of_encode (i := .nop) rfl (by decide), rfl, rfl⟩

end Sys2Proof
end

section
/-! ## The step that issues a split (R37, R133, R138, R410)

What happens next is the issue of a named split; the split fetches, and runs what it has fetched. The fetch translates its PC, which moves nothing but
what homes keep, so that the group that fetches, and the on-chip memories, are as they were. -/

namespace Sys2Proof.Machine

open Sys2Proof

/-! ### What a translation leaves as it was -/

/-- Between two states only what homes keep has moved: the memory system, the old-value logs, the event counters, the pool's open writes, and
the next name. -/
def HomesMoved (s t : State) : Prop := t = { s with m := t.m, ck := t.ck, dev := t.dev, fab := t.fab, seq := t.seq }

theorem HomesMoved.refl (s : State) : HomesMoved s s := rfl

theorem HomesMoved.trans {a b c : State} (h : HomesMoved a b) (k : HomesMoved b c) : HomesMoved a c := by
  unfold HomesMoved at *
  rw [k, h]

theorem HomesMoved.g {s t : State} (h : HomesMoved s t) : t.g = s.g := by rw [h]
theorem HomesMoved.entry {s t : State} (h : HomesMoved s t) : t.entry = s.entry := by rw [h]
theorem HomesMoved.onchip {s t : State} (h : HomesMoved s t) : t.onchip = s.onchip := by rw [h]

theorem HomesMoved.foldl {α : Type} {f : State → α → State} (h : ∀ t x, HomesMoved t (f t x)) (l : List α) (s : State) : HomesMoved s (l.foldl f s) :=
  foldl_inv (HomesMoved s) f (fun t x k => k.trans (h t x)) l s (HomesMoved.refl s)

theorem State.await_homes (s : State) (who pa : Nat) : HomesMoved s (s.await who pa) := by
  unfold State.await
  split <;> rfl

theorem State.mevent_homes (s : State) (ctl : Nat) (c : Option (BitVec 12)) (code : Nat) : HomesMoved s (s.mevent ctl c code) := by
  unfold State.mevent
  split
  · rfl
  · refine HomesMoved.foldl (fun t k => ?_) _ _
    dsimp only
    split <;> rfl

theorem State.meventAt_homes (s : State) (pa : Nat) (c : Option (BitVec 12)) (code : Nat) : HomesMoved s (s.meventAt pa c code) := by
  unfold State.meventAt
  split
  · exact State.mevent_homes ..
  · rfl

theorem State.newPool_homes (s : State) (path pa n gid log : Nat) (lanes : W32) (c : BitVec 12) (j : BitVec 8) :
    HomesMoved s (s.newPool path pa n gid log lanes c j) := by
  unfold State.newPool
  split <;> rfl

theorem State.logWrite_homes (s : State) (c : BitVec 12) (pa n : Nat) : HomesMoved s (s.logWrite c pa n) := by
  unfold State.logWrite
  split
  · rfl
  · dsimp only
    split
    · rfl
    · split
      · refine HomesMoved.trans ?_ (State.meventAt_homes ..)
        rfl
      · rfl

theorem State.performWord_homes (s : State) (w : Writer) (ms : Bool) (pa n v : Nat) : HomesMoved s (s.performWord w ms pa n v) := by
  unfold State.performWord
  dsimp only
  split
  · rfl
  · split <;> rfl

theorem State.performKeel_homes (s : State) (k : KeelLine) : HomesMoved s (s.performKeel k) := by
  unfold State.performKeel
  refine HomesMoved.trans (HomesMoved.foldl (fun t d => ?_) k.dirty s) rfl
  exact ((State.newPool_homes ..).trans (State.logWrite_homes ..)).trans (State.performWord_homes ..)

theorem State.writeBack_homes (s : State) (cache line : Nat) (keep : Bool) : HomesMoved s (s.writeBack cache line keep) := by
  unfold State.writeBack
  split
  · rfl
  · exact (State.performKeel_homes ..).trans rfl

theorem State.recall_homes (s : State) (line : Nat) : HomesMoved s (s.recall line) := by
  unfold State.recall
  split
  · rfl
  · refine HomesMoved.trans ?_ rfl
    split
    · exact State.writeBack_homes ..
    · rfl

theorem State.setLeafBits_homes (s : State) (slot : Nat) (nd : W64) : HomesMoved s (s.setLeafBits slot nd) := by
  unfold State.setLeafBits
  dsimp only
  split
  · rfl
  · exact (State.recall_homes ..).trans rfl

theorem State.forgetAt_homes (s : State) (who pa : Nat) : HomesMoved s (s.forgetAt who pa) := rfl

theorem State.cacheTables_homes (s : State) (a : Asker) (va : W64) : HomesMoved s (s.cacheTables a va) := rfl

theorem State.walkReads_homes (s : State) (a : Asker) (va : W64) : HomesMoved s (s.walkReads a va) := by
  unfold State.walkReads
  split <;> rfl

/-- Whatever a walk ends in, using it moves only what homes keep (R330). -/
theorem State.useLeaf_homes (s : State) (a : Asker) (k : Acc) (va : W64) (w : Walk) : HomesMoved s (s.useLeaf a k va w).1 := by
  cases w with
  | bad v r => rfl
  | poison => rfl
  | leaf l =>
    unfold State.useLeaf
    dsimp only
    split
    · rfl
    · split
      · rfl
      · split
        · exact State.await_homes ..
        · exact ((State.forgetAt_homes ..).trans (State.setLeafBits_homes ..)).trans rfl

/-- A translation moves only what homes keep (R324–R332). -/
theorem State.translate_homes (s : State) (a : Asker) (k : Acc) (va : W64) : HomesMoved s (s.translate a k va).1 := by
  unfold State.translate
  split
  · rfl
  · split
    · rfl
    · exact ((State.walkReads_homes ..).trans (State.cacheTables_homes ..)).trans (State.useLeaf_homes ..)

theorem State.aged_onchip (s : State) (gid e : Nat) (busy : List (Nat × Nat)) : (s.aged gid e busy).onchip = s.onchip := by
  unfold State.aged
  split
  · rfl
  · dsimp only
    split
    · rfl
    · refine foldl_keep State.onchip _ (fun t x => ?_) _ _
      exact State.onGroup_onchip ..

/-! ### Choice, issue and fetch -/

/-- With no merge due, an issue input, or with no input and no event the ready split, is what happens next. -/
theorem choice_issue {s : State} {gid e : Nat} {busy : List (Nat × Nat)} {rest : List Input} (hstop : s.fw.stopped = false) (hmerge : s.mergeDue = none)
    (h : (∃ k j, s.inputs = .issue k j busy :: rest ∧ s.slotCycle k j busy = (gid, e)) ∨
      (s.inputs = [] ∧ rest = [] ∧ busy = [] ∧ s.fresh % 4 ≠ 3 ∧ s.auto = none ∧ s.readySplit = some (gid, e))) :
    s.choice = .issue gid e busy rest := by
  simp only [State.choice, hstop, hmerge, State.inputChoice]
  obtain ⟨k, j, hin, hslot⟩ | ⟨hin, rfl, rfl, hfresh, hauto, hready⟩ := h
  · simp [hin, hslot]
  · simp [hin, State.unasked, hfresh, hauto, hready]

/-- The outcome of a step in which a split has tried its next instruction, by the outcome of that instruction: a request that has expired evicts the group
(R123), and the images note what changed (R410). -/
def cycleSeen (gid : Nat) (last : Bool) : Result → Result
  | .next t => .next (t.endCycle gid last).noteFrames
  | r => r

/-- The group's request has expired as its cycle begins (R123). -/
def State.lastCycle (s : State) (gid : Nat) : Bool := match s.find gid with | some g => s.expired g.yreq | none => false

theorem step_of_issue {s : State} {gid e : Nat} {busy : List (Nat × Nat)} {rest : List Input} (h : s.choice = .issue gid e busy rest) :
    let w := ({ s with inputs := rest } : State).aged gid e busy
    step s = cycleSeen gid (w.lastCycle gid) (w.runSplit gid e) := by
  intro w
  have hp : s.perform s.choice = w.issueCycle gid e := by rw [h]; rfl
  unfold step
  rw [hp]
  unfold State.issueCycle
  cases w.runSplit gid e <;> rfl

/-- A split in focus that may issue runs what it fetches. -/
theorem runSplit_of_mayIssue {s : State} {gid e : Nat} (hgid : (s.focus gid e).g.gid = gid) (hsome : ((s.focus gid e).g.split e).isSome = true)
    (hmay : (s.focus gid e).mayIssue = true) :
    (∀ v w i, (s.focus gid e).fetch = (v, .word w) → decode w = .ok i → s.runSplit gid e = exec i v) ∧
    (∀ v w r, (s.focus gid e).fetch = (v, .word w) → decode w = .error r → s.runSplit gid e = .next (v.raiseWord w)) ∧
    (∀ v t, (s.focus gid e).fetch = (v, .trap t) → s.runSplit gid e = .next (v.report t)) := by
  have hgo : ¬ ((s.focus gid e).g.gid ≠ gid ∨ ((s.focus gid e).g.split e).isNone = true ∨ (!(s.focus gid e).mayIssue) = true) := by
    simp [hgid, hmay, Option.isSome_iff_ne_none.mp hsome]
  unfold State.runSplit
  rw [if_neg hgo]
  refine ⟨fun v w i hf hd => ?_, fun v w r hf hd => ?_, fun v t hf => ?_⟩
  · simp only [hf, hd]
  · simp only [hf, hd]
  · simp only [hf]

/-- Where the core holds no copy of the line, and nothing makes the fetch wait or trap, the word is the one in memory, and the core then holds the line. -/
theorem fetch_of_no_line {u v : State} {pa : Nat} {p : W64} (ht : u.translate u.g.asker .exec u.cur.pc = (v, .ok pa p)) (hwait : v.fetchWaits pa = false)
    (hpoison : v.m.poisoned pa 4 = false) (hwild : v.wild u.g.ctx u.cur.pc pa = false) (hline : v.m.iline v.g.core (lineOf pa) = none) :
    u.fetch = (v.fillIline v.g.core pa (pteMs p), .word (BitVec.ofNat 32 (v.m.homeRead pa 4))) := by
  have hx : u.xlate u.g.asker .exec u.cur.pc = (v, .ok pa p) := by simp only [State.xlate, ht]
  have hbad : v.fetchBad pa = false := by simp only [State.fetchBad, hline, hpoison]
  simp only [State.fetch, hx, hwait, hbad, hwild, State.fetchWord, hline, Bool.false_eq_true, if_false]

/-- Settles O53: the choice is the issue of the split, the split runs what it fetches, and the cycle's end sees what that gives. -/
theorem stepIssuesDecoded : Obligations.StepIssuesDecoded := by
  unfold Obligations.StepIssuesDecoded
  intro s gid e busy rest hstop hmerge hwhat w u last seen hgid hsome hmay
  have hstep : step s = seen (w.runSplit gid e) := by
    rw [step_of_issue (choice_issue hstop hmerge hwhat)]
    show cycleSeen gid last (w.runSplit gid e) = _
    cases w.runSplit gid e <;> rfl
  obtain ⟨hword, hill, htrap⟩ := runSplit_of_mayIssue hgid hsome hmay
  rw [hstep]
  refine ⟨fun v x i hf hd => ?_, fun v x r hf hd => ?_, fun v t hf => ?_, fun v pa p i ht hwait hpoison hwild hline hd => ?_⟩
  · rw [hword v x i hf hd]
  · rw [hill v x r hf hd]
  · rw [htrap v t hf]
  · have hv : HomesMoved u v := by simpa only [ht] using State.translate_homes u u.g.asker .exec u.cur.pc
    have hcur : v.cur = u.cur := by unfold State.cur; rw [hv.g, hv.entry]
    rw [hv.g, hcur] at hwild
    rw [hword _ _ i (fetch_of_no_line ht hwait hpoison hwild hline) hd, hcur, hv.onchip, hv.g]
    refine ⟨rfl, rfl, rfl, rfl, ?_⟩
    exact (State.focus_onchip ..).trans (State.aged_onchip ..)

end Sys2Proof.Machine
end

section
/-!
## Counters that a recall moves (R330, R387, R388, R424, R446)

An access that must set a bit of a leaf, and a crossing that publishes a line, write back the dirty words that a staging cache owns. The first write of a context to a line in
its open interval is an event of the line's controller (R446, code 0x08), so the MEVCNTs of that controller count it. They stand in `Device.mevcnt`, which
`Device.uncounted` keeps: a frame that compares the devices without `evcnt` alone does not allow for them.
-/

namespace Sys2Proof.Machine

open Sys2Proof

/-! ### A first write of a context is counted -/

/-- The first event counter of the HBM4E channel of a place. -/
def State.channelCount (s : State) (pa : Nat) : W64 := Store.get s.dev.mevcnt (4 * channelAt pa)

/-- A write of a context to a place of HBM4E would be its first to the line in its open interval, and the counters of the channel select first writes. -/
structure FirstWriteCounts (s : State) (c : BitVec 12) (pa : Nat) : Prop where
  hbm : tierOf pa = some .hbm
  first : ((s.ctx c).any fun x => !s.hasLog c x.opened (lineOf pa)) = true
  selected : ∀ k, k < 4 → selects (Store.get s.dev.mevsel (4 * channelAt pa + k)) 0x08 (some c) = true

theorem not_selects_zero (code : Nat) (c : Option (BitVec 12)) : selects 0#32 code c = false := by simp [selects]

/-- Devices that agree but for the core counters have the same channel counts. -/
theorem channelCount_of_uncounted {s t : State} (h : t.dev.uncounted = s.dev.uncounted) (pa : Nat) : t.channelCount pa = s.channelCount pa := by
  have hm := congrArg Device.mevcnt h
  exact congrArg (fun m => Store.get m (4 * channelAt pa)) hm

theorem State.mevent_counts {s : State} {ctl code : Nat} {c : Option (BitVec 12)}
    (h : ∀ k, k < 4 → selects (Store.get s.dev.mevsel (4 * ctl + k)) code c = true) :
    Store.get (s.mevent ctl c code).dev.mevcnt (4 * ctl) = Store.get s.dev.mevcnt (4 * ctl) + 1#64 := by
  have hne : s.dev.mevsel.isEmpty = false := by
    cases hm : s.dev.mevsel with
    | nil =>
      have h0 := h 0 (by omega)
      rw [hm, Store.get_nil, not_selects_zero] at h0
      cases h0
    | cons _ _ => rfl
  have h0 : selects (Store.get s.dev.mevsel (4 * ctl)) code c = true := h 0 (by omega)
  unfold State.mevent
  rw [hne, show List.range 4 = [0, 1, 2, 3] from rfl]
  simp [h0, h, Store.get_put]

theorem State.logWrite_counts {s : State} {c : BitVec 12} {pa : Nat} (n : Nat) (h : FirstWriteCounts s c pa) :
    (s.logWrite c pa n).channelCount pa = s.channelCount pa + 1#64 := by
  obtain ⟨x, hx, hfirst⟩ := (Option.any_eq_true _ _).mp h.first
  have hlog : logged pa = true := by simp [logged, h.hbm]
  have hctl : controllerAt pa = some (channelAt pa) := by simp [controllerAt, h.hbm]
  unfold State.logWrite
  simp only [hx, hlog, hfirst, Bool.not_true, Bool.false_eq_true, if_false, if_true, State.meventAt, hctl]
  exact State.mevent_counts h.selected

@[simp] theorem State.performWord_dev (s : State) (w : Writer) (ms : Bool) (pa n v : Nat) : (s.performWord w ms pa n v).dev = s.dev := by
  unfold State.performWord
  split
  · rfl
  · split <;> rfl

/-! ### A write-back of one dirty word is counted -/

theorem State.performKeel_counts {s : State} {k : KeelLine} {d : DirtyWord} (hd : k.dirty = [d]) (h : FirstWriteCounts s d.ctx (4 * d.word)) :
    (s.performKeel k).channelCount (4 * d.word) = s.channelCount (4 * d.word) + 1#64 := by
  have hpool : s.newPool 2 (4 * d.word) 4 d.gid 0 (BitVec.allOnes 32) d.ctx d.inc = s := by simp [State.newPool, h.hbm]
  rw [← State.logWrite_counts 4 h]
  unfold State.performKeel State.channelCount
  simp only [hd, List.foldl_cons, List.foldl_nil, State.performWord_dev, hpool]

theorem State.writeBack_counts {s : State} {cache line : Nat} {k : KeelLine} {d : DirtyWord} (keep : Bool) (hk : s.m.keelLine cache line = some k)
    (hd : k.dirty = [d]) (h : FirstWriteCounts s d.ctx (4 * d.word)) :
    (s.writeBack cache line keep).channelCount (4 * d.word) = s.channelCount (4 * d.word) + 1#64 := by
  rw [← State.performKeel_counts hd h]
  unfold State.writeBack
  rw [hk]
  rfl

theorem State.publish_counts {s : State} {k : KeelLine} {d : DirtyWord} (hk : s.m.keelLine k.cache k.line = some k) (hd : k.dirty = [d])
    (h : FirstWriteCounts s d.ctx (4 * d.word)) : (s.publish k).channelCount (4 * d.word) = s.channelCount (4 * d.word) + 1#64 :=
  State.writeBack_counts true hk hd h

theorem State.recall_counts {s : State} {line a : Nat} {e : DirEntry} {k : KeelLine} {d : DirtyWord} (he : s.m.dirOf line = some e) (ha : e.owner = some a)
    (hk : s.m.keelLine (a - 32) line = some k) (hd : k.dirty = [d]) (h : FirstWriteCounts s d.ctx (4 * d.word)) :
    (s.recall line).channelCount (4 * d.word) = s.channelCount (4 * d.word) + 1#64 := by
  rw [← State.writeBack_counts false hk hd h]
  unfold State.recall
  rw [he]
  simp only [ha]
  rfl

/-! ### The device after a crossing, and after an access that sets a bit of its leaf -/

theorem State.cross_dev (s : State) (f t : Nat) :
    (s.cross f t).dev = if publishes f t then ((s.ownDirty s.g).foldl State.publish s).dev else s.dev := by
  unfold State.cross
  simp only [State.onG_dev]
  repeat' split
  all_goals rfl

/-- An access that must set a bit of its leaf, where that can be done, recalls the leaf's line first (R330, R387). -/
theorem State.useLeaf_sets {s : State} {a : Asker} {k : Acc} {va : W64} {l : Leaf} (hcause : leafCause a.app k l.pte = 0)
    (hclear : l.pte &&& needBits k l.pte ≠ needBits k l.pte) (hready : s.leafReady l.slot = true)
    (hvalid : (BitVec.ofNat 64 (s.m.homeRead l.slot 8)).getLsbD 0 = true) :
    ∃ t pa p, s.useLeaf a k va (.leaf l) = (t, .ok pa p) ∧ t.dev = ((s.forgetAt (walkName a.who) l.slot).recall (lineOf l.slot)).dev := by
  have hv : (BitVec.ofNat 64 ((s.forgetAt (walkName a.who) l.slot).m.homeRead l.slot 8)).getLsbD 0 = true := hvalid
  simp only [State.useLeaf, hcause, ne_eq, not_true_eq_false, if_false, hclear, hready, Bool.not_true, Bool.false_eq_true, State.setLeafBits, hv]
  exact ⟨_, _, _, rfl, rfl⟩

/-- The checks of a lane of a global access change the machine as its translation does. -/
theorem State.globalTarget_state {s s1 : State} {g : Group} {i : Instr} {acc : Acc} {va : W64} {pa : Nat} {p : W64} (help : Bool)
    (hsw : s.switching g.ctx va = false) (ht : s.translate g.asker acc va = (s1, .ok pa p)) : (s.globalTarget g i acc help va).1 = s1 := by
  have hx : s.xlate g.asker acc va = (s1, .ok pa p) := by simp only [State.xlate, ht]
  simp only [State.globalTarget, hsw, Bool.false_eq_true, if_false, ht, hx, ite_self]
  repeat' split
  all_goals rfl

theorem State.target_of_global {s : State} {g : Group} {i : Instr} {sp : AccSpec} {l : Nat} {va : W64} (hfam : sp.fam = .global)
    (halign : va.toNat % sp.size = 0) : s.target g i sp l va = s.globalTarget g i sp.acc (g.helpers.getLsbD l) va := by
  simp only [State.target, halign, ne_eq, not_true_eq_false, if_false, hfam]

/-- A lane of a global access that must set a bit of its leaf: the device afterwards is that after the recall of the leaf's line. -/
theorem State.target_sets_dev {s : State} {g : Group} {i : Instr} {sp : AccSpec} {n : Nat} {va : W64} {l : Leaf} (hfam : sp.fam = .global)
    (halign : va.toNat % sp.size = 0) (hcanon : canonical va = true) (hsw : s.switching g.ctx va = false) (hwalk : s.walkFor g.asker sp.acc va = .leaf l)
    (hcause : leafCause g.asker.app sp.acc l.pte = 0) (hclear : l.pte &&& needBits sp.acc l.pte ≠ needBits sp.acc l.pte)
    (hready : ((s.walkReads g.asker va).cacheTables g.asker va).leafReady l.slot = true)
    (hvalid : (BitVec.ofNat 64 (((s.walkReads g.asker va).cacheTables g.asker va).m.homeRead l.slot 8)).getLsbD 0 = true) :
    (s.target g i sp n va).1.dev =
      ((((s.walkReads g.asker va).cacheTables g.asker va).forgetAt (walkName g.asker.who) l.slot).recall (lineOf l.slot)).dev := by
  obtain ⟨t, pa, p, huse, hdev⟩ := State.useLeaf_sets (va := va) hcause hclear hready hvalid
  have ht : s.translate g.asker sp.acc va = (t, .ok pa p) := by
    unfold State.translate
    rw [hcanon, show s.switching g.asker.ctx va = false from hsw, hwalk]
    exact huse
  rw [State.target_of_global hfam halign, State.globalTarget_state _ hsw ht, hdev]

theorem State.targets_single_state (s : State) (g : Group) (i : Instr) (sp : AccSpec) (addr : Store 64) (l : Nat) :
    (s.targets g i sp addr [l]).1 = (s.target g i sp l (Store.get addr l)).1 := by
  simp only [State.targets]
  split <;> rfl

/-! ### An access whose only lane reaches its place -/

theorem State.missL1_dev (s : State) (r : Req) : (s.missL1 r).dev.uncounted = s.dev.uncounted := by
  unfold State.missL1
  dsimp only
  repeat' split
  · rfl
  · rw [State.event_dev, State.event_dev]
  · exact State.event_dev ..

theorem State.sendLane_dev (s : State) (e : LogEntry) (sp : AccSpec) (l : Nat) (t : Target) : (s.sendLane e sp l t).dev.uncounted = s.dev.uncounted :=
  foldl_keep (fun s : State => s.dev.uncounted) State.missL1 State.missL1_dev _ s

theorem State.launchLog_of_single {s : State} {seq l key : Nat} {e : LogEntry} {sp : AccSpec} {q : Space} {va : W64} {ms : Bool} (he : s.g.entryOf seq = some e)
    (hsp : accSpec e.i e.mode = some sp)
    (ht : (s.targets s.g e.i sp e.addr (lanesOf (e.pend &&& ~~~e.flight))).2 = [(l, .ok q key va ms)]) :
    s.launchLog seq = (s.targets s.g e.i sp e.addr (lanesOf (e.pend &&& ~~~e.flight))).1.sendLane e sp l (.ok q key va ms) := by
  unfold State.launchLog
  simp only [he, hsp]
  rw [ht]
  rfl

/-- A legal memory instruction that no lane holds back is logged, and its lanes start. -/
theorem memory_runs {s : State} {i : Instr} {sp : AccSpec} (h : s.issues i = true) (hlegal : (s.start i).memLegal i = true)
    (hsp : accSpec i (s.start i).md = some sp) (hgo : (s.start i).memGo i = true) :
    memory i s = .next (((s.start i).memLogged i sp).launchLog (s.start i).seq) := by
  have hrun : (s.start i).memRun i = ((s.start i).memLogged i sp).launchLog (s.start i).seq := by
    simp only [State.memRun, State.checked, hlegal, if_true, State.memIssue, hsp]
  rw [← hrun]
  exact issueOr_next h hgo

end Sys2Proof.Machine
end

section
/-!
## Memory instructions and crossings count first writes in the controllers (O19, O23)

Both statements say that the device registers but the core counters stay (`KeepsRest.device`). In the machine below a staging cache owns the line of a page table with a dirty
word, and every HBM4E channel counts first writes. A load whose leaf has A clear recalls the line, and an XFENCE from the keel path publishes it.
-/

namespace Sys2Proof.Machine

open Sys2Proof

/-- The dirty word: a command of the group in focus wrote it, beside the leaf of the loaded program. -/
def tableWord : DirtyWord := { word := 0xC10, gid := 2, ls := 0, core := 0, slot := 0, ctx := 0, inc := 0, ostamp := 0 }

/-- The line of the level-3 table of the loaded program, in the staging cache of its cluster. -/
def tableLine : KeelLine := { cache := 0, line := 0x60, ms := false, data := [], bad := 0, dirty := [tableWord], since := 0, got := 0 }

/-- The four counters of each of the 128 HBM4E channels are enabled and count event 0x08 of any context (R446). -/
@[irreducible] def firstWriteSelectors : Store 32 := (List.range 512).map fun n => (n, 0x80000008#32)

/-- The loaded machine with lane 0 alone in GUARD, A clear in its leaf, the table's line owned by staging cache 0 (agent 32), and every channel counting first
writes. -/
def sharedTables : State :=
  let s := State.reset.loaded
  { s with
    g := { s.g with mode := 0x21, preds := [(1, 1)] }
    m := { s.m.putHome false 0x3000 8 0x008000004000008F with keel := [tableLine], dir := [{ line := 0x60, owner := some 32, sharers := [] }] }
    dev := { s.dev with mevsel := firstWriteSelectors } }

/-- A store with the same value at each of several places. -/
theorem get_map_const {w : Nat} (v : BitVec w) {l : List Nat} {n : Nat} (h : n ∈ l) : Store.get (l.map fun n => (n, v)) n = v := by
  induction l with
  | nil => cases h
  | cons k t ih =>
    rw [List.map_cons, Store.get_cons]
    split
    · rfl
    · next hne => exact ih ((List.mem_cons.mp h).resolve_left hne)

/-- Nothing is logged, owed or kept, and no other group is there. -/
theorem sharedTables_named : NamesGiven sharedTables where
  logged := by
    rintro g (rfl | hg | ⟨b, hb, -⟩ | ⟨x, hx, -⟩)
    · refine ⟨?_, ?_, fun b => ?_⟩
      · exact fun _ hx => nomatch hx
      · exact fun _ hx => nomatch hx
      · have hbank : sharedTables.g.bankOf b = Bank.init := by
          unfold Group.bankOf
          repeat' split
          all_goals rfl
        rw [hbank]
        constructor <;> exact fun _ hx => nomatch hx
    · cases hg
    · cases hb
    · cases hx
  given := by decide +kernel
  apart := by decide +kernel
  kept := fun _ hb => nomatch hb
  disjoint := fun _ hb => nomatch hb

/-- In a state with the counters of `sharedTables`, in which context 0 has logged no line, the write of the dirty word counts. -/
theorem tableWord_counts {u : State} (hdev : u.dev.mevsel = firstWriteSelectors)
    (hfirst : ((u.ctx 0).any fun x => !u.hasLog 0 x.opened (lineOf 0x3040)) = true) : FirstWriteCounts u tableWord.ctx (4 * tableWord.word) where
  hbm := by decide
  first := hfirst
  selected := fun k hk => by
    have hch : channelAt (4 * tableWord.word) < 128 := Nat.mod_lt _ (by omega)
    have hget : Store.get u.dev.mevsel (4 * channelAt (4 * tableWord.word) + k) = 0x80000008#32 := by
      rw [hdev]
      unfold firstWriteSelectors
      exact get_map_const _ (List.mem_range.mpr (by omega))
    rw [hget]
    rfl

/-- A device whose count for the dirty word's channel has moved since issue is not that of `sharedTables` but for the core counters. -/
theorem uncounted_ne_of_count {u t : State} (hdev : u.dev.uncounted = sharedTables.dev.uncounted) (hcount : t.channelCount 0x3040 = u.channelCount 0x3040 + 1#64) :
    t.dev.uncounted ≠ sharedTables.dev.uncounted := by
  intro hkept
  have hu : u.channelCount 0x3040 = 0#64 := channelCount_of_uncounted hdev _
  have ht : t.channelCount 0x3040 = 0#64 := channelCount_of_uncounted hkept _
  rw [ht, hu] at hcount
  exact absurd hcount (by decide)

/-! ### The XFENCE -/

/-- XFENCE once nothing it waits for is outstanding (R197, R221). -/
theorem xfence_runs {s : State} {c t f : BitVec 4} (h : s.issues (.xfence c t f) = true)
    (hgo : (let u := s.start (.xfence c t f)
      !u.crossPending f.toNat t.toNat c.toNat && (!publishes f.toNat t.toNat || (u.ownDirty u.g).all (u.lineReady u.g.gid))) = true) :
    exec (.xfence c t f) s = .next ((s.start (.xfence c t f)).cross f.toNat t.toNat).done := by
  show execXfence c t f s = _
  unfold execXfence
  exact issueOr_next h hgo

/-- From the keel path to the group path at team scope. -/
abbrev publishing : Instr := .xfence 2 0 2

theorem publishing_counts : ((sharedTables.start publishing).cross 2 0).channelCount 0x3040 = (sharedTables.start publishing).channelCount 0x3040 + 1#64 := by
  have hcounts : FirstWriteCounts (sharedTables.start publishing) tableWord.ctx (4 * tableWord.word) :=
    tableWord_counts (by rw [State.start_dev]; rfl) (by decide +kernel)
  have hown : (sharedTables.start publishing).ownDirty (sharedTables.start publishing).g = [tableLine] := by decide +kernel
  have hpublish := State.publish_counts (k := tableLine) (by decide +kernel) rfl hcounts
  have hdev := State.cross_dev (sharedTables.start publishing) 2 0
  rw [if_pos (by decide), hown] at hdev
  unfold State.channelCount at hpublish ⊢
  rw [hdev]
  exact hpublish

/-- Refutes O23: an XFENCE that publishes a dirty word whose line its context had not written in the interval is counted by the line's controller in MEVCNT, a device
register that the frame of the claim keeps. -/
theorem not_prefetchesAndFences : ¬ Obligations.PrefetchesAndFences := by
  unfold Obligations.PrefetchesAndFences
  rintro ⟨-, -, hholding⟩
  have hissues : sharedTables.issues publishing = true := by decide +kernel
  obtain ⟨t, hexec, hkeeps, -⟩ := (hholding sharedTables 2 0 2 0).1 hissues (by decide +kernel) (fun _ => by decide +kernel)
  have hrun : exec publishing sharedTables = .next ((sharedTables.start publishing).cross 2 0).done := xfence_runs hissues (by decide +kernel)
  obtain rfl := Host.Outcome.next.inj (hexec.symm.trans hrun)
  have hdone : ((sharedTables.start publishing).cross 2 0).done.channelCount 0x3040 = ((sharedTables.start publishing).cross 2 0).channelCount 0x3040 :=
    channelCount_of_uncounted (goto_frame ..).device _
  exact uncounted_ne_of_count (by rw [State.start_dev]) (hdone.trans publishing_counts) hkeeps.device

/-! ### The load -/

/-- A load of the first word of the program's page, by lane 0. -/
abbrev reading : Instr := .ld 1 56 0 0

/-- What it asks for under MODE: a weak read of a 32-bit element. -/
def readingSpec : AccSpec := weakSpec .load .global 2

/-- The load as it stands issued. -/
def issuedLoad : State := (sharedTables.start reading).memLogged reading readingSpec

/-- The leaf of the page as its table holds it, A clear. -/
def clearLeaf : Leaf := { pte := 0x008000004000008F, level := 3, slot := 0x3000 }

/-- The log entry of the load. -/
def loadEntry : LogEntry := (sharedTables.start reading).accEntry reading readingSpec

theorem issuedLoad_dev : issuedLoad.dev.uncounted = sharedTables.dev.uncounted := by
  unfold issuedLoad State.memLogged State.done
  rw [(goto_frame ..).device]
  exact congrArg Device.uncounted (State.start_dev ..)

/-- Setting A recalls the line of the table, whose dirty word performs. -/
theorem reading_counts :
    (issuedLoad.target issuedLoad.g loadEntry.i readingSpec 0 0).1.channelCount 0x3040 = issuedLoad.channelCount 0x3040 + 1#64 := by
  have hwalk : issuedLoad.walkFor issuedLoad.g.asker readingSpec.acc 0 = .leaf clearLeaf := by decide +kernel
  have hready : ((issuedLoad.walkReads issuedLoad.g.asker 0).cacheTables issuedLoad.g.asker 0).leafReady clearLeaf.slot = true := by decide +kernel
  have hdev := State.target_sets_dev (s := issuedLoad) (i := loadEntry.i) (n := 0) (hfam := rfl) (halign := by decide) (hcanon := by decide)
    (hsw := by decide +kernel) (hwalk := hwalk) (hcause := by decide +kernel) (hclear := by decide) (hready := hready) (hvalid := by decide +kernel)
  have hcounts : FirstWriteCounts (((issuedLoad.walkReads issuedLoad.g.asker 0).cacheTables issuedLoad.g.asker 0).forgetAt
      (walkName issuedLoad.g.asker.who) clearLeaf.slot) tableWord.ctx (4 * tableWord.word) := tableWord_counts (by decide +kernel) (by decide +kernel)
  have hrecall := State.recall_counts (line := lineOf clearLeaf.slot) (e := { line := 0x60, owner := some 32, sharers := [] }) (k := tableLine)
    (by decide +kernel) rfl (by decide +kernel) rfl hcounts
  unfold State.channelCount at hrecall ⊢
  rw [hdev]
  exact hrecall

/-- The checks of the load: lane 0 alone takes part, and reaches the start of its page. -/
theorem reading_targets : (issuedLoad.targets issuedLoad.g loadEntry.i readingSpec loadEntry.addr (lanesOf (loadEntry.pend &&& ~~~loadEntry.flight))).2 =
    [(0, .ok .vm 0x40000000 0 false)] := by decide +kernel

theorem reading_launches :
    (issuedLoad.launchLog (sharedTables.start reading).seq).dev.uncounted = (issuedLoad.target issuedLoad.g loadEntry.i readingSpec 0 0).1.dev.uncounted := by
  have hentry : issuedLoad.g.entryOf (sharedTables.start reading).seq = some loadEntry := by decide +kernel
  have hlanes : lanesOf (loadEntry.pend &&& ~~~loadEntry.flight) = [0] := by decide +kernel
  have haddr : Store.get loadEntry.addr 0 = 0 := by decide +kernel
  rw [State.launchLog_of_single hentry (by decide +kernel) reading_targets, State.sendLane_dev, hlanes, State.targets_single_state, haddr]

/-- The addresses of the load's lanes as the claim gives them (R203). -/
def claimedAddrs (u : State) : Store 64 := byLane u.grd fun l => u.rd64 56 l + (0#9).signExtend 64 * BitVec.ofNat 64 (u.w / 8)

/-- Refutes O19: a load that must set A of its leaf recalls the leaf's line from the staging cache that owns it; the dirty word performs, and the line's controller counts it
in MEVCNT as a first write of its context, a device register that the frame of the claim keeps. -/
theorem not_memoryAccessesIssue : ¬ Obligations.MemoryAccessesIssue := by
  unfold Obligations.MemoryAccessesIssue
  intro h
  have hissues : sharedTables.issues reading = true := by decide +kernel
  have hlegal : (sharedTables.start reading).memLegal reading = true := by decide +kernel
  have hload := (h sharedTables 1 0 56 0 0 0 sharedTables_named).1 hissues
  rw [if_neg (ne_false_of_eq_true hlegal)] at hload
  have hspec : accSpec reading sharedTables.md = some readingSpec := by decide +kernel
  have hreach : ∀ x ∈ ((sharedTables.start reading).targets (sharedTables.start reading).g reading readingSpec (claimedAddrs (sharedTables.start reading))
      (lanesOf (sharedTables.start reading).grd)).2, x = (0, .ok .vm 0x40000000 0 false) := by decide +kernel
  obtain ⟨t, hexec, hkeeps, -⟩ := hload readingSpec hspec fun x hx => by rw [hreach x hx]; trivial
  have hrun : exec reading sharedTables = .next (issuedLoad.launchLog (sharedTables.start reading).seq) :=
    memory_runs hissues hlegal (by decide +kernel) (by decide +kernel)
  obtain rfl := Host.Outcome.next.inj (hexec.symm.trans hrun)
  exact uncounted_ne_of_count issuedLoad_dev ((channelCount_of_uncounted reading_launches _).trans reading_counts) hkeeps.device

end Sys2Proof.Machine
end
